-- ==== Sys2Proof/Word.lean ====
section
/-!
DEFINITION. The words the machine is made of, the sparse map every large array of the part is held in, and the names
of the ledger core's instructions (01 Table 1.6), of the register-bus masters (10 Table 10.1) and of the machine-check
causes (07 Table 7.6).
-/
namespace Sys2Proof

/-- One byte. -/
abbrev Byte := BitVec 8
/-- A 32-bit register-page register or 32-bit virtual address. -/
abbrev W32 := BitVec 32
/-- A general register (01 R14). -/
abbrev W64 := BitVec 64
/-- A program-store word: bits 13:0 the word, bits 15:14 its two check bits (01 R24). -/
abbrev PWord := BitVec 16
/-- Number of a ledger core (00 R5). -/
abbrev CoreId := Fin 256
/-- A sparse map, first entry wins; what an unlisted key reads as is said where the map is read. -/
abbrev SMap (α : Type) := List (Nat × α)

/-- The instructions of a ledger core, one name per mnemonic of 01 Table 1.6; the REGISTER-mode rows whose mnemonic
LEDGER also has carry `rr`. -/
inductive Op where
  | nop | sync | fence | ret | rett | getw | wait | invall | neg
  | ld | st | add | sub | mul | div | rem | divu | remu | and | or | xor | shl | shr | sar | rol | ror | ldb | stb | lda
  | ldx1 | ldx2 | stx1 | stx2 | adx1 | adx2 | lax1 | lax2 | ldsp | stsp | adsp | lasp
  | mfcr | mtcr | doneI | post | doorb | jmpr | callr | inva | invt | stpw | ldpw | mfb | mtb
  | dld | dst | dadd | dsub | dmul | ddiv | drem | dscl | dcvb | dcvd | tally | dcmpb
  | daddm | dsubm | packz | unpkz
  | mvs | trs | scn | edit | edmk | cls
  | bcmp | jmp | call | bcmpl
  | rrAdd | rrSub | rrMul | mulhs | mulhu | rrDiv | rrDivu | rrRem | rrRemu | rrAnd | rrOr | rrXor | andn
  | rrShl | rrShr | rrSar | rrRol | rrRor | rrNeg | not | mov | slt | sltu
  | faddS | faddD | fsubS | fsubD | fmulS | fmulD | fdivS | fdivD | fsqrtS | fsqrtD | fminS | fminD | fmaxS | fmaxD
  | feqS | feqD | fltS | fltD | fleS | fleD | fcvtDS | fcvtSD | fcvtSL | fcvtDL | fcvtLS | fcvtLD
  | ldi | ldhi | addi | andi | ori | xori | shli | shri | sari | roli | muli
  | ld8u | ld8s | ld16u | ld16s | ld32u | ld32s | ld64 | st8 | st16 | st32 | st64
  deriving DecidableEq, Repr

/-- The masters that reach register pages (11 R289, 10 Table 10.1). -/
inductive RegMaster where
  /-- the host port, id 0x300 -/
  | host
  /-- the Uaska peer at ring position p, id 0x310 + p -/
  | peer (p : Fin 8)
  /-- JTAG in SURVEY, id 0x320 -/
  | debug
  /-- Crozier's configuration path in stage S4, id 0x102 -/
  | crozier
  deriving DecidableEq, Repr

/-- What makes a machine check that no instruction of the core raises by itself (07 Table 7.6). -/
inductive MckCause where
  /-- a microword read at this micro-address as these 36 bits: parity or an illegal word (R163, R172) -/
  | microword (uaddr : BitVec 14) (word : BitVec 36)
  /-- match register n holds this image, whose parity fails (R172) -/
  | matchParity (n : Fin 32) (image : W32)
  /-- an address outside the control store was formed (R161) -/
  | badAddress (uaddr : BitVec 14)
  /-- the micro-return stack was misused (R166) -/
  | stackMisuse (uaddr : BitVec 14)
  deriving DecidableEq, Repr

end Sys2Proof
end

