-- ==== Sys2Proof/Syntax.lean ====
section
/-!
DEFINITION. The commands: one constructor per row of spec/opcode_table.json. A core instruction names its core; the
instruction words themselves stand in the core's program store and are fetched and decoded when the command is
carried out (log entry 1). An interruptible instruction also says how many trap points it passes before it pauses at
one (03 R90): a number past its last lets it end. An event carries what the outside world fixes.
-/
namespace Sys2Proof

inductive Instr where
  | nop (c : CoreId)
  | sync (c : CoreId)
  | fence (c : CoreId)
  | ret (c : CoreId)
  | rett (c : CoreId)
  | getw (c : CoreId)
  | wait (c : CoreId)
  | invall (c : CoreId)
  | neg (c : CoreId)
  | ld (c : CoreId)
  | st (c : CoreId)
  | add (c : CoreId)
  | sub (c : CoreId)
  | mul (c : CoreId)
  | div (c : CoreId)
  | rem (c : CoreId)
  | divu (c : CoreId)
  | remu (c : CoreId)
  | and (c : CoreId)
  | or (c : CoreId)
  | xor (c : CoreId)
  | shl (c : CoreId)
  | shr (c : CoreId)
  | sar (c : CoreId)
  | rol (c : CoreId)
  | ror (c : CoreId)
  | ldb (c : CoreId)
  | stb (c : CoreId)
  | lda (c : CoreId)
  | ldx1 (c : CoreId)
  | ldx2 (c : CoreId)
  | stx1 (c : CoreId)
  | stx2 (c : CoreId)
  | adx1 (c : CoreId)
  | adx2 (c : CoreId)
  | lax1 (c : CoreId)
  | lax2 (c : CoreId)
  | ldsp (c : CoreId)
  | stsp (c : CoreId)
  | adsp (c : CoreId)
  | lasp (c : CoreId)
  | mfcr (c : CoreId)
  | mtcr (c : CoreId)
  | doneI (c : CoreId)
  | post (c : CoreId)
  | doorb (c : CoreId)
  | jmpr (c : CoreId)
  | callr (c : CoreId)
  | inva (c : CoreId)
  | invt (c : CoreId)
  | stpw (c : CoreId)
  | ldpw (c : CoreId)
  | mfb (c : CoreId)
  | mtb (c : CoreId)
  | dld (c : CoreId)
  | dst (c : CoreId)
  | dadd (c : CoreId)
  | dsub (c : CoreId)
  | dmul (c : CoreId) (points : Nat)
  | ddiv (c : CoreId) (points : Nat)
  | drem (c : CoreId) (points : Nat)
  | dscl (c : CoreId)
  | dcvb (c : CoreId)
  | dcvd (c : CoreId)
  | tally (c : CoreId)
  | dcmpb (c : CoreId)
  | daddm (c : CoreId) (points : Nat)
  | dsubm (c : CoreId) (points : Nat)
  | packz (c : CoreId)
  | unpkz (c : CoreId)
  | mvs (c : CoreId) (points : Nat)
  | trs (c : CoreId) (points : Nat)
  | scn (c : CoreId) (points : Nat)
  | edit (c : CoreId) (points : Nat)
  | edmk (c : CoreId) (points : Nat)
  | cls (c : CoreId) (points : Nat)
  | bcmp (c : CoreId)
  | jmp (c : CoreId)
  | call (c : CoreId)
  | bcmpl (c : CoreId)
  | rrAdd (c : CoreId)
  | rrSub (c : CoreId)
  | rrMul (c : CoreId)
  | mulhs (c : CoreId)
  | mulhu (c : CoreId)
  | rrDiv (c : CoreId)
  | rrDivu (c : CoreId)
  | rrRem (c : CoreId)
  | rrRemu (c : CoreId)
  | rrAnd (c : CoreId)
  | rrOr (c : CoreId)
  | rrXor (c : CoreId)
  | andn (c : CoreId)
  | rrShl (c : CoreId)
  | rrShr (c : CoreId)
  | rrSar (c : CoreId)
  | rrRol (c : CoreId)
  | rrRor (c : CoreId)
  | rrNeg (c : CoreId)
  | not (c : CoreId)
  | mov (c : CoreId)
  | slt (c : CoreId)
  | sltu (c : CoreId)
  | faddS (c : CoreId)
  | faddD (c : CoreId)
  | fsubS (c : CoreId)
  | fsubD (c : CoreId)
  | fmulS (c : CoreId)
  | fmulD (c : CoreId)
  | fdivS (c : CoreId)
  | fdivD (c : CoreId)
  | fsqrtS (c : CoreId)
  | fsqrtD (c : CoreId)
  | fminS (c : CoreId)
  | fminD (c : CoreId)
  | fmaxS (c : CoreId)
  | fmaxD (c : CoreId)
  | feqS (c : CoreId)
  | feqD (c : CoreId)
  | fltS (c : CoreId)
  | fltD (c : CoreId)
  | fleS (c : CoreId)
  | fleD (c : CoreId)
  | fcvtDS (c : CoreId)
  | fcvtSD (c : CoreId)
  | fcvtSL (c : CoreId)
  | fcvtDL (c : CoreId)
  | fcvtLS (c : CoreId)
  | fcvtLD (c : CoreId)
  | ldi (c : CoreId)
  | ldhi (c : CoreId)
  | addi (c : CoreId)
  | andi (c : CoreId)
  | ori (c : CoreId)
  | xori (c : CoreId)
  | shli (c : CoreId)
  | shri (c : CoreId)
  | sari (c : CoreId)
  | roli (c : CoreId)
  | muli (c : CoreId)
  | ld8u (c : CoreId)
  | ld8s (c : CoreId)
  | ld16u (c : CoreId)
  | ld16s (c : CoreId)
  | ld32u (c : CoreId)
  | ld32s (c : CoreId)
  | ld64 (c : CoreId)
  | st8 (c : CoreId)
  | st16 (c : CoreId)
  | st32 (c : CoreId)
  | st64 (c : CoreId)
  /-- an asynchronous trap is taken at core c; `abandon`: the source became pending so many cycles into the core's run (05 R129) -/
  | takeInterrupt (c : CoreId) (abandon : Option Nat)
  /-- CTIMER of core c reaches 0 (05 R127) -/
  | coreTimerExpiry (c : CoreId)
  /-- BUDGET of core c reaches 0 (08 R205) -/
  | budgetOverrun (c : CoreId)
  /-- the grace of core c reaches 0 (08 R205) -/
  | graceExhausted (c : CoreId)
  /-- the sequencer watchdog of core c reaches 4,096 (07 R178) -/
  | watchdogExpiry (c : CoreId)
  /-- a machine check of core c with this cause (07 R173) -/
  | machineCheck (c : CoreId) (cause : MckCause)
  /-- the prefetch walk in progress at core c completes (10 R271) -/
  | prefetchWalk (c : CoreId)
  /-- the oldest write-buffer entry of core c is written (05 R143) -/
  | writeBufferDrain (c : CoreId)
  /-- core c receives its next item; `stopAfter`: an interrupt breaks the bank overflow sequence after that many group transfers (05 R136) -/
  | itemDispatch (c : CoreId) (stopAfter : Option Nat)
  /-- a frame arrives at port p (12 R309) -/
  | frameReceive (p : Fin 16) (frame : List Byte) (fcsGood : Bool)
  /-- the Graticule decides the oldest arrived item (08 R198) -/
  | admitItem
  /-- the item's payload is copied to the stage area (08 R202) -/
  | stageItem (item : Nat)
  /-- the Graticule reads a completed item's texts (08 R207) -/
  | doneTextRead (item : Nat)
  /-- Cairn seals the item's journal entry (09 R252) -/
  | cairnSeal (item : Nat)
  /-- the item's commit timer expires (12 R324) -/
  | commitTimeout (item : Nat)
  /-- the next frame of port p's egress schedule leaves (12 R312) -/
  | frameTransmit (p : Fin 16)
  /-- one microsecond of the admission grid (08 R199) -/
  | fineTick
  /-- queue q moves to frond f (08 R218) -/
  | queueMigration (q : Fin 8192) (f : Fin 32)
  /-- the swap cycle (11 R299) -/
  | shadowSwap
  /-- a write of SWAP_CTL.ARM (11 R302) -/
  | swapArm (m : RegMaster) (arm : Bool)
  /-- a write of SWAP_CTL.NOW (11 R302) -/
  | swapNow (m : RegMaster)
  /-- a write of SWAP_CTL.DISCARD (11 R303) -/
  | swapDiscard (m : RegMaster)
  /-- a write of PAGE_CTL.RESYNC (11 R296) -/
  | pageResync (m : RegMaster) (page : Fin 2048)
  /-- Cartouche has the shadow digest (14 R382) -/
  | shadowDigestDone
  /-- a 32-bit register write (11 R290, R294); from page 2048 on, block page − 2048 of 512 bytes of
  BAR2, which only the host reaches (12 R329) -/
  | registerWrite (m : RegMaster) (page : Fin 2304) (off : Nat) (be : BitVec 4) (v : W32)
  /-- a page does not answer an access; `write`: the value, none for a read; `made`: whether the write was made (11 R295) -/
  | registerBusTimeout (m : RegMaster) (page : Fin 2048) (off : Nat) (write : Option W32) (made : Bool)
  /-- a write of DB_ACK[c].POP (08 R209) -/
  | dbAck (m : RegMaster) (c : CoreId)
  /-- a write of HIRQ_SET[i] (12 R338) -/
  | hirqSet (m : RegMaster) (i : Fin 8) (v : W32)
  /-- a write of CH_CTL.GO; `blocks`: 64-byte blocks moved before the next command (09 R236) -/
  | dmaGo (m : RegMaster) (ch : Fin 1024) (blocks : Nat)
  /-- a write of CH_CTL.ABORT (09 R244) -/
  | dmaAbort (m : RegMaster) (ch : Fin 1024)
  /-- a ring channel reads PROD (09 R237) -/
  | dmaRingPoll (ch : Fin 1024) (blocks : Nat)
  /-- the descriptor in progress ends; `blocks`: blocks of the next one moved (09 R241) -/
  | dmaDescriptorComplete (ch : Fin 1024) (blocks : Nat)
  /-- the channel has moved no byte for its limit (13 R363) -/
  | dmaChannelTimeout (ch : Fin 1024)
  /-- a write of PD_CTL that sets bits (13 R354) -/
  | powerDownRequest (m : RegMaster) (v : W32)
  /-- a write of PD_CTL that clears bits (13 R354) -/
  | powerUpRequest (m : RegMaster) (v : W32)
  /-- engine t's hold of a power-down request times out (09 R246) -/
  | dmaPdTimeout (t : Fin 4)
  /-- a power domain, coded as DMA_PD_STS.DOMAIN, goes off (13 R354) -/
  | domainOff (code : BitVec 8)
  /-- a power domain comes on (13 R354) -/
  | domainOn (code : BitVec 8)
  /-- the scrubber reads a word and finds 0 no error, 1 a single-bit error, 2 an uncorrectable word (09 R224) -/
  | scrubRead (addr : Nat) (finding : Fin 3)
  /-- the scrubber writes a corrected word back (09 R224) -/
  | scrubWriteback (addr : Nat)
  /-- a layer's temperature is read (09 R229) -/
  | dsTempRead (l : Fin 8) (temp : Byte)
  /-- a timing recalibration (09 R230) -/
  | dsRecalibration
  /-- a write of DS_CTL.TRAIN (09 R230) -/
  | dsTrain (m : RegMaster)
  /-- training ends; bit l: layer l failed (09 R230) -/
  | dsTrainingDone (lfail : BitVec 8)
  /-- a write of CH_CONS (09 R253) -/
  | chConsWrite (m : RegMaster) (chain : Fin 64) (v : W32)
  /-- Cairn starts a checkpoint set (09 R256) -/
  | checkpointSet
  /-- a write of CAIRN_CTL.CK_NOW (09 R256) -/
  | ckNow (m : RegMaster)
  /-- the set's signature ends (09 R255) -/
  | checkpointSigned
  /-- the oldest stream record's read-back completes (12 R332) -/
  | streamReadback
  /-- a stream read is not completed in time (12 R332) -/
  | streamTimeout
  /-- a write of SK_DATA (10 R279) -/
  | skData (m : RegMaster) (v : W32)
  /-- a write of SK_FILL; `frames`: frames written before the next command (10 R279) -/
  | skFill (m : RegMaster) (v : W32) (frames : Nat)
  /-- the key fill writes its last frame (10 R279) -/
  | skFillDone
  /-- a write of GW_CTL[w] (10 R283) -/
  | gwCtlWrite (m : RegMaster) (g : Fin 549) (w : Fin 16) (v : W32)
  /-- a write of GW_BASE[w], or of GW_SIZE[w] (10 R283) -/
  | gwRangeWrite (m : RegMaster) (g : Fin 549) (w : Fin 16) (size : Bool) (v : W32)
  /-- a write of the page's GATE_CAPSTS or GSLOT_CAPSTS (10 R286) -/
  | captureClear (m : RegMaster) (page : Fin 2048) (v : W32)
  /-- a write of GL_TAIL (10 R287) -/
  | glTailWrite (m : RegMaster) (v : W32)
  /-- a write of one word of a block-register image (10 R275) -/
  | brImageWrite (m : RegMaster) (c : CoreId) (n : Fin 16) (word : Fin 5) (v : W32)
  /-- a write of a page's LOCK register (11 R298) -/
  | lockWrite (m : RegMaster) (page : Fin 2048) (v : W32)
  /-- a write of UC_LOAD_CTL.START (07 R182) -/
  | ucLoadStart (m : RegMaster)
  /-- the load in progress commits (07 R183) -/
  | patchCommit
  /-- the loader refills core c (07 R185) -/
  | patchRefill (c : CoreId) (parityOk : Bool)
  /-- a write of MODE_REQ naming DATUM (13 R346) -/
  | modeReqDatum (m : RegMaster) (discard : Bool)
  /-- a write of MODE_REQ naming STANDBY (13 R340) -/
  | modeReqStandby (m : RegMaster)
  /-- a write of MODE_REQ naming RUN (13 R340) -/
  | modeReqRun (m : RegMaster)
  /-- a write of MODE_REQ naming DRAIN (13 R360) -/
  | modeReqDrain (m : RegMaster)
  /-- ATTN_N has been low for 20 ms (13 R361) -/
  | attnN
  /-- OUTSTANDING is 0 in DRAIN (13 R360) -/
  | drainQuiesced
  /-- the stream wait of DRAIN runs out (13 R360) -/
  | drainStreamTimeout
  /-- the junction sensors are read, each a signed degree Celsius (13 R348) -/
  | thermalSensorRead (temps : List Byte)
  /-- the trip comparator sees a sensor at `temp`, a signed degree Celsius (13 R352) -/
  | thermalTrip (temp : Byte)
  /-- a write of HEALTH_WARM (13 R368) -/
  | healthWarm (m : RegMaster) (v : W32)
  /-- the pending device warm reset is made (13 R359) -/
  | deviceWarmReset
  /-- the context on core c runs past its watchdog (13 R363) -/
  | contextWatchdogExpiry (c : CoreId)
  /-- core c misses its heartbeat (13 R363) -/
  | coreHeartbeatExpiry (c : CoreId)
  /-- a core-port transfer of frond f exceeds 64 cc (13 R363) -/
  | frondSlotTimeout (f : Fin 32)
  /-- a request of this master to this address is unanswered for 4 µs (13 R364) -/
  | fabricTimeout (addr : BitVec 40) (master : BitVec 12)
  /-- a write of HL_TAIL (13 R369) -/
  | hlTailWrite (m : RegMaster) (v : W32)
  /-- a write of FRFENCE (13 R355) -/
  | frfenceWrite (m : RegMaster) (v : W32)
  /-- a fenced frond is empty (13 R355) -/
  | frondFenceComplete (f : Fin 32)
  /-- VDD_AON rises (13 R353) -/
  | vddAonRise
  /-- PORST_N rises; `test`: TESTMODE is high (13 R353, 15 R392) -/
  | porstNRise (strap : BitVec 3) (test : Bool)
  /-- PORST_N falls (13 R353) -/
  | porstNFall
  /-- PWROK falls (13 R353) -/
  | pwrokFall
  /-- of the monitored supplies, those in `low` are below range, for 2 µs; 0: every one is in range (15 R396) -/
  | railFault (low : BitVec 7)
  /-- REFCLK shows no edge for 100 ns (15 R402) -/
  | refclkLoss
  /-- Crozier runs S0 to S3 on the two flash slots (14 R373) -/
  | crozierStart (slot0 slot1 : List Byte)
  /-- a stage overruns its limit, with the slot it stands at, of the two flash slots (14 R373, R374) -/
  | bootStageTimeout (stage : Fin 5) (second : Bool) (slot0 slot1 : List Byte)
  /-- Crozier command 0x01; `flash`: the bytes at the flash address (14 R376) -/
  | flashCopy (flash : List Byte)
  /-- Crozier command 0x02 (14 R376) -/
  | regWrite
  /-- Crozier command 0x03 (14 R376) -/
  | regRead
  /-- Crozier command 0x04 (14 R376) -/
  | patch
  /-- Crozier command 0x05 (14 R376) -/
  | rollback
  /-- Crozier command 0x06 (14 R376) -/
  | enroll
  /-- Crozier command 0x07 (14 R376) -/
  | ownerOnly
  /-- Crozier command 0x08 (14 R376) -/
  | surveyOff
  /-- Crozier command 0x09 (14 R376) -/
  | crozierDone
  /-- Meridian reaches alarm i (13 R345) -/
  | alarmMatch (i : Fin 8)
  /-- EVT_IN[j] has gone from `before` to `level` and stood there for `held` µs ticks (13 R345) -/
  | wakeMatch (j : Fin 4) (before level : Bool) (held : Nat)
  /-- PWROK has not risen in time after a wake (13 R346) -/
  | pwrokWaitTimeout
  /-- a write of MER_CTL.LOAD (13 R343) -/
  | meridianLoad (m : RegMaster)
  /-- a write of CIV_OFF_LO or CIV_OFF_HI (13 R344) -/
  | civOffWrite (m : RegMaster) (hi : Bool) (v : W32)
  /-- 1,000 fc have passed (13 R344) -/
  | civilTrimTick
  /-- civil time reaches a whole second (13 R344) -/
  | ppsOutEdge
  /-- an edge of PPS_IN (13 R344) -/
  | ppsInEdge (rising : Bool)
  /-- a write of LG_CFG (12 R307) -/
  | lgCfgWrite (m : RegMaster) (g : Fin 4) (v : W32)
  /-- a write of MAC_CFG (12 R306) -/
  | macCfgWrite (m : RegMaster) (p : Fin 16) (v : W32)
  /-- a write of RZ_METER[p] (08 R193) -/
  | rzMeterWrite (m : RegMaster) (p : Fin 16) (v : W32)
  /-- a write of UK_CTL (12 R317) -/
  | ukCtlWrite (m : RegMaster) (v : W32)
  /-- XOFF of port p is sent or repeated, or XON sent (12 R310) -/
  | pfcXoffRepeat (p : Fin 16)
  /-- a write of PTP_TXTS3.POP (12 R315) -/
  | ptpTxtsPop (m : RegMaster)
  /-- training of the port or link led by lane 4g + k passes (12 R316) -/
  | linkTrained (g : Fin 4) (k : Fin 4)
  /-- the port or link led by lane 4g + k loses lock (12 R318) -/
  | linkLoss (g : Fin 4) (k : Fin 4)
  /-- a HELLO arrives (12 R319) -/
  | hello (west : Bool) (payload : List Byte)
  /-- a BEAT interval has passed (12 R320) -/
  | beatSend
  /-- a BEAT arrives (12 R320) -/
  | beat (west : Bool) (src : Fin 8) (payload : List Byte)
  /-- a TOPO arrives (12 R320) -/
  | topo (west : Bool) (src : Fin 8) (payload : List Byte)
  /-- a LEAVE arrives (12 R326) -/
  | leave (src : Fin 8)
  /-- a member has sent no BEAT for 3 intervals (12 R320) -/
  | memberLost (d : Fin 8)
  /-- a HEALTH flit arrives, to be passed on where `dst` is another device (13 R367, 12 R320) -/
  | healthFlit (src dst : Fin 8) (record : List Byte)
  /-- a commit message arrives whole, or is to be passed on to `dst` (12 R322) -/
  | cmsg (src dst : Fin 8) (msg : List Byte)
  /-- a commit acknowledgement arrives, or is to be passed on to `dst` (12 R324) -/
  | cack (src dst : Fin 8) (payload : List Byte)
  /-- a flit with NAK set arrives, with its ACK field (12 R318) -/
  | nak (west : Bool) (ack : BitVec 16)
  /-- the oldest unacknowledged flit has waited 1 µs (12 R318) -/
  | replayTimeout (west : Bool)
  /-- a remote request arrives, or is to be passed on to `dst` (12 R327) -/
  | rreq (src dst : Fin 8) (payload : List Byte)
  /-- a remote response arrives, or is to be passed on to `dst` (12 R327) -/
  | rrsp (src dst : Fin 8) (payload : List Byte)
  /-- no RRSP within 8 µs (12 R327) -/
  | remoteAccessTimeout (tag : Nat)
  /-- a host access to the remote window (12 R327) -/
  | remoteWindowAccess (off : Nat) (write : Option W32)
  /-- a host access to the deep-store window, or from offset 2^30 on a host read of a word of BAR2 or of a register (12 R329) -/
  | bar4Access (off : Nat) (write : Option (List Byte)) (len : Nat)
  /-- the PCIe link goes down (12 R333) -/
  | pcieLinkDown
  /-- PCIe fundamental reset (15 R391) -/
  | perstN
  /-- the PCIe link comes up and the host enables the function, with Max_Payload_Size 128 × 2^mps (12 R333) -/
  | pcieLinkUp (speed : BitVec 2) (width : BitVec 4) (mps : Fin 3)
  /-- the host writes and unmasks a vector's table entry (12 R331) -/
  | msixUnmask (v : Fin 2048) (addr : W64) (data : W32)
  /-- a host write into MBX_REQ (12 R334) -/
  | mbxReqWrite (mb : Fin 64) (off : Fin 256) (bytes : List Byte)
  /-- a write of MBX_GO (12 R334) -/
  | mbxGo (mb : Fin 64) (v : W32)
  /-- a write of MBX_ACK (12 R337) -/
  | mbxAck (mb : Fin 64) (v : W32)
  /-- a write of AT_CTL.GO (14 R381) -/
  | atGo (m : RegMaster)
  /-- the report's signature ends (14 R381) -/
  | attestationSigned
  /-- a write of SV_CTL.CHAL (14 R385) -/
  | svChal (m : RegMaster)
  /-- a write of SV_DATA (14 R385) -/
  | svDataWrite (m : RegMaster) (v : W32)
  /-- a write of SV_CTL.SUBMIT (14 R386) -/
  | svSubmit (m : RegMaster)
  /-- a write of SV_CTL.END (14 R388) -/
  | svEnd (m : RegMaster)
  /-- a write of SV_CTL.WARM (14 R387) -/
  | svWarm (m : RegMaster)
  /-- the nonce is 60 s old (14 R385) -/
  | nonceExpiry
  /-- the session's time is over (14 R388) -/
  | sessionExpiry
  /-- TRST_N asserted (14 R388) -/
  | trstN
  /-- JTAG EXTEST with these bits shifted in (14 R384) -/
  | extest (v : List Bool)
  /-- JTAG IDCODE (14 R384) -/
  | idcode
  /-- JTAG SAMPLE/PRELOAD (14 R384) -/
  | samplePreload (v : List Bool)
  /-- JTAG CLAMP (14 R384) -/
  | clamp
  /-- JTAG HIGHZ (14 R384) -/
  | highz
  /-- JTAG SVCHAL with one word shifted in (14 R384) -/
  | svchal (v : W32)
  /-- JTAG SVRESP with one word shifted in (14 R384) -/
  | svresp (v : W32)
  /-- JTAG SVSTAT (14 R384) -/
  | svstat
  /-- JTAG DBGMEM (14 R387) -/
  | dbgmem (addr : BitVec 40) (write : Option W32)
  /-- JTAG DBGCORE (14 R387) -/
  | dbgcore (c : CoreId) (bank : BitVec 4) (reg : BitVec 6)
  /-- JTAG BYPASS (14 R384) -/
  | bypass
  /-- a read of the status block (15 R407) -/
  | i2cRead (len : Nat)
  /-- an I2C write of these data bytes, the first of them the index (15 R407) -/
  | i2cIndexWrite (bytes : List Byte)
  /-- PWROK rises; bit i of `rails`: the monitor reads supply i of RAIL_STS.OK in range (13 R346, 15 R396) -/
  | pwrokRise (rails : BitVec 7)
  /-- power is removed (00 R2) -/
  | powerRemoved
  /-- a training attempt of the port or link led by lane 4g + k fails (13 R363) -/
  | linkTrainingFailed (g : Fin 4) (k : Fin 4)
  /-- a flit with a bad CRC or a gap in SEQ arrives (12 R318) -/
  | flitBadCrcOrGap (west : Bool)
  /-- an IDLE flit arrives, with its ACK and CRD fields (12 R318) -/
  | idle (west : Bool) (ack : BitVec 16) (crd : Byte)
  /-- the host moves the function into or out of D3hot (12 R328) -/
  | d3hot (enter : Bool)
  deriving DecidableEq, Repr

end Sys2Proof
end

