-- ==== Sys2Proof/Decode.lean ====
section
/-!
DEFINITION. The command that a word spells. spec/opcode_table.json gives its rows no bits (a core instruction's own words are
decoded in Machine/CoreDecode.lean), so no word spells a command.
-/
namespace Sys2Proof

/-- The command a word spells by the table's bits: the table gives none. -/
def decodeTableWord (_nbits _w : Nat) : Option Instr := none

end Sys2Proof
end

