-- ==== Sys2Proof/Config.lean ====
section
/-!
DEFINITION. What one device of the part fixes and the spec leaves open: bodiless constants, so no proof can see a value.
-/
namespace Sys2Proof.Config

/-- LEGEND[5].UC_REV: microcode ROM revision, per stepping (01 Table 1.10). -/
opaque ucRev : BitVec 16
/-- LEGEND[7].STEP_MAJOR, per stepping (01 Table 1.10). -/
opaque stepMajor : BitVec 8
/-- LEGEND[7].STEP_MINOR, per stepping (01 Table 1.10). -/
opaque stepMinor : BitVec 8
/-- Bits 31:0 of the microcode ROM word at a micro-address below 0x2000 that is no trap point (07 Table 7.1): fixed for a stepping,
not printed in the spec. -/
opaque romBits : BitVec 13 → BitVec 32
/-- Where the ROM holds its words: the k-th trap point of OPID o stands at the place of 64 * o + k (07 R168). -/
opaque romPlace : Equiv.Perm (BitVec 13)
/-- Number of the last trap point of the instruction with this OPID in the ROM. -/
opaque romPoints : (opid : BitVec 5) → BitVec 6
/-- Which of its trap points an instruction stands at after the run with this number. -/
opaque trapPoint : (opid : BitVec 5) → (run : Nat) → BitVec 6
/-- TGT of the trap point at a micro-address. -/
opaque romTarget : BitVec 13 → BitVec 10
/-- The ROM entry address that the decode unit selects for an instruction (07, The control store). -/
opaque romEntry : Op → BitVec 13
/-- Whether the ROM's routine for an instruction has the word at a micro-address on one of its paths. -/
opaque romUses : Op → BitVec 13 → Bool
/-- The ROM entry address of the trap entry for a code (05 R123). -/
opaque romTrap : (code : BitVec 5) → BitVec 13
/-- Whether that trap entry has the word at a micro-address on one of its paths. -/
opaque romTrapUses : (code : BitVec 5) → BitVec 13 → Bool
/-- The ROM entry address of the bank overflow sequence (05 R134). -/
opaque romOverflow : BitVec 13
/-- Whether the bank overflow sequence has the word at a micro-address on one of its paths. -/
opaque romOverflowUses : BitVec 13 → Bool
/-- Result, carry and signed overflow of an ALU function whose result or flag 07 Table 7.2 does not state: function, width, operands,
carry in. -/
opaque aluOut : (fn w : Nat) → (a b : W64) → (c : Bool) → W64 × Bool × Bool
/-- The bits of a destination above the width of an ALU microword: width, destination before, result. -/
opaque aluUpper : (w : Nat) → (old v : W64) → W64
/-- What a digit function gives: half-field, DC, DV, DS, OVR, RUP, the carry that CIN takes next, guard and sticky latch. -/
structure DigitOut where
  v : BitVec 128
  dc : Bool
  dv : Bool
  ds : Bool
  ovr : Bool
  rup : Bool
  carry : Bool
  gs : Byte
  deriving DecidableEq, Repr, Inhabited
/-- What a digit function works on: function, DA, DB, DD before, shift, carry in, rounding mode, guard and sticky latch. -/
structure DigitIn where
  fn : Nat
  a : BitVec 128
  b : BitVec 128
  d : BitVec 128
  cnt : Nat
  c : Bool
  mode : Nat
  gs : Byte
  deriving DecidableEq, Repr
/-- What a digit function gives where 07 Table 7.2 does not state it. -/
opaque digitOut : DigitIn → DigitOut
/-- What a register select of 07 Table 7.3 holds after a memory read whose bytes do not fill it: select, value before, bytes. -/
opaque microLoad : (sel : Nat) → (old : BitVec 128) → (bs : List Byte) → BitVec 128
/-- The bytes that a memory write of another size than its register takes: select, value, bytes. -/
opaque microStore : (sel : Nat) → (v : BitVec 128) → (n : Nat) → List Byte
/-- MDR, 16 bytes, as a 64-bit operand. -/
opaque mdrRead : BitVec 128 → W64
/-- MDR with a 64-bit result written. -/
opaque mdrWrite : (old : BitVec 128) → (v : W64) → BitVec 128
/-- IR and IRX: instruction words as an operand (07 Table 7.3). -/
opaque irImage : List PWord → W64
/-- The bytes that a frond-adder request leaves: bytes before, operand (07 Table 7.2). -/
opaque frondAdder : (old : List Byte) → (v : BitVec 128) → List Byte
/-- The two parity bits of a match-register image, of its bits 31:2 (07 UC_PEEK_DATA): the spec does not say which bits each covers. -/
opaque matchParity : BitVec 32 → BitVec 2
/-- The free values of the part, one per use: see log entry 9. -/
opaque freeValue : Nat → BitVec 64

/-- CAUSE of a HEALTH record for an event for which 13 Table 13.9 lists none: a return, a wake, a power-up. -/
opaque otherCause : BitVec 8

/-- Relwen's PCIe Vendor ID (12 R328). -/
opaque vendorId : BitVec 16
/-- Fuses that Relwen blows at test (14 Table 14.1). -/
opaque rootHash : BitVec 256
opaque patchKey : BitVec 256
opaque patchPkh : BitVec 256
opaque idSeed : BitVec 256
opaque serial : BitVec 64
/-- M_ROM, the SHA-256 of the Crozier ROM (14 Table 14.4). -/
opaque romDigest : BitVec 256
/-- Cartouche's entropy source (14 R385): the n-th nonce. -/
opaque entropy : Nat → BitVec 256

end Sys2Proof.Config
end

