-- ==== Sys2Proof/Machine/CoreState.lean ====
section
/-!
DEFINITION. The state of one ledger core: its nine banks, its block registers, its latches and buffers (01, 03, 05, 06,
07, 10). Plain data; the defaults are the core-reset values (13 R357).
-/
namespace Sys2Proof.Machine

/-- CSW without its BANK field, which a read supplies (01, CSW). Bit 0 always reads 0. -/
structure CSW where
  ctag : BitVec 8
  resume : Bool
  rstrap : Bool
  mode : BitVec 2
  priv : Bool
  key : BitVec 4
  /-- bit 3 fast interrupt, 2 host, 1 core timer, 0 Graticule doorbell -/
  imask : BitVec 4
  rmode : BitVec 3
  sat : Bool
  dovt : Bool
  bovt : Bool
  deriving DecidableEq, Repr

/-- CSW at core reset, 0x0000_87A4 (01, CSW). -/
def CSW.atReset : CSW := ⟨0, false, false, 0, true, 0, 15, 2, false, true, false⟩

/-- FCSW (01): FRM, the five trap enables and the five sticky flags, each in the order NV DZ OF UF NX from bit 4 down. -/
structure FCSW where
  frm : BitVec 3
  en : BitVec 5
  fl : BitVec 5
  deriving DecidableEq, Repr

/-- What an interruptible instruction has in hand at a trap point: the fields of CONT[0] to CONT[3] (03 R91) and the
digit latch group (03 R93). -/
structure Flight where
  /-- CONT[0].OPID: the instruction continued -/
  opid : BitVec 5
  dir : Bool
  flags : BitVec 3
  fill : Byte
  doneN : BitVec 16
  len : BitVec 16
  addr1 : BitVec 32
  addr2 : BitVec 32
  addr3 : BitVec 32
  step1 : BitVec 2
  step2 : BitVec 2
  estate : BitVec 3
  soff : BitVec 16
  sbyte : Byte
  dphase : BitVec 56
  latch : SMap W64
  /-- nothing has been charged yet since the start or the resumption (06 R157) -/
  fresh : Bool
  /-- resumed by a RETT from BF: its resume setup and a re-charged far chunk are not charged to BUDGET (06 R160) -/
  fromBF : Bool := false
  deriving DecidableEq, Repr

/-- One register bank (05, section Register banks). -/
structure Bank where
  /-- G0 to G31; an unlisted register holds 0 -/
  g : SMap W64
  pc : BitVec 16
  csw : CSW
  fcsw : FCSW
  /-- DSTICKY bits 2:0: OVF, SAT, INX -/
  dsticky : BitVec 3
  dscale : BitVec 5
  tpc : BitVec 16
  tcsw : CSW
  /-- TCSW.BANK -/
  tcswBank : BitVec 4
  tcause : BitVec 32
  taddr : W64
  /-- return-stack entries E0 to E7 (RSTKA, RSTKB) -/
  rstk : SMap (BitVec 16)
  rsP : BitVec 3
  rsD : BitVec 4
  cont0 : W64
  cont1 : W64
  cont2 : W64
  cont3 : W64
  /-- the digit latch group, 16 doublewords -/
  latch : SMap W64
  /-- the five dirty bits of BSTAT -/
  dirty : BitVec 5
  res : Bool
  ctx : BitVec 16
  age : BitVec 3
  bsave : BitVec 40
  deriving DecidableEq, Repr

/-- A bank at core reset (05, the reset values of each bank register). -/
def Bank.atReset : Bank :=
  { g := [], pc := 0, csw := CSW.atReset, fcsw := ⟨0, 0, 0⟩, dsticky := 0, dscale := 0, tpc := 0
    tcsw := CSW.atReset, tcswBank := 0, tcause := 0, taddr := 0, rstk := [], rsP := 0, rsD := 0
    cont0 := 0, cont1 := 0, cont2 := 0, cont3 := 0, latch := [], dirty := 0, res := false, ctx := 0
    age := 0, bsave := 0 }

/-- BWIN (05). -/
structure BWin where
  inc : Bool
  reg : BitVec 6
  bank : BitVec 4
  deriving DecidableEq, Repr

/-- A block register (10 R262): the two doublewords of its descriptor (10 Table 10.2), its tag, and the address of the
table descriptor it was filled from (none: installed through its image, R275). -/
structure BlockReg where
  valid : Bool
  tag : BitVec 8
  d0 : W64
  d1 : W64
  src : Option Nat
  deriving DecidableEq, Repr

/-- One entry of the frond-store write buffer (05 R143): a piece of a store inside one 16-byte chunk. -/
structure WEntry where
  addr : Nat
  bytes : List Byte
  deriving DecidableEq, Repr

/-- What a core is doing (07 UC_CORE_STS, 08 R204, 05 R128). -/
inductive RunState where
  /-- held, UC_CORE_STS.HELD -/
  | held
  /-- running instructions -/
  | running
  /-- waiting in GETW for an item -/
  | inGetw
  /-- waiting in WAIT for an interrupt -/
  | inWait
  /-- stopped until a core reset (07 R175, 09 R225) -/
  | stopped
  deriving DecidableEq, Repr

/-- The stored condition bits of the sequencer (07 Table 7.4); CZ, IRQ and SAT follow from other state. -/
structure Conds where
  az : Bool := false
  an : Bool := false
  ac : Bool := false
  av : Bool := false
  dc : Bool := false
  dz : Bool := false
  dv : Bool := false
  ds : Bool := false
  acf : Bool := false
  miss : Bool := false
  rup : Bool := false
  ovr : Bool := false
  deriving DecidableEq, Repr

/-- The sequencer and its registers (07 R161 to R169, Table 7.3); the spec gives no reset value (log 60). -/
structure Micro where
  /-- T0 to T7 -/
  t : SMap W64 := []
  /-- EA1 to EA3 -/
  ea : SMap W64 := []
  cnt : W64 := 0
  len : W64 := 0
  mdr : BitVec 128 := 0
  /-- IR and IRX -/
  ir : W64 := 0
  irx : W64 := 0
  cond : Conds := {}
  /-- carry of the last digit operation, which CIN takes -/
  carry : Bool := false
  /-- guard and sticky latch -/
  gs : Byte := 0
  /-- far chunks requested: cycles until their release, data (R162) -/
  due : List (Nat × BitVec 128) := []
  /-- last trap point (R168) -/
  ltp : BitVec 14 := 0
  /-- micro-return stack, newest first (R166) -/
  stack : List (BitVec 14) := []
  /-- a microword of this instruction has written PC -/
  pcSet : Bool := false
  /-- this instruction has executed a TRAPPT -/
  pointed : Bool := false
  /-- TCAUSE code, ACC and DETAIL, and TADDR, of the last access check that failed -/
  failed : Option (Nat × Nat × Nat × W64) := none
  /-- the next micro-address of a patched instruction that stands at a trap point -/
  next : Option (BitVec 14) := none
  /-- the register that a load with a load delay writes (05 R139), with what a microword has given it -/
  delay : Option (Nat × Option W64) := none
  /-- registers G0 to G31 that microwords of this instruction have written, with what each held before -/
  wrote : SMap W64 := []
  deriving DecidableEq, Repr

/-- One ledger core. -/
structure Core where
  /-- banks B0 to B7 and BF (8); an unlisted bank is as at core reset -/
  banks : SMap Bank
  /-- number of the current bank, CSW.BANK -/
  cur : Nat
  /-- TVB.BASE -/
  tvb : BitVec 8
  pendTvb : Option (BitVec 8)
  bwin : BWin
  pendBwin : Option BWin
  pendKey : Option (BitVec 4)
  pendCtag : Option (BitVec 8)
  pendMode : Option (BitVec 2)
  budget : BitVec 32
  /-- BUDGET has reached 0 for the current item and runs on the grace (08 R205) -/
  onGrace : Bool
  ctimer : BitVec 32
  /-- a load whose register is written at the end of the next instruction (05 R139) -/
  ldPend : Option (Nat × W64)
  /-- the fetch latch: the words of the next instruction (01, 05 R142); none: empty -/
  latch : Option (List PWord)
  /-- the interruptible instruction at PC that stands at a trap point -/
  flight : Option Flight
  /-- frond-store write buffer, oldest first -/
  wbuf : List WEntry
  /-- BR[0] to BR[15]; an unlisted register is invalid -/
  br : SMap BlockReg
  /-- block-register numbers, most recently hit or filled first -/
  brRank : List Nat
  /-- block-register images that are pending (10 R275) -/
  brImage : List Nat
  /-- a prefetch walk in progress, for this virtual address (10 R271) -/
  prefetch : Option (BitVec 32)
  pendTimer : Bool
  pendFast : Bool
  pendOverrun : Bool
  run : RunState
  /-- machine-check state (07 R175) -/
  mck : Bool
  /-- in the Graticule's pool -/
  pool : Bool
  /-- sequencer watchdog and its high-water mark (07 R178) -/
  wdog : Nat
  wdogHi : Nat
  /-- cycles spent, the model's account of 06 R146 -/
  cc : Nat
  /-- cycles spent so far by the run in progress -/
  spent : Nat
  /-- cycles of that run that BUDGET does not count (06 R160) -/
  unbilled : Nat
  /-- the work in progress is what microwords have been run for: it costs no cycles beside theirs (07 R170) -/
  paid : Bool
  /-- the run in progress has stored a byte (05 R129) -/
  stored : Bool
  /-- the cycle of the run in progress by which the interrupt of a TAKE_INTERRUPT became pending; none between commands -/
  intAt : Option Nat
  /-- cycles of the current item counted by the context watchdog (13 R363) -/
  ctxCc : Nat
  /-- the context's item: its number in the Graticule -/
  item : Option Nat
  /-- patch RAM, 512 words of 36 bits -/
  patchRam : SMap (BitVec 36)
  /-- match registers: the 32-bit images of 07 R180 with their parity in bits 1:0; an unlisted register is cleared -/
  matchReg : SMap W32
  patchLevel : BitVec 16
  /-- the sequencer -/
  micro : Micro
  /-- banks whose context was discarded while they were current: emptied at the next GETW in them (13 R365) -/
  discard : List Nat
  /-- returned by a refill and not yet back in GETW (13 R366) -/
  returning : Bool
  /-- stopped, its reset to follow (07 R175, 13 R357) -/
  resetDue : Bool
  /-- reset and not yet refilled (07 R177) -/
  refillDue : Bool
  deriving DecidableEq, Repr

/-- A core at core reset (13 R357; 07 UC_CORE_STS: held, B0 current). -/
def Core.atReset : Core :=
  { banks := [], cur := 0, tvb := 0, pendTvb := none, bwin := ⟨false, 0, 0⟩, pendBwin := none, pendKey := none
    pendCtag := none, pendMode := none, budget := 0, onGrace := false, ctimer := 0, ldPend := none
    latch := none, flight := none, wbuf := [], br := [], brRank := List.range 16, brImage := []
    prefetch := none, pendTimer := false, pendFast := false, pendOverrun := false, run := .held, mck := false
    pool := false, wdog := 0, wdogHi := 0
    cc := 0, spent := 0, unbilled := 0, paid := false, stored := false, intAt := none, ctxCc := 0, item := none
    patchRam := [], matchReg := [], patchLevel := 0, micro := {}, discard := [], returning := false, resetDue := false, refillDue := false }

end Sys2Proof.Machine
end

