-- ==== Sys2Proof/Machine/Bits.lean ====
section
/-!
DEFINITION. The plain helpers every unit uses: bit fields, byte order (00, Units and numbers: most significant byte
first), and the sparse maps.
-/
namespace Sys2Proof.Machine

/-! ### Sparse maps -/

/-- What a sparse map holds at a key; `d` for a key it does not list. -/
def SMap.get {α : Type} (d : α) : SMap α → Nat → α
  | [], _ => d
  | (k, v) :: t, i => if i = k then v else SMap.get d t i

/-- Whether a sparse map lists a key. -/
def SMap.find? {α : Type} : SMap α → Nat → Option α
  | [], _ => none
  | (k, v) :: t, i => if i = k then some v else SMap.find? t i

/-- The map with key `i` holding `v`; keys stay in rising order where they were. -/
def SMap.put {α : Type} : SMap α → Nat → α → SMap α
  | [], i, v => [(i, v)]
  | (k, w) :: t, i, v => if i < k then (i, v) :: (k, w) :: t else if i = k then (i, v) :: t else (k, w) :: SMap.put t i v

/-- The map with no entry for `i`. -/
def SMap.drop {α : Type} (m : SMap α) (i : Nat) : SMap α := m.filter (fun e => e.1 != i)

/-- The map with only the entries whose key passes. -/
def SMap.keep {α : Type} (p : Nat → Bool) (m : SMap α) : SMap α := m.filter (fun e => p e.1)

/-! ### Fields of a word -/

/-- Bits `lo + w - 1` to `lo` of a word, as a number. -/
def fld {n : Nat} (x : BitVec n) (lo w : Nat) : Nat := x.toNat / 2 ^ lo % 2 ^ w

/-- One bit of a word. -/
def bit {n : Nat} (x : BitVec n) (i : Nat) : Bool := x.getLsbD i

/-- The word with bits `lo + w - 1` to `lo` replaced by `v`. -/
def setFld {n : Nat} (x : BitVec n) (lo w v : Nat) : BitVec n :=
  (x &&& ~~~(BitVec.ofNat n ((2 ^ w - 1) * 2 ^ lo))) ||| BitVec.ofNat n (v % 2 ^ w * 2 ^ lo)

/-- The word with one bit set or cleared. -/
def setBit {n : Nat} (x : BitVec n) (i : Nat) (b : Bool) : BitVec n := setFld x i 1 b.toNat

/-- 0 or 1. -/
def b2n (b : Bool) : Nat := b.toNat

/-- Sign extension of the low `w` bits of a number to 64 bits. -/
def sext64 (w v : Nat) : W64 := (BitVec.ofNat w v).signExtend 64

/-- Number saturating at the top of a `w`-bit counter. -/
def satAdd (w a b : Nat) : Nat := min (a + b) (2 ^ w - 1)

/-! ### Bytes, most significant first -/

/-- The `n` bytes of a number, most significant first. -/
def toBytes : Nat → Nat → List Byte
  | 0, _ => []
  | n + 1, v => BitVec.ofNat 8 (v / 256 ^ n) :: toBytes n v

/-- The number that bytes hold, most significant first. -/
def ofBytes (bs : List Byte) : Nat := bs.foldl (fun a b => a * 256 + b.toNat) 0

/-- `n` zero bytes. -/
def zeros (n : Nat) : List Byte := List.replicate n 0

/-- Bytes `i` to `i + n - 1` of a list. -/
def slice (bs : List Byte) (i n : Nat) : List Byte := (bs.drop i).take n

/-- A list of bytes cut or padded with zeros to `n`. -/
def padTo (n : Nat) (bs : List Byte) : List Byte := (bs ++ zeros n).take n

/-- The number in bytes `i` to `i + n - 1`, most significant first. -/
def beAt (bs : List Byte) (i n : Nat) : Nat := ofBytes (slice bs i n)

/-- Even-parity bit of the low `n` bits of a number. -/
def parity : Nat → Nat → Bool
  | 0, _ => false
  | n + 1, v => xor (v % 2 == 1) (parity n (v / 2))

end Sys2Proof.Machine
end

