-- ==== Sys2Proof/Machine/RegTable.lean ====
section
/-!
DEFINITION. The register pages of the device: the page index (11 Table 11.5) and, page type by page type, every register
with its offset, access type and reset value as its chapter's register description gives them.
-/
namespace Sys2Proof.Machine

/-- The page types of 11 Table 11.5. -/
inductive PageT where
  | devctl | ucBcast | grat | gratDb | rz | rzRules | cairn | cairnCh | skey | gatelog | dstore | sorus | dma
  | storeEcc | gslot | dmaCh | lg | ptp | uaska | pcie | mbx | clocks | mode | datum | power | health | crozier
  | cartouche | survey | mac | gratCq | gratQs | coreUc | coreProt | gate
  deriving DecidableEq, Repr

/-- One row of the page index: first page, page count, type, type code, whether it lies in a thallus domain. -/
structure PageRow where
  first : Nat
  count : Nat
  type : PageT
  code : Nat
  dom : Bool

/-- 11 Table 11.5. -/
def pageIndex : List PageRow :=
  [⟨0x000, 1, .devctl, 0x001, false⟩, ⟨0x001, 1, .ucBcast, 0x002, false⟩, ⟨0x002, 1, .grat, 0x010, false⟩,
   ⟨0x003, 1, .gratDb, 0x011, false⟩, ⟨0x004, 1, .rz, 0x012, false⟩, ⟨0x005, 1, .rzRules, 0x013, false⟩,
   ⟨0x006, 1, .cairn, 0x020, false⟩, ⟨0x007, 2, .cairnCh, 0x021, false⟩, ⟨0x009, 1, .skey, 0x030, false⟩,
   ⟨0x00A, 1, .gatelog, 0x031, false⟩, ⟨0x00B, 1, .dstore, 0x022, false⟩, ⟨0x00C, 4, .sorus, 0x014, true⟩,
   ⟨0x010, 4, .dma, 0x023, true⟩, ⟨0x014, 4, .storeEcc, 0x024, true⟩, ⟨0x018, 4, .gslot, 0x032, false⟩,
   ⟨0x020, 16, .dmaCh, 0x025, true⟩, ⟨0x030, 4, .lg, 0x040, false⟩, ⟨0x034, 1, .ptp, 0x041, false⟩,
   ⟨0x035, 1, .uaska, 0x042, false⟩, ⟨0x036, 1, .pcie, 0x043, false⟩, ⟨0x037, 1, .mbx, 0x044, false⟩,
   ⟨0x038, 1, .clocks, 0x050, false⟩, ⟨0x039, 1, .mode, 0x051, false⟩, ⟨0x03A, 1, .datum, 0x052, false⟩,
   ⟨0x03B, 1, .power, 0x053, false⟩, ⟨0x03C, 1, .health, 0x054, false⟩, ⟨0x03D, 1, .crozier, 0x060, false⟩,
   ⟨0x03E, 1, .cartouche, 0x061, false⟩, ⟨0x03F, 1, .survey, 0x062, false⟩, ⟨0x040, 16, .mac, 0x045, false⟩,
   ⟨0x080, 128, .gratCq, 0x015, false⟩, ⟨0x100, 128, .gratQs, 0x016, false⟩, ⟨0x200, 256, .coreUc, 0x003, true⟩,
   ⟨0x300, 256, .coreProt, 0x033, true⟩, ⟨0x400, 549, .gate, 0x034, false⟩]

/-- The row of the page index that holds a page number, and the page's instance (R305); none: not present. -/
def pageOf (n : Nat) : Option (PageRow × Nat) :=
  (pageIndex.find? (fun r => r.first ≤ n && n < r.first + r.count)).map (fun r => (r, n - r.first))

/-- First page number of a page type. -/
def PageT.first (t : PageT) : Nat := ((pageIndex.find? (fun r => r.type = t)).map (·.first)).getD 0

/-- Thallus whose power domain a page lies in, for the rows marked T (R305). -/
def pageThallus (t : PageT) (i : Nat) : Option Nat :=
  match t with
  | .sorus | .dma | .storeEcc => some i
  | .dmaCh => some (i / 4)
  | .coreUc | .coreProt => some (i / 64)
  | _ => none

/-- A register, or an array of `count` registers `stride` bytes apart: its reset value and, as masks, the bits of each
writable access type (00 Table 0.4); every other bit is RO or reserved. A WO bit is not stored. -/
structure RegDef where
  off : Nat
  stride : Nat := 4
  count : Nat := 1
  reset : Nat := 0
  rw : Nat := 0
  rws : Nat := 0
  rwl : Nat := 0
  w1c : Nat := 0
  wo : Nat := 0

/-- All 32 bits. -/
def all32 : Nat := 0xFFFF_FFFF

/-- The common layout, 11 Table 11.2. PAGE_CTL, ERR_CAP0 and LOCK have write rules of their own. -/
def commonDefs : List RegDef :=
  [{ off := 0x000 }, { off := 0x004 }, { off := 0x008, rw := 0x8000_07FF, wo := 0x4000_0000 },
   { off := 0x00C, w1c := 0x8000_0000 }, { off := 0x010, w1c := 0xE000_FFFF }, { off := 0x014, rw := all32 },
   { off := 0x018, w1c := 0xC000_0000 }, { off := 0x01C }, { off := 0x020, w1c := 0x4000_0000 },
   { off := 0x024, rw := 0xFFFF_00FF, reset := 0xFA }, { off := 0x028, rwl := 3 }]

/-- The block registers of each page type, from 0x100 up, each as its chapter's description gives it. -/
def blockDefs : PageT → List RegDef
  | .devctl => [{ off := 0x100, rw := all32 }, { off := 0x104, rw := all32 }, { off := 0x108, rw := 1, wo := 6 },
      { off := 0x10C, w1c := 0x6000_0000 }, { off := 0x110 }, { off := 0x114 }]
  | .ucBcast => [{ off := 0x100, rwl := 1, wo := 1 }, { off := 0x104 }, { off := 0x108, rwl := all32 },
      { off := 0x10C, rwl := 0xFF }, { off := 0x110, rwl := 0xFFFF }, { off := 0x114 }, { off := 0x120, count := 8 }]
  | .grat => [{ off := 0x100, rws := 0x00E0_FFFF, reset := 0x0021_0028 }, { off := 0x104, rws := 0xFFFF, reset := 0x5A5A },
      { off := 0x108 }, { off := 0x140, count := 16, rws := 0xF_FFFF, reset := 0xF_FFFF }, { off := 0x180, count := 16 },
      { off := 0x1C0 }, { off := 0x200, count := 128 }]
  | .gratDb => [{ off := 0x100, stride := 8, count := 256 }, { off := 0x104, stride := 8, count := 256, wo := 1 }]
  | .rz => [{ off := 0x100, rw := 0x1FFF_0000 }, { off := 0x140, count := 16, rw := 0x00FF_00FF, reset := 0x0010_0015 },
      { off := 0x180, count := 16 }, { off := 0x1C0 }]
  | .rzRules => [{ off := 0x100, stride := 16, count := 128, rw := all32 },
      { off := 0x104, stride := 16, count := 128, rw := 0xFFFF_0000 },
      { off := 0x108, stride := 16, count := 128, rw := 0xFFFB_FFFF },
      { off := 0x10C, stride := 16, count := 128, rw := 0x000F_1FFF }]
  | .cairn => [{ off := 0x100, rw := 2, wo := 1 }, { off := 0x104 }, { off := 0x108 }, { off := 0x10C },
      { off := 0x110, rws := 0x3F_FFFF }, { off := 0x114, rws := 0xFFFF }, { off := 0x118 }, { off := 0x11C, rw := all32 },
      { off := 0x120, rw := all32 }, { off := 0x124, rw := all32 }, { off := 0x128, rw := 0x1F }, { off := 0x12C },
      { off := 0x130, rw := all32 }]
  | .cairnCh => [{ off := 0x100, stride := 32, count := 32, rws := 0xC000_FFFF },
      { off := 0x104, stride := 32, count := 32, rws := 0x3F_FFFF }, { off := 0x108, stride := 32, count := 32, rws := 0xFFFF },
      { off := 0x10C, stride := 32, count := 32 }, { off := 0x110, stride := 32, count := 32, rw := all32 },
      { off := 0x114, stride := 32, count := 32 }, { off := 0x118, stride := 32, count := 32 },
      { off := 0x11C, stride := 32, count := 32 }]
  | .skey => [{ off := 0x100, rw := 1 }, { off := 0x104, rw := 0xFFFF_F000 }, { off := 0x108, rw := 0xFF },
      { off := 0x10C, rw := 0xFF }, { off := 0x110, rw := 0x3FFF_FFFF, wo := 0x8000_0000 }, { off := 0x114 },
      { off := 0x118, rwl := 0xFFF }]
  | .gatelog => [{ off := 0x100, count := 256 }, { off := 0x500 }, { off := 0x504, rw := 0xFFFF }, { off := 0x508 }]
  | .dstore => [{ off := 0x100 }, { off := 0x104, w1c := 0x8000_0000 }, { off := 0x108 }, { off := 0x10C },
      { off := 0x110, rw := 0x4000_0000, wo := 0x8000_0000 }, { off := 0x114 }, { off := 0x120, count := 8 }]
  | .sorus => [{ off := 0x100 }]
  | .dma => [{ off := 0x100, rw := 0xFFFF, reset := 0x64 }, { off := 0x104 }, { off := 0x110, count := 8, w1c := all32 },
      { off := 0x130 }]
  | .storeEcc => [{ off := 0x100 }, { off := 0x104, w1c := 0x8000_0000 }, { off := 0x108 }, { off := 0x10C }]
  | .gslot => [{ off := 0x100, count := 512, rwl := 0x407F_003F, reset := 0x007F_0006 }, { off := 0x900, count := 4 },
      { off := 0x910, w1c := 0xC000_0000 }]
  | .dmaCh => [{ off := 0x100, stride := 32, count := 64, rw := 0xF000_0000, wo := 3, reset := 0x2000_0000 },
      { off := 0x104, stride := 32, count := 64, rw := all32 }, { off := 0x108, stride := 32, count := 64, rw := 0xFF },
      { off := 0x10C, stride := 32, count := 64, rwl := 0x8F1F_0700 }, { off := 0x110, stride := 32, count := 64 },
      { off := 0x114, stride := 32, count := 64 }, { off := 0x118, stride := 32, count := 64, rwl := 0x001F_FFC0 },
      { off := 0x11C, stride := 32, count := 64, rw := 0x7FF }]
  | .lg => [{ off := 0x100, rw := 0x0007_FF00 }, { off := 0x104 }]
  | .ptp => [{ off := 0x100 }, { off := 0x104 }, { off := 0x108 }, { off := 0x10C, wo := 1 }, { off := 0x110, w1c := 0x8000_0000 }]
  | .uaska => [{ off := 0x100, rwl := 0x8007_77FF, reset := 0xA }, { off := 0x104, rwl := all32 }, { off := 0x108, rws := 0xFF },
      { off := 0x10C, w1c := 0x8000_0000 }, { off := 0x110, rw := 7 }, { off := 0x140, count := 8 },
      { off := 0x180, stride := 16, count := 8, rws := 0x3F_FFFF }, { off := 0x184, stride := 16, count := 8, rws := 0xFFFF },
      { off := 0x188, stride := 16, count := 8 }, { off := 0x18C, stride := 16, count := 8, rw := all32 },
      { off := 0x200, count := 6 }]
  | .pcie => [{ off := 0x100 }, { off := 0x104, rw := 0xF }, { off := 0x108, rw := 0xFFFF, reset := 0xA },
      { off := 0x10C, w1c := 0xC000_0000 }]
  | .mbx => [{ off := 0x100, count := 64, rws := 0x9FFF_07FF }, { off := 0x200, count := 8, wo := all32 }, { off := 0x220, count := 8 }]
  | .clocks => [{ off := 0x100 }, { off := 0x104, rwl := 0xC0FF_FFFF, reset := 0xC064_5F05 }, { off := 0x108 }]
  | .mode => [{ off := 0x100, w1c := 0x0008_0000, reset := 0x1000_0000 }, { off := 0x104, wo := 0xFFFF_0017 },
      { off := 0x108, rw := 0xF000_FFFF, reset := 0x64 }]
  | .datum => [{ off := 0x100 }, { off := 0x104 }, { off := 0x108, rw := all32 }, { off := 0x10C, rw := all32 },
      { off := 0x110, wo := 1 }, { off := 0x114, rw := all32 }, { off := 0x118, rw := all32 }, { off := 0x11C, rw := all32 },
      { off := 0x120 }, { off := 0x124 }, { off := 0x128, rw := 0xE00F_FFFF, reset := 0x64 },
      { off := 0x140, stride := 16, count := 8, rw := all32 }, { off := 0x144, stride := 16, count := 8, rw := all32 },
      { off := 0x148, stride := 16, count := 8, rw := 0xC000_0000, w1c := 0x2000_0000 },
      { off := 0x1C0, count := 4, rw := 0xE000_00FF }, { off := 0x1D0, rw := 0xB000_FFFF, reset := 0x64 },
      { off := 0x1D4, w1c := 0x8000_0000 }, { off := 0x1E0, w1c := 0xC000_0000 }, { off := 0x1E4 }]
  | .power => [{ off := 0x100, rw := 0x00FF_010F }, { off := 0x104, w1c := 0x4000_0000, reset := 0x00FF_010F },
      { off := 0x108, rw := all32 }, { off := 0x10C }]
  | .health => [{ off := 0x100, rwl := 0x8FFF_C000, reset := 0x8304_8000 }, { off := 0x104, rw := all32, reset := 0x0100_0400 },
      { off := 0x108, wo := 0xFFFF_0001 }, { off := 0x200, count := 256 }, { off := 0x600 }, { off := 0x604, rw := 0xFFFF },
      { off := 0x608 }]
  | .crozier => [{ off := 0x100 }, { off := 0x104 }, { off := 0x108 }]
  | .cartouche => [{ off := 0x100 }, { off := 0x104 }, { off := 0x120, count := 8 }, { off := 0x140, count := 8 },
      { off := 0x160, count := 8 }, { off := 0x180, count := 8, rw := all32 }, { off := 0x1A0, wo := 1 },
      { off := 0x1A4, w1c := 0x2000_0000 }, { off := 0x1A8, rw := 0x1FFF }, { off := 0x1AC }]
  | .survey => [{ off := 0x100, wo := 0xF }, { off := 0x104, w1c := 0x4000_0000 }, { off := 0x120, count := 8 },
      { off := 0x140, wo := all32 }]
  | .mac => [{ off := 0x100, rw := 0xC000_0700 }, { off := 0x104, rw := all32 }, { off := 0x108, rw := 0xFFFF },
      { off := 0x10C, rw := 0xFFFF_00FF, reset := 0x40 }, { off := 0x110, rw := 0x00FF_0707, reset := 0x706 }, { off := 0x114 },
      { off := 0x140, count := 10 }]
  | .gratCq => [{ off := 0x100, stride := 32, count := 64, rws := 0xCFFF_BFC0 },
      { off := 0x104, stride := 32, count := 64, rws := all32 }, { off := 0x108, stride := 32, count := 64, rws := 0xFF_FFFF },
      { off := 0x10C, stride := 32, count := 64, rws := 0xFFFF }, { off := 0x110, stride := 32, count := 64, rws := all32 },
      { off := 0x114, stride := 32, count := 64, rws := 0x7F_FFFF }, { off := 0x118, stride := 32, count := 64, rws := 0x3FFF_3FFF }]
  | .gratQs => [{ off := 0x100, count := 256 }]
  | .coreUc => [{ off := 0x100, reset := 1 }, { off := 0x110, w1c := 0xC000_0000 }, { off := 0x114 }, { off := 0x118 },
      { off := 0x11C }, { off := 0x120 }, { off := 0x124 }, { off := 0x130, rw := 0x81FF }, { off := 0x134 }, { off := 0x138 }]
  | .coreProt => [{ off := 0x100, rwl := 0xF }, { off := 0x104, rwl := 0xFFFF_FE00 }, { off := 0x108, rwl := 0xFF },
      { off := 0x10C, reset := 0x8000_0000 }, { off := 0x200, stride := 32, count := 16, rw := all32 },
      { off := 0x204, stride := 32, count := 16, rw := all32 }, { off := 0x208, stride := 32, count := 16, rw := all32 },
      { off := 0x20C, stride := 32, count := 16, rw := all32 }, { off := 0x210, stride := 32, count := 16, rw := 0x8000_00FF }]
  | .gate => [{ off := 0x100, stride := 16, count := 16, rwl := 0xC07F_003F }, { off := 0x104, stride := 16, count := 16, rwl := 0x3F_FFFF },
      { off := 0x108, stride := 16, count := 16, rwl := 0x3F_FFFF }, { off := 0x200 }, { off := 0x210, count := 4 },
      { off := 0x220, w1c := 0xC000_0000 }]

/-- Index of an offset in a register array; none: another register. -/
def RegDef.index? (d : RegDef) (off : Nat) : Option Nat :=
  if d.off ≤ off ∧ (off - d.off) % d.stride = 0 ∧ (off - d.off) / d.stride < d.count then some ((off - d.off) / d.stride) else none

/-- The register at an offset of a page, with its index in its array (R293: none holds no register). -/
def regDefAt (t : PageT) (off : Nat) : Option (RegDef × Nat) :=
  (if off < 0x100 then commonDefs else blockDefs t).findSome? (fun d => (d.index? off).map (fun i => (d, i)))

/-- Frames in the instance of gate g, 10 Table 10.6. -/
def gateFrames (g : Nat) : Nat :=
  if g = 0 then 4194304 else if g < 5 then 4096 else if g < 37 then 512 else if g < 293 then 64 else 32

/-- Reset value of the register at byte `k` of the register-page space, where it does not follow from other state. -/
def resetOf (k : Nat) : W32 :=
  match pageOf (k / 4096) with
  | none => 0
  | some (r, i) =>
    match regDefAt r.type (k % 4096) with
    | none => 0
    | some (d, j) =>
      if r.type = .gate ∧ d.off = 0x100 ∧ j = 0 then 0x807F_003F
      else if r.type = .gate ∧ d.off = 0x108 ∧ j = 0 then BitVec.ofNat 32 (gateFrames i - 1)
      else BitVec.ofNat 32 d.reset

/-- Byte offset, in the register-page space, of a register: page type, instance, offset. -/
def rk (t : PageT) (i off : Nat) : Nat := (t.first + i) * 4096 + off

end Sys2Proof.Machine
end

