-- ==== Sys2Proof/Machine/UnitState.lean ====
section
/-!
DEFINITION. The state of the units around the cores: the Graticule's items (08), Cairn's chains and the stream (09), the DMA
channels (09), the egress schedules and the Uaska ring (12), the mailboxes (12). Plain data.
-/
namespace Sys2Proof.Machine

/-- Where an item came from, and so where its reply goes. -/
inductive Src where
  /-- frame on port p of kind 0 raw, 1 UDP over IPv4, 2 UDP over IPv6, with the frame's bytes before the payload -/
  | port (p kind : Nat) (hdr : List Byte)
  /-- POST, with its reply queue; none: NOREPLY -/
  | post (rq : Option Nat)
  /-- mailbox m (12 R334) -/
  | mbox (m : Nat)
  /-- DMA notification of engine t (09 R242) -/
  | note (t : Nat)
  /-- a record or reply made an item on a reply queue (08 R201, R207) -/
  | record
  deriving DecidableEq, Repr

/-- How far an item has come (08 R198 to R207). -/
inductive Phase where
  /-- classified or posted, not yet decided -/
  | arrived
  /-- admitted, not yet staged -/
  | admitted
  /-- staged -/
  | ready
  /-- handed to its core, not yet dispatched by GETW -/
  | handed
  /-- its context runs it -/
  | running
  /-- DONE made, texts not yet read -/
  | done
  /-- texts read, waiting for the seal -/
  | texts
  /-- sealed, waiting for the commit -/
  | commit
  /-- its reply or record waits to leave -/
  | reply
  deriving DecidableEq, Repr

/-- An item (08). The fields from `frond` on are the contract it was admitted under (R188) and what it has come to. -/
structure Item where
  q : Nat
  src : Src
  tin : Nat
  itag : W64
  plen : Nat
  /-- made on the exception queue -/
  exq : Bool
  /-- bytes 0x06 to 0x0F of the ingress payload (12 R314) -/
  head : List Byte
  /-- thallus of its ingress ring, and where the payload stands there; none: no room, or no longer held -/
  ring : Nat
  roff : Option Nat
  phase : Phase := .arrived
  frond : Nat := 0
  deadline : Nat := 0
  ebudget : Nat := 0
  entry : Nat := 0
  frame : W32 := 0
  cls : Nat := 0
  jen : Bool := false
  chain : Nat := 0
  rep : Nat := 0
  egrmax : Nat := 0
  chg : Nat := 0
  tst : Nat := 0
  dc : Int := 0
  /-- UTIL_CAP it was admitted under (R217) -/
  u : Nat := 0
  seq : Nat := 0
  core : Option Nat := none
  overrun : Bool := false
  /-- operand of its DONE, and Meridian at it -/
  done : W64 := 0
  tevt : Nat := 0
  egr : List Byte := []
  jtext : List Byte := []
  /-- place in the order in which text reads ended (09 R251) -/
  order : Nat := 0
  jstate : Nat := 0
  /-- sequence number of its sealed entry, and the commit message (12 R322) -/
  jseq : Nat := 0
  msg : List Byte := []
  /-- partners the message went to, and those that answered OK (12 R324) -/
  parts : List Nat := []
  oks : List Nat := []
  /-- UK_MEMBERS when the commit began (12 R325) -/
  mem : BitVec 8 := 0
  /-- end of its commit timer -/
  tcommit : Nat := 0
  /-- its chain's journal failed while it was outstanding: it cannot be sealed (10 R282) -/
  jlost : Bool := false
  deriving DecidableEq, Repr

/-- A frame that waits in a port's egress schedule (12 R311, R312). -/
structure Egr where
  /-- the item released when the frame has left -/
  item : Option Nat
  kind : Nat
  hdr : List Byte
  payload : List Byte
  /-- a refusal record: strict priority (08 R201) -/
  refusal : Bool
  /-- counted in TXREC -/
  record : Bool
  deriving DecidableEq, Repr

/-- What Cairn keeps of a chain beside its registers (09 R248, R256). -/
structure Chain where
  /-- H(n), 32 bytes -/
  h : List Byte
  tseal : Nat
  /-- an entry has been sealed since the last checkpoint -/
  fresh : Bool
  /-- Meridian of the last checkpoint -/
  lastCk : Nat
  /-- put into the next set by CK_NOW or DRAIN -/
  want : Bool
  /-- turned OFF by DRAIN (R254, 13 R362) -/
  drained : Bool
  /-- S of R253: the QDEPTH sum taken at the last swap -/
  qsum : Nat
  deriving DecidableEq, Repr

/-- A record for the host stream (09 R257). -/
structure SRec where
  /-- chain whose CH_CONS advances, and its value after the record; none: a checkpoint set -/
  chain : Option (Nat × Nat)
  bytes : List Byte
  /-- written to the host, its read-back not yet completed -/
  written : Bool
  deriving DecidableEq, Repr

/-- Cairn. -/
structure CairnS where
  chains : SMap Chain
  /-- text reads ended so far -/
  reads : Nat
  /-- the checkpoint set that is being signed: its header and items -/
  ckpt : Option (List Byte)
  /-- Meridian at which the latest set was started -/
  ckLast : Option Nat
  stream : List SRec
  streamStop : Bool
  /-- entries stored of a home device's chain, under 64 dev + chain: SEQ and H, newest first (12 R322) -/
  reps : SMap (List (Nat × List Byte))
  /-- addresses of Cairn's requests that have timed out outside every open ring: those of anchors (R249) -/
  anchorOut : List Nat
  deriving DecidableEq, Repr

/-- A DMA descriptor in progress (09 R235 to R241). -/
structure DmaRun where
  /-- its own address -/
  addr : Nat
  src : Nat
  dst : Nat
  len : Nat
  key : Nat
  priv : Bool
  irq : Bool
  note : Option Nat
  next : Option Nat
  moved : Nat
  /-- status it ends with, once decided -/
  status : Option Nat
  deriving DecidableEq, Repr

/-- What a flit carries for its route and its device (12 Table 12.3): VC and TYPE, source and destination position (15: every device),
payload. -/
structure Flit where
  vct : Byte
  src : Nat
  dst : Nat
  payload : List Byte
  deriving DecidableEq, Repr

/-- One direction of the ring (12 R316 to R319). -/
structure Link where
  trained : Bool
  /-- HELLO with equal RINGID and distinct POS received -/
  hello : Bool
  txSeq : BitVec 12
  rxSeq : BitVec 12
  /-- the receiver is discarding until a missing flit arrives -/
  gap : Bool
  /-- flits not yet acknowledged, oldest first, each with its SEQ -/
  replay : List (BitVec 12 × Flit)
  tries : Nat
  /-- flits that wait for credits or for the link -/
  wait : List Flit
  /-- credits held for the control, commit and bulk channels -/
  cr0 : Nat
  cr1 : Nat
  cr2 : Nat
  /-- credits of each channel that this end has yet to return -/
  owe0 : Nat
  owe1 : Nat
  owe2 : Nat
  /-- flits sent since the last bulk flit while one waits (R318) -/
  sinceBulk : Nat
  deriving DecidableEq, Repr

/-- A link that is down. -/
def Link.down : Link := ⟨false, false, 0, 0xFFF, false, [], 0, [], 32, 32, 32, 0, 0, 0, 0⟩

/-- An access through the remote window that waits for its RRSP (12 R327). -/
structure RemoteAcc where
  tag : Nat
  read : Bool
  dev : Nat
  deriving DecidableEq, Repr

/-- The Uaska ring. -/
structure UkS where
  east : Link
  west : Link
  /-- bit i: the link from position i east is up (12 Table 12.4, TOPO) -/
  topo : BitVec 8
  /-- Meridian of the last BEAT of a member; an unlisted member is lost -/
  beats : SMap Nat
  /-- bit d: d reports its replica ring of this device full -/
  repfull : BitVec 8
  /-- bit d: this device answered FULL to d since its last BEAT -/
  fullFor : BitVec 8
  /-- positions from which a HELLO, TOPO or BEAT has come (R320) -/
  known : BitVec 8
  /-- the last TOPO of each originator -/
  topos : SMap (List Byte)
  /-- the east or the west direction has named a group not in Uaska mode, and its link has not come up since (R317) -/
  errE : Bool
  errW : Bool
  /-- LEAVE sent -/
  left : Bool
  remote : List RemoteAcc
  nextTag : Nat
  deriving DecidableEq, Repr

/-- A mailbox (12 R334 to R337). -/
structure Mbx where
  req : List Byte
  seq : BitVec 16
  busy : Bool
  rej : Bool
  /-- KIND and data of the result held -/
  result : Option (Nat × List Byte)
  deriving DecidableEq, Repr

/-- A committed patch, the master copy (07 R180, R183): the match entries and the patch words. -/
structure Patch where
  entries : List W32
  words : List (BitVec 36)
  level : Nat
  deriving DecidableEq, Repr

/-- The board's pins as the device senses them, and what it keeps for its own (13 R353, 15 Table 15.5, R407). -/
structure Board where
  /-- VDD_AON present -/
  aon : Bool
  /-- PWROK high -/
  pwrok : Bool
  /-- PORST_N high -/
  porst : Bool
  /-- DATUM was entered by a reset, and the power-up sequence follows as soon as the pins allow (13 R353) -/
  climb : Bool
  /-- the device drives the power request and waits for PWROK after a wake (13 R346) -/
  waiting : Bool
  /-- TESTMODE was high at the last rise of PORST_N: the device stays at step 1 (15 R392) -/
  test : Bool
  /-- Meridian at which PPS_OUT falls -/
  ppsEnd : Nat
  /-- Meridian at which civil time last reached a multiple of a second for the first time (13 R344) -/
  ppsAt : Option Nat
  /-- bits preloaded into the boundary register -/
  boundary : List Bool
  /-- JTAG instruction register (14 Table 14.8) -/
  jtag : Byte
  /-- index of the I2C status block -/
  i2c : Nat
  /-- REFCLK runs (15 R402) -/
  refclk : Bool
  /-- next word of SV_NONCE that SVCHAL shifts out; 8: none (14 Table 14.8) -/
  svNext : Nat
  deriving DecidableEq, Repr

/-- A board with VDD_AON just applied. -/
def Board.atPowerOn : Board := ⟨true, false, false, true, false, false, 0, none, [], 1, 0, true, 8⟩

/-- Crozier (14 R373 to R376). -/
structure BootS where
  /-- the next start follows a power-on reset: S0 blows an EPOCH step (R383) -/
  epochDue : Bool
  /-- CROZIER has been entered and S0 has not begun -/
  ready : Bool
  /-- boot firmware runs: S4 -/
  s4 : Bool
  /-- KEYSEL and ROLLBACK of the booted image -/
  keysel : Nat
  rollback : Nat
  deriving DecidableEq, Repr

/-- Attestation (14 R381). -/
structure AtS where
  /-- bytes 0x000 to 0x10F of the report being signed -/
  busy : Option (List Byte)
  /-- it waits for the shadow digest -/
  waits : Bool
  /-- the report held; empty: none -/
  held : List Byte
  deriving DecidableEq, Repr

/-- Survey (14 R385 to R388). -/
structure SvS where
  /-- the live nonce and Meridian when it was made -/
  nonce : Option (BitVec 256 × Nat)
  /-- response words written since the challenge, in order -/
  words : List W32
  fails : Nat
  /-- Meridian at which the open session ends -/
  till : Nat
  deriving DecidableEq, Repr

/-- How far DRAIN has come after OUTSTANDING reached 0 (13 R360). -/
inductive DrainAt where
  /-- step 1 has not begun -/
  | none
  /-- steps 1 and 2: chains closing, the FINAL set due or being signed -/
  | closing
  /-- step 3: the stream wait, with the Meridian at which it runs out -/
  | streaming (till : Nat)
  /-- DRAINED -/
  | ended
  deriving DecidableEq, Repr

/-- A key fill in progress: next frame number, frames left, key byte (10 R279). -/
structure Fill where
  next : Nat
  left : Nat
  value : Byte
  deriving DecidableEq, Repr

/-- A mailbox at reset. -/
def Mbx.atReset : Mbx := ⟨[], 0, false, false, none⟩

end Sys2Proof.Machine
end

