-- ==== Sys2Proof/Machine/State.lean ====
section
/-!
DEFINITION. The state of the device: the fuses, the device's registers, stores, cores and units, and the queue of
commands that wait. Plain data.
-/
namespace Sys2Proof.Machine

/-- The eight operating modes (00 R10), coded in this order in MODE_STS.MODE. -/
inductive Mode where
  | datum | crozier | standby | run | degraded | drain | survey | safe
  deriving DecidableEq, Repr

/-- What has left the device, newest first: the model's own record of its outputs. -/
inductive Out where
  /-- an Ethernet frame from port p -/
  | frame (p : Nat) (bytes : List Byte)
  /-- a PFC frame from port p: its priorities and their quanta -/
  | pfc (p : Nat) (pri : Byte) (quanta : BitVec 16)
  /-- a Uaska flit to the west (true) or east link: its SEQ, ACK, NAK and CRD (12 Table 12.3), and the rest -/
  | flit (west : Bool) (seq ack : BitVec 12) (nak : Bool) (crd : Byte) (f : Flit)
  /-- an MSI-X message -/
  | msix (vec : Nat) (addr : W64) (data : W32)
  /-- a memory write to the host -/
  | hostWrite (addr : Nat) (bytes : List Byte)
  /-- data of a completion to the host -/
  | hostRead (bytes : List Byte)
  /-- a memory read of `len` bytes issued to the host -/
  | hostReadReq (addr len : Nat)
  /-- a PCIe ERR_COR message -/
  | errCor
  /-- the register bus's error response reached this master id -/
  | errResponse (master : Nat)
  /-- bytes on the UART -/
  | uart (bytes : List Byte)
  /-- bits shifted out of the JTAG port, first bit first -/
  | jtag (bits : List Bool)
  /-- bytes read over I2C -/
  | i2c (bytes : List Byte)
  /-- for each data byte of an I2C write, whether the target acknowledged it -/
  | i2cAck (acks : List Bool)
  deriving DecidableEq, Repr

/-- The PCIe function (12 R328, R331, R333). -/
structure Pci where
  /-- link up -/
  up : Bool
  /-- MSI-X enabled by the host -/
  msixEn : Bool
  /-- the function mask of the MSI-X capability -/
  msixMask : Bool
  /-- in D3hot -/
  d3 : Bool
  speed : BitVec 2
  width : BitVec 4
  /-- Max_Payload_Size, bytes -/
  mps : Nat
  /-- Extended Tag enabled in the PCI Express capability -/
  extTag : Bool
  /-- the six words of the base addresses, as the host last wrote them -/
  bars : SMap W32
  /-- AER correctable and uncorrectable error status -/
  aerCor : W32
  aerUnc : W32
  /-- MSI-X table: address and data of each vector the host has written -/
  table : SMap (W64 × W32)
  /-- unmasked vectors -/
  unmasked : List Nat
  /-- vectors whose pending bit is set -/
  pend : List Nat
  deriving DecidableEq, Repr

/-- The function with its configuration space at reset: the link down, and no MSI-X, at D0, Max_Payload_Size 128 (log entry 73). -/
def Pci.resetConfig (p : Pci) : Pci :=
  { p with up := false, msixEn := false, msixMask := false, d3 := false, speed := 0, width := 0, mps := 128, extTag := false, bars := []
           aerCor := 0, aerUnc := 0 }

/-- Everything of the device but its fuses and the queue. -/
structure Dev where
  /-- Meridian (00 R9) -/
  mer : Nat
  mode : Mode
  /-- register pages: active copies, by byte offset in the page space; an unlisted register holds its reset value -/
  regs : SMap W32
  /-- shadow copies of RWS registers that differ from the active copy (11 R299) -/
  shadow : SMap W32
  /-- the bytes of the deep, thallus, frond and working stores, by physical address -/
  mem : List Host.Cell
  /-- program stores: word w of core c under 65536 c + w -/
  pstore : SMap PWord
  /-- key bytes by 4 KiB frame number (10 R277); an unlisted frame has 0x00 -/
  keys : SMap Byte
  /-- addresses of the 8-byte words that are uncorrectable (09 R224) -/
  uncorr : List Nat
  /-- addresses of the words that hold a single-bit error -/
  corr : List Nat
  /-- the ledger cores; an unlisted core is as at core reset -/
  cores : SMap Core
  /-- CT_FRAME under which each queue's latest item was admitted (10 R263, 08 R188) -/
  qFrame : SMap W32
  /-- doorbell FIFO of each core, oldest first: sending core and code (08 R209) -/
  db : SMap (List (Nat × Nat))
  pci : Pci
  /-- items by number, in the order of their arrival (08) -/
  items : SMap Item
  nextItem : Nat
  /-- items admitted so far on each queue: the SEQ of 08 Table 8.5 -/
  qSeq : SMap Nat
  /-- items that arrived on each queue in the millisecond in progress, for RATE -/
  qArr : SMap Nat
  /-- queues that a swap has opened (08 R189, R218) -/
  qOpen : List Nat
  /-- queues that migrate, with the Meridian at which MIGR clears (08 R218) -/
  migr : SMap Nat
  /-- items of a queue that completed as OVERRUN in a row (13 R365) -/
  qStrike : SMap Nat
  /-- recovery steps taken: step of 13 Table 13.8, unit, Meridian; newest first -/
  hist : List (Nat × Nat × Nat)
  /-- units reset by steps 3 to 5 and not yet returned: step, unit (13 R366) -/
  outUnits : List (Nat × Nat)
  /-- HSEQ of the next HEALTH record (13 Table 13.9) -/
  hseq : Nat
  /-- a device warm reset is pending, with the cause of 13 Table 13.9 -/
  warm : Option Nat
  /-- SAFE was entered by a thermal trip (13 R352) -/
  tripped : Bool
  /-- UTIL_CAP that each frond's U is to take (08 R217) -/
  uTarget : SMap Nat
  /-- Meridian since which TMAX has stood above TSTEP, and since which below TSTEP − HYST (13 R348) -/
  hotSince : Option Nat
  coolSince : Option Nat
  /-- meter tokens used on each port (08 R193) -/
  rzUsed : SMap Nat
  egress : SMap (List Egr)
  cairn : CairnS
  dma : SMap DmaRun
  uk : UkS
  mbox : SMap Mbx
  /-- Meridian of each failed training of the port or link led by a lane (13 R363) -/
  linkFails : SMap (List Nat)
  /-- lanes whose port or link is held down -/
  linkHeld : List Nat
  /-- PTP_TXTS entries, oldest first: timestamp, sequenceId, messageType, port (12 R315) -/
  ptp : List (W64 × BitVec 16 × Nat × Nat)
  /-- Meridian at which each NOW swap not yet made is due, oldest first (11 R302) -/
  swapDue : List Nat
  /-- Meridian at which the armed swap is due when its ARM was made too late (11 R302) -/
  armDue : Option Nat
  /-- Cartouche is computing the shadow digest of the last swap (14 R382) -/
  digestDue : Bool
  /-- the loader's master copy (07 R183) -/
  patch : Option Patch
  /-- a load that has passed its checks and is not yet committed, with its measurement (07 R183, R186) -/
  load : Option (Patch × List Byte)
  /-- 32 fraction bits of CIV_OFF (13 R344) -/
  civFrac : Nat
  board : Board
  boot : BootS
  att : AtS
  sv : SvS
  drain : DrainAt
  fill : Option Fill
  /-- power domain whose power-down is under way (09 R245), coded as DMA_PD_STS.DOMAIN -/
  pdNow : Option Nat
  /-- words that their stores' scrubbers have corrected and not yet written back (09 R224) -/
  scrub : List Nat
  /-- mode in which SURVEY was entered, with the session's RIGHTS -/
  survey : Option (Mode × Nat)
  /-- number of the next free value, and of the next nonce (log entry 9) -/
  free : Nat
  /-- what has left the device, newest first -/
  out : List Out
  deriving DecidableEq, Repr

/-- The fuses (14 R370) that a command can blow; the others are constants of Config. -/
structure Fuses where
  /-- OWNER_HASH, 256 bits; 0 while no owner is enrolled -/
  ownerHash : BitVec 256
  ownerOnly : Bool
  /-- ROLLBACK steps blown, 0 to 64 -/
  rollback : Nat
  /-- EPOCH steps blown, 0 to 1,024 -/
  epoch : Nat
  surveyDis : Bool
  deriving DecidableEq, Repr

/-- The machine. -/
structure State where
  fuse : Fuses
  dev : Dev
  /-- the commands that wait, first in first out -/
  pending : List Instr
  deriving DecidableEq, Repr

/-- The model has no fault: what the spec lets go wrong is an effect on the state. -/
inductive Fault where
  deriving DecidableEq, Repr

/-- A command with no meaning. -/
inductive Refusal where
  /-- raised by `exec` for a command the model has no meaning for; safe -/
  | notModelled (mnemonic : String)
  deriving DecidableEq, Repr

/-- The device after a power-on reset (13 Table 13.5): DATUM, Meridian 0. -/
def Dev.reset : Dev :=
  { mer := 0, mode := .datum, regs := [], shadow := [], mem := [], pstore := [], keys := [], uncorr := [], corr := []
    cores := [], qFrame := [], db := [], pci := ⟨false, false, false, false, 0, 0, 128, false, [], 0, 0, [], [], []⟩
    items := [], nextItem := 0, qSeq := [], qArr := [], qOpen := [], migr := [], qStrike := []
    hist := [], outUnits := [], hseq := 0, warm := none, tripped := false, uTarget := [], hotSince := none, coolSince := none, rzUsed := [], egress := []
    cairn := ⟨[], 0, none, none, [], false, [], []⟩, dma := []
    uk := ⟨Link.down, Link.down, 0, [], 0, 0, 0, [], false, false, false, [], 0⟩, mbox := [], linkFails := [], linkHeld := [], ptp := [], swapDue := [], armDue := none, digestDue := false, patch := none, load := none
    civFrac := 0, board := Board.atPowerOn, boot := ⟨true, false, false, 0, 0⟩, att := ⟨none, false, []⟩, sv := ⟨none, [], 0, 0⟩
    drain := .none, fill := none, pdNow := none, scrub := [], survey := none, free := 0, out := [] }

/-- Reset: fuses unblown (log entry 6), the device after power-on reset, no command waiting. -/
def State.reset : State := { fuse := ⟨0, false, 0, 0, false⟩, dev := Dev.reset, pending := [] }

end Sys2Proof.Machine
end

