-- ==== Sys2Proof/Machine/Regs.lean ====
section
/-!
DEFINITION. The named operations on the register pages and on the cores held in `Dev`: reading and setting a register by
its unit, page interrupts (11 R297), CFGERR (R294) and ERR_CAP (11 Table 11.3).
-/
namespace Sys2Proof.Machine

/-- A command that changes the device alone: the fuses and the queue stay. -/
def onDev (f : Dev → Dev) (s : State) : Host.Outcome State Fault Refusal := .next { s with dev := f s.dev }

/-- The mode by which clocks, lanes and the deep store go: in SURVEY, the one it was entered from (13 Table 13.2). -/
def Dev.baseMode (d : Dev) : Mode :=
  match d.mode, d.survey with
  | .survey, some (m, _) => m
  | m, _ => m

/-! ### Registers as the units hold them -/

/-- Stored value of the register at byte `k` of the page space. -/
def Dev.reg (d : Dev) (k : Nat) : W32 := (SMap.find? d.regs k).getD (resetOf k)

/-- The device with a register holding a value; no access rule is applied. -/
def Dev.setReg (d : Dev) (k : Nat) (v : W32) : Dev := { d with regs := SMap.put d.regs k v }

/-- Bits of a register. -/
def Dev.rf (d : Dev) (k lo w : Nat) : Nat := fld (d.reg k) lo w

/-- The device with a field of a register replaced. -/
def Dev.setRf (d : Dev) (k lo w v : Nat) : Dev := d.setReg k (setFld (d.reg k) lo w v)

/-- A counter field advanced, saturating. -/
def Dev.incRf (d : Dev) (k lo w n : Nat) : Dev := d.setRf k lo w (satAdd w (d.rf k lo w) n)

/-- One bit of a register. -/
def Dev.rbit (d : Dev) (k i : Nat) : Bool := (d.reg k).getLsbD i

/-- Shadow copy of an RWS register (11 R299). -/
def Dev.shadowOf (d : Dev) (k : Nat) : W32 := (SMap.find? d.shadow k).getD (d.reg k)

/-! ### Outputs -/

/-- The device after something has left it. -/
def Dev.emit (d : Dev) (o : Out) : Dev := { d with out := o :: d.out }

/-- A free value drawn (log entry 9): the value and the device with the counter advanced. -/
def Dev.drawFree (d : Dev) : W64 × Dev := (Config.freeValue d.free, { d with free := d.free + 1 })

/-- Whether the function may send messages: the link up and not in D3hot, MSI-X enabled and the function not masked (12 R328, R331, R333). -/
def Pci.sends (p : Pci) : Bool := p.up && p.msixEn && !p.msixMask && !p.d3

/-- An MSI-X message due (12 R331, R333, R328): sent, or its pending bit set while the vector or the function is masked,
the link down or the function in D3hot. In DATUM the port is unpowered. -/
def Dev.sendMsix (d : Dev) (v : Nat) : Dev :=
  if d.pci.sends && d.pci.unmasked.contains v then
    let e := SMap.get (0, 0) d.pci.table v
    d.emit (.msix v e.1 e.2)
  else if d.pci.pend.contains v || d.mode = .datum then d
  else { d with pci := { d.pci with pend := d.pci.pend ++ [v] } }

/-! ### Page interrupts and errors -/

/-- IRQ_STS bits set on a page; the vector is sent for a bit that becomes 1 and is enabled (11 R297). -/
def Dev.raiseIrq (d : Dev) (page bits : Nat) : Dev :=
  let k := page * 4096 + 0x10
  let old := (d.reg k).toNat
  let new := old ||| bits
  let d1 := d.setReg k (BitVec.ofNat 32 new)
  if (new ^^^ old) &&& (d.reg (page * 4096 + 0x14)).toNat ≠ 0 then d1.sendMsix (d.rf (page * 4096 + 8) 0 11) else d1

/-- PAGE_STS.CFGERR and IRQ_STS.CFG set (11 R294, IRQ_STS). -/
def Dev.cfgErr (d : Dev) (page : Nat) : Dev :=
  (d.setRf (page * 4096 + 0xC) 31 1 1).raiseIrq page 0x8000_0000

/-- Codes of 11 Table 11.3. -/
inductive AccErr where
  | unmapped | writeRo | locked | size | timeout | domainOff
  deriving DecidableEq, Repr

/-- The code of an access error. -/
def AccErr.code : AccErr → Nat
  | .unmapped => 1 | .writeRo => 2 | .locked => 3 | .size => 4 | .timeout => 5 | .domainOff => 6

/-- An access error logged in ERR_CAP of page `log`, for an access to `page` at `off` (11, ERR_CAP0). -/
def Dev.logErr (d : Dev) (log : Nat) (e : AccErr) (wr : Bool) (master page off : Nat) : Dev :=
  let k := log * 4096 + 0x18
  if d.rbit k 31 then d.setRf k 30 1 1
  else
    let d1 := d.setReg k (BitVec.ofNat 32 (0x8000_0000 + b2n wr * 2 ^ 28 + e.code * 2 ^ 24 + master % 4096 * 2 ^ 12))
    let d2 := d1.setReg (k + 4) (BitVec.ofNat 32 (page % 2048 * 2 ^ 21 + off % 4096))
    d2.raiseIrq log 0x4000_0000

/-- Master id of a register-bus master (10 Table 10.1). -/
def masterId : RegMaster → Nat
  | .host => 0x300
  | .peer p => 0x310 + p.val
  | .debug => 0x320
  | .crozier => 0x102

/-! ### Cores -/

/-- A core of the device. -/
def Dev.core (d : Dev) (c : Nat) : Core := SMap.get Core.atReset d.cores c

/-- The device with a core replaced. -/
def Dev.setCore (d : Dev) (c : Nat) (x : Core) : Dev := { d with cores := SMap.put d.cores c x }

/-- The device with a core changed. -/
def Dev.modCore (d : Dev) (c : Nat) (f : Core → Core) : Dev := d.setCore c (f (d.core c))

/-- A bank of a core; BF is 8. -/
def Core.bank (x : Core) (b : Nat) : Bank := SMap.get Bank.atReset x.banks b

/-- The core with a bank replaced. -/
def Core.setBank (x : Core) (b : Nat) (y : Bank) : Core := { x with banks := SMap.put x.banks b y }

/-- The current bank. -/
def Core.cb (x : Core) : Bank := x.bank x.cur

/-- The core with its current bank changed. -/
def Core.modCb (x : Core) (f : Bank → Bank) : Core := x.setBank x.cur (f x.cb)

/-- Whether BF is current. -/
def Core.inBF (x : Core) : Bool := x.cur == 8

/-- Frond of a core (00 R5). -/
def frondOf (c : Nat) : Nat := c / 8

/-- Thallus of a core (00 R5). -/
def thallusOf (c : Nat) : Nat := c / 64

/-- An item of the device. -/
def Dev.item? (d : Dev) (n : Nat) : Option Item := SMap.find? d.items n

end Sys2Proof.Machine
end

