-- ==== Sys2Proof/Machine/Memory.lean ====
section
/-!
DEFINITION. The stores (09 R220 to R224): the physical map, reading and writing bytes, the program stores' DMA view, and
the error marks of the ECC words.
-/
namespace Sys2Proof.Machine

/-- The tiers of 09 Table 9.1 with their instance. -/
inductive Tier where
  | deep
  | thallus (t : Nat)
  | frond (f : Nat)
  | working (c : Nat)
  | prog (c : Nat)
  deriving DecidableEq, Repr

/-- The memory that holds a physical address (09 Table 9.1, R221). -/
def tierOf (a : Nat) : Option Tier :=
  if a < 0x4_0000_0000 then some .deep
  else if 0x40_0000_0000 ≤ a ∧ a < 0x40_0400_0000 then some (.thallus ((a - 0x40_0000_0000) / 0x100_0000))
  else if 0x50_0000_0000 ≤ a ∧ a < 0x50_0400_0000 then some (.frond ((a - 0x50_0000_0000) / 0x20_0000))
  else if 0x60_0000_0000 ≤ a ∧ a < 0x60_0400_0000 then some (.working ((a - 0x60_0000_0000) / 0x4_0000))
  else if 0x70_0000_0000 ≤ a ∧ a < 0x70_0200_0000 then some (.prog ((a - 0x70_0000_0000) / 0x2_0000))
  else none

/-- First address of a memory instance. -/
def Tier.base : Tier → Nat
  | .deep => 0
  | .thallus t => 0x40_0000_0000 + t * 0x100_0000
  | .frond f => 0x50_0000_0000 + f * 0x20_0000
  | .working c => 0x60_0000_0000 + c * 0x4_0000
  | .prog c => 0x70_0000_0000 + c * 0x2_0000

/-- Size in bytes of a memory instance. -/
def Tier.size : Tier → Nat
  | .deep => 0x4_0000_0000
  | .thallus _ => 0x100_0000
  | .frond _ => 0x20_0000
  | .working _ => 0x4_0000
  | .prog _ => 0x2_0000

/-- Gate of a memory instance (10 Table 10.6). -/
def Tier.gate : Tier → Nat
  | .deep => 0
  | .thallus t => 1 + t
  | .frond f => 5 + f
  | .working c => 37 + c
  | .prog c => 293 + c

/-- Frond store base. -/
def frondBase (f : Nat) : Nat := (Tier.frond f).base

/-- Working store base. -/
def workBase (c : Nat) : Nat := (Tier.working c).base

/-! ### Program words (01 R24) -/

/-- A 14-bit word with its two check bits: bit 0 even parity over 6:0, bit 1 over 13:7. -/
def withCheck (w : Nat) : PWord :=
  BitVec.ofNat 16 (w % 2 ^ 14 + b2n (parity 7 (w % 128)) * 2 ^ 14 + b2n (parity 7 (w / 128 % 128)) * 2 ^ 15)

/-- Whether a stored word's check bits match. -/
def checkOk (p : PWord) : Bool := p == withCheck p.toNat

/-- Program word w of core c as stored, with its check bits. -/
def Dev.pword (d : Dev) (c w : Nat) : PWord := SMap.get 0 d.pstore (65536 * c + w % 65536)

/-- A program word written; the store makes the check bits. -/
def Dev.setPword (d : Dev) (c w v : Nat) : Dev :=
  { d with pstore := SMap.put d.pstore (65536 * c + w % 65536) (withCheck v) }

/-! ### Bytes -/

/-- The canonical form of a store: addresses strictly rising, no byte equal to what an unlisted address reads as (0). -/
abbrev Memory.wf (m : List Host.Cell) : Prop := m.Pairwise (fun a b => a.1 < b.1) ∧ ∀ e ∈ m, e.2 ≠ 0

/-- The byte a store holds; an unlisted address reads 0 (log entry 2). -/
def memGet (m : List Host.Cell) (a : Nat) : Byte := SMap.get (0 : Byte) m a

/-- The store with one byte written, in canonical form. -/
def memPut (m : List Host.Cell) (a : Nat) (v : Byte) : List Host.Cell :=
  if v = 0 then SMap.drop (α := Byte) m a else SMap.put (α := Byte) m a v

/-- One byte at a physical address, program stores through their DMA view (R222). -/
def Dev.byte (d : Dev) (a : Nat) : Byte :=
  if 0x70_0000_0000 ≤ a then
    let p := SMap.get 0 d.pstore ((a - 0x70_0000_0000) / 2)
    if a % 2 = 0 then BitVec.ofNat 8 (p.toNat / 256) else BitVec.ofNat 8 p.toNat
  else memGet d.mem a

/-- The device with one byte written at a physical address. -/
def Dev.setByte (d : Dev) (a : Nat) (v : Byte) : Dev :=
  if 0x70_0000_0000 ≤ a then
    let w := (a - 0x70_0000_0000) / 2
    let p := (SMap.get 0 d.pstore w).toNat % 2 ^ 14
    let p' := if a % 2 = 0 then v.toNat % 64 * 256 + p % 256 else p / 256 * 256 + v.toNat
    { d with pstore := SMap.put d.pstore w (withCheck p') }
  else { d with mem := memPut d.mem a v }

/-- `n` bytes from a physical address up. -/
def Dev.bytes (d : Dev) (a : Nat) : Nat → List Byte
  | 0 => []
  | n + 1 => d.byte a :: d.bytes (a + 1) n

/-- The device with bytes written from a physical address up. -/
def Dev.setBytes (d : Dev) (a : Nat) : List Byte → Dev
  | [] => d
  | v :: t => (d.setByte a v).setBytes (a + 1) t

/-! ### ECC words (R224 to R226) -/

/-- Register-page key of the ECC registers of a store (09, ECC_CNT): offset 0x100 of STORE_ECC[t] or DSTORE. -/
def Tier.eccPage : Tier → Option Nat
  | .deep => some (rk .dstore 0 0x100)
  | .thallus t => some (rk .storeEcc t 0x100)
  | .frond f => some (rk .storeEcc (f / 8) 0x100)
  | .working c => some (rk .storeEcc (c / 64) 0x100)
  | .prog _ => none

/-- Tier code of ECC_CAP0. -/
def Tier.code : Tier → Nat
  | .working _ => 0 | .frond _ => 1 | .thallus _ => 2 | .deep => 3 | .prog _ => 0

/-- Addresses of the 8-byte words that bytes `a` to `a + n - 1` touch. -/
def wordsOf (a n : Nat) : List Nat := if n = 0 then [] else (List.range ((a + n - 1) / 8 - a / 8 + 1)).map (fun i => (a / 8 + i) * 8)

/-- A word of tier t captured in the ECC registers at key k, unless a capture is held (09, ECC_CAP0 to 2). -/
def Dev.eccCapture (d : Dev) (t : Tier) (k kind master w : Nat) : Dev :=
  if d.rbit (k + 4) 31 then d
  else ((d.setReg (k + 4) (BitVec.ofNat 32 (0x8000_0000 + t.code * 2 ^ 28 + kind * 2 ^ 24 + master % 4096))).setReg (k + 8)
    (BitVec.ofNat 32 w)).setReg (k + 12) (BitVec.ofNat 32 (w / 2 ^ 32))

/-- An uncorrectable word counted and, when no capture is held, captured (09, ECC_CNT, ECC_CAP0 to 2). -/
def Dev.eccUncorr (d : Dev) (t : Tier) (kind master w : Nat) : Dev :=
  match t.eccPage with
  | none => d
  | some k => (d.incRf k 16 16 1).eccCapture t k kind master w

/-- A corrected word counted. -/
def Dev.eccCorr (d : Dev) (t : Tier) : Dev :=
  match t.eccPage with
  | none => d
  | some k => d.incRf k 0 16 1

/-- The error marks met by a read of these words: the device with corrected words counted, and the first uncorrectable
word. -/
def Dev.eccRead (d : Dev) (t : Tier) (ws : List Nat) : Dev × Option Nat :=
  ((ws.filter (fun w => d.corr.contains w)).foldl (fun x _ => x.eccCorr t) d, ws.find? (fun w => d.uncorr.contains w))

/-- One word's error marks after a write of `n` bytes at `a`: a write of the whole word clears them; a merge with an
uncorrectable word keeps it so and captures it, a merge with a single-bit error corrects it; a write-back that
waits is discarded (R224). -/
def Dev.eccMergeWord (t : Tier) (master a n : Nat) (d : Dev) (w : Nat) : Dev :=
  if a ≤ w ∧ w + 8 ≤ a + n then
    { d with uncorr := d.uncorr.filter (· != w), corr := d.corr.filter (· != w), scrub := d.scrub.filter (· != w) }
  else if d.uncorr.contains w then d.eccUncorr t 3 master w
  else if d.corr.contains w then { d.eccCorr t with corr := d.corr.filter (· != w), scrub := d.scrub.filter (· != w) }
  else d

/-- Error marks after a write of `n` bytes at `a`. -/
def Dev.eccMerge (d : Dev) (t : Tier) (master a n : Nat) : Dev := (wordsOf a n).foldl (Dev.eccMergeWord t master a n) d

/-- Bytes written at a physical address of a store by a master, with the ECC merge. -/
def Dev.store (d : Dev) (t : Tier) (master a : Nat) (bs : List Byte) : Dev :=
  (d.eccMerge t master a bs.length).setBytes a bs

/-- One atomic OR of a byte by the frond adder (10 R270), acting on the byte as it stands. -/
def Dev.orByte (d : Dev) (t : Tier) (master a : Nat) (v : Byte) : Dev := d.store t master a [d.byte a ||| v]

end Sys2Proof.Machine
end

