-- ==== Sys2Proof/Machine/Domains.lean ====
section
/-!
DEFINITION. Power domains as an access meets them (09 R227, R230, R245; 13 R354): whether a store or a register page is in
service.
-/
namespace Sys2Proof.Machine

/-- DS_STS. -/
def dsSts : Nat := rk .dstore 0 0x114

/-- DS_STS.READY. -/
def Dev.dsReady (d : Dev) : Bool := d.rbit dsSts 31

/-- DS_CTL.INTLV. -/
def Dev.intlv (d : Dev) : Bool := d.rbit (rk .dstore 0 0x110) 30

/-- PD_STS. -/
def pdSts : Nat := rk .power 0 0x104

/-- Whether THALLUS[t] is on. -/
def Dev.thOn (d : Dev) (t : Nat) : Bool := d.rbit pdSts t

/-- Whether some deep-store domain is powered (R230). -/
def Dev.dsPowered (d : Dev) : Bool := if d.intlv then d.rf pdSts 16 8 != 0 else d.rbit pdSts 8

/-- Layer of a deep-store address with INTLV 1 (R227). -/
def layerOf (a : Nat) : Nat := a / 2 ^ 31 % 8

/-- Thallus whose domain holds a store; none: the deep store. -/
def Tier.thallusNo : Tier → Option Nat
  | .deep => none
  | .thallus t => some t
  | .frond f => some (f / 8)
  | .working c => some (c / 64)
  | .prog c => some (c / 64)

/-- Status code of 09 Table 9.5 that one address of a store ends with while its domain is off, untrained or failed: 6
DOMAIN_OFF, 2 BAD_ADDR (R221, R230). -/
def Dev.addrFault (d : Dev) (a : Nat) : Option Nat :=
  match tierOf a with
  | none => some 2
  | some t =>
    match t.thallusNo with
    | some h => if d.thOn h then none else some 6
    | none =>
      if !d.dsReady then some 6
      else if d.intlv then
        (if !d.rbit pdSts (16 + layerOf a) then some 6 else if d.rbit dsSts (16 + layerOf a) then some 2 else none)
      else if d.rbit pdSts 8 then none else some 6

/-- Fault of a list of addresses: one without memory comes before one whose domain is off (R238 steps 3 and 4). -/
def Dev.firstFault (d : Dev) (l : List Nat) : Option Nat :=
  if l.any (fun a => d.addrFault a == some 2) then some 2 else l.findSome? d.addrFault

/-- Fault of a range of `n` bytes: its first address and the first of each 128 KiB piece after it, which no store or domain
boundary cuts, and its last. -/
def Dev.rangeFault (d : Dev) (a n : Nat) : Option Nat :=
  if n = 0 then none
  else if (a + n - 1) / 0x2_0000 ≥ a / 0x2_0000 + 0x2_0001 then some 2
  else d.firstFault (a :: (List.range ((a + n - 1) / 0x2_0000 - a / 0x2_0000)).map (fun i => (a / 0x2_0000 + i + 1) * 0x2_0000))

end Sys2Proof.Machine
end

