-- ==== Sys2Proof/Machine/Hash.lean ====
section
/-!
DEFINITION. CRC-32C, SHA-256 (FIPS 180-4), HMAC and HKDF over it (RFC 2104, RFC 5869), which the spec names and does not print (log
entry 12), and the Internet checksum of IP and UDP.
-/
namespace Sys2Proof.Machine

/-- CRC-32C after one more byte: polynomial 0x1EDC6F41, bits taken least significant first. -/
def crcByte (c : W32) (b : Byte) : W32 :=
  (List.range 8).foldl (fun r _ => if r.getLsbD 0 then (r >>> 1) ^^^ 0x82F63B78 else r >>> 1) (c ^^^ b.zeroExtend 32)

/-- CRC-32C of bytes (12 Table 12.3): from all ones, inverted at the end. -/
def crc32c (bs : List Byte) : W32 := ~~~(bs.foldl crcByte 0xFFFF_FFFF)

/-- Round constants. -/
def shaK : List W32 :=
  [0x428A2F98, 0x71374491, 0xB5C0FBCF, 0xE9B5DBA5, 0x3956C25B, 0x59F111F1, 0x923F82A4, 0xAB1C5ED5] ++
  [0xD807AA98, 0x12835B01, 0x243185BE, 0x550C7DC3, 0x72BE5D74, 0x80DEB1FE, 0x9BDC06A7, 0xC19BF174] ++
  [0xE49B69C1, 0xEFBE4786, 0x0FC19DC6, 0x240CA1CC, 0x2DE92C6F, 0x4A7484AA, 0x5CB0A9DC, 0x76F988DA] ++
  [0x983E5152, 0xA831C66D, 0xB00327C8, 0xBF597FC7, 0xC6E00BF3, 0xD5A79147, 0x06CA6351, 0x14292967] ++
  [0x27B70A85, 0x2E1B2138, 0x4D2C6DFC, 0x53380D13, 0x650A7354, 0x766A0ABB, 0x81C2C92E, 0x92722C85] ++
  [0xA2BFE8A1, 0xA81A664B, 0xC24B8B70, 0xC76C51A3, 0xD192E819, 0xD6990624, 0xF40E3585, 0x106AA070] ++
  [0x19A4C116, 0x1E376C08, 0x2748774C, 0x34B0BCB5, 0x391C0CB3, 0x4ED8AA4A, 0x5B9CCA4F, 0x682E6FF3] ++
  [0x748F82EE, 0x78A5636F, 0x84C87814, 0x8CC70208, 0x90BEFFFA, 0xA4506CEB, 0xBEF9A3F7, 0xC67178F2]

/-- Initial hash value. -/
def shaInit : List W32 := [0x6A09E667, 0xBB67AE85, 0x3C6EF372, 0xA54FF53A, 0x510E527F, 0x9B05688C, 0x1F83D9AB, 0x5BE0CD19]

/-- Message schedule: the words so far, newest first, extended `n` times. -/
def shaSchedule : Nat → List W32 → List W32
  | 0, ws => ws
  | n + 1, ws =>
    let w2 := ws.getD 1 0
    let w15 := ws.getD 14 0
    let s0 := w15.rotateRight 7 ^^^ w15.rotateRight 18 ^^^ (w15 >>> 3)
    let s1 := w2.rotateRight 17 ^^^ w2.rotateRight 19 ^^^ (w2 >>> 10)
    shaSchedule n ((ws.getD 15 0 + s0 + ws.getD 6 0 + s1) :: ws)

/-- The eight working variables. -/
structure ShaV where
  a : W32
  b : W32
  c : W32
  d : W32
  e : W32
  f : W32
  g : W32
  h : W32

/-- One round. -/
def shaRound (v : ShaV) (kw : W32 × W32) : ShaV :=
  let s1 := v.e.rotateRight 6 ^^^ v.e.rotateRight 11 ^^^ v.e.rotateRight 25
  let ch := (v.e &&& v.f) ^^^ (~~~v.e &&& v.g)
  let t1 := v.h + s1 + ch + kw.1 + kw.2
  let s0 := v.a.rotateRight 2 ^^^ v.a.rotateRight 13 ^^^ v.a.rotateRight 22
  let maj := (v.a &&& v.b) ^^^ (v.a &&& v.c) ^^^ (v.b &&& v.c)
  ⟨t1 + s0 + maj, v.a, v.b, v.c, v.d + t1, v.e, v.f, v.g⟩

/-- The hash value after one block of 64 bytes. -/
def shaBlock (hs : List W32) (blk : List Byte) : List W32 :=
  let ws := ((List.range 16).map (fun i => BitVec.ofNat 32 (beAt blk (4 * i) 4))).reverse
  let sched := (shaSchedule 48 ws).reverse
  let g (i : Nat) := hs.getD i 0
  let v := (shaK.zip sched).foldl shaRound ⟨g 0, g 1, g 2, g 3, g 4, g 5, g 6, g 7⟩
  [g 0 + v.a, g 1 + v.b, g 2 + v.c, g 3 + v.d, g 4 + v.e, g 5 + v.f, g 6 + v.g, g 7 + v.h]

/-- The hash value after `n` blocks. -/
def shaBlocks : Nat → List W32 → List Byte → List W32
  | 0, hs, _ => hs
  | n + 1, hs, bs => shaBlocks n (shaBlock hs (bs.take 64)) (bs.drop 64)

/-- SHA-256 of a byte string, 32 bytes. -/
def sha256 (m : List Byte) : List Byte :=
  let pad := (119 - m.length % 64) % 64
  let p := m ++ [0x80] ++ zeros pad ++ toBytes 8 (m.length * 8)
  (shaBlocks (p.length / 64) shaInit p).flatMap (fun w => toBytes 4 w.toNat)

/-- HMAC-SHA-256. -/
def hmac256 (key m : List Byte) : List Byte :=
  let k := padTo 64 (if key.length > 64 then sha256 key else key)
  sha256 (k.map (· ^^^ 0x5C) ++ sha256 (k.map (· ^^^ 0x36) ++ m))

/-- HKDF-SHA-256 (PRESUMED, log entry 12) of at most 64 bytes. -/
def hkdf256 (ikm salt info : List Byte) (n : Nat) : List Byte :=
  let prk := hmac256 salt ikm
  let t1 := hmac256 prk (info ++ [1])
  (t1 ++ hmac256 prk (t1 ++ info ++ [2])).take n

/-- Sum of 16-bit words with end-around carry. -/
def onesSum : List Byte → Nat
  | a :: b :: t => let s := a.toNat * 256 + b.toNat + onesSum t; s % 65536 + s / 65536
  | [a] => a.toNat * 256
  | [] => 0

/-- Internet checksum of a byte string. -/
def inetSum (bs : List Byte) : Nat := 65535 - (let s := onesSum bs; s % 65536 + s / 65536)

end Sys2Proof.Machine
end

