-- ==== Sys2Proof/Machine/Signature.lean ====
section
/-!
DEFINITION. SLH-DSA-SHA2-128s and -128f (07 R181, 14 R371, R379), which the spec names and does not print: FIPS 205, the pure form with an
empty context (log entry 12).
-/
namespace Sys2Proof.Machine

/-- A parameter set of 128-bit security: hypertree height, layers, FORS tree height, FORS trees, digest bytes. -/
structure Slh where
  h : Nat
  d : Nat
  a : Nat
  k : Nat
  m : Nat

/-- SLH-DSA-SHA2-128s: signatures of 7,856 bytes. -/
def slh128s : Slh := ⟨63, 7, 12, 14, 30⟩
/-- SLH-DSA-SHA2-128f: signatures of 17,088 bytes. -/
def slh128f : Slh := ⟨66, 22, 6, 33, 34⟩

/-- Height of one XMSS tree. -/
def Slh.hp (p : Slh) : Nat := p.h / p.d
/-- Bytes of a signature. -/
def Slh.sigLen (p : Slh) : Nat := (1 + p.k * (1 + p.a) + p.h + 35 * p.d) * 16

/-- A key pair's parts of 16 bytes. -/
structure SlhKey where
  skSeed : List Byte
  skPrf : List Byte
  pkSeed : List Byte

/-! ### Addresses and hashes -/

/-- A compressed address: layer, tree, type, and its three words. -/
def slhAdrs (layer tree type w1 w2 w3 : Nat) : List Byte :=
  toBytes 1 layer ++ toBytes 8 tree ++ toBytes 1 type ++ toBytes 4 w1 ++ toBytes 4 w2 ++ toBytes 4 w3

/-- F, H, T and PRF: the first 16 bytes of SHA-256 of the padded public seed, an address and a message. -/
def slhHash (pkSeed adrs m : List Byte) : List Byte := (sha256 (pkSeed ++ zeros 48 ++ adrs ++ m)).take 16

/-- MGF1 with SHA-256, of at most 64 bytes. -/
def mgf1 (seed : List Byte) (n : Nat) : List Byte := (sha256 (seed ++ toBytes 4 0) ++ sha256 (seed ++ toBytes 4 1)).take n

/-- Digest of a message under its randomiser. -/
def Slh.hMsg (p : Slh) (r pkSeed pkRoot m : List Byte) : List Byte := mgf1 (r ++ pkSeed ++ sha256 (r ++ pkSeed ++ pkRoot ++ m)) p.m

/-- `n` digits of `b` bits of a byte string, most significant first. -/
def base2b (bs : List Byte) (b n : Nat) : List Nat :=
  (List.range n).map (fun i => ofBytes bs / 2 ^ (8 * bs.length - b * (i + 1)) % 2 ^ b)

/-! ### WOTS+ -/

/-- A chain from step i, of n steps. -/
def wotsChain (pkSeed : List Byte) (layer tree leaf c : Nat) : Nat → Nat → List Byte → List Byte
  | _, 0, x => x
  | i, n + 1, x => wotsChain pkSeed layer tree leaf c (i + 1) n (slhHash pkSeed (slhAdrs layer tree 0 leaf c i) x)

/-- Secret start of a chain. -/
def wotsStart (key : SlhKey) (layer tree leaf c : Nat) : List Byte := slhHash key.pkSeed (slhAdrs layer tree 5 leaf c 0) key.skSeed

/-- The public key that the ends of 35 chains make. -/
def wotsRoot (pkSeed : List Byte) (layer tree leaf : Nat) (ends : List (List Byte)) : List Byte :=
  slhHash pkSeed (slhAdrs layer tree 1 leaf 0 0) ends.flatten

/-- A message's 32 digits and its checksum's 3. -/
def wotsDigits (m : List Byte) : List Nat :=
  let ds := base2b m 4 32
  ds ++ base2b (toBytes 2 ((ds.map (15 - ·)).sum * 16)) 4 3

/-- Leaf of an XMSS tree. -/
def wotsLeaf (key : SlhKey) (layer tree leaf : Nat) : List Byte :=
  wotsRoot key.pkSeed layer tree leaf ((List.range 35).map (fun c => wotsChain key.pkSeed layer tree leaf c 0 15 (wotsStart key layer tree leaf c)))

/-- A WOTS+ signature: one element for each digit. -/
def wotsSign (key : SlhKey) (layer tree leaf : Nat) (m : List Byte) : List (List Byte) :=
  (wotsDigits m).zipIdx.map (fun e => wotsChain key.pkSeed layer tree leaf e.2 0 e.1 (wotsStart key layer tree leaf e.2))

/-- The leaf that a WOTS+ signature gives. -/
def wotsOpen (pkSeed : List Byte) (layer tree leaf : Nat) (m : List Byte) (sig : List (List Byte)) : List Byte :=
  wotsRoot pkSeed layer tree leaf
    ((wotsDigits m).zipIdx.map (fun e => wotsChain pkSeed layer tree leaf e.2 e.1 (15 - e.1) (sig.getD e.2 [])))

/-! ### XMSS and the hypertree -/

/-- A node at height z. -/
def xmssNode (key : SlhKey) (layer tree : Nat) : Nat → Nat → List Byte
  | 0, i => wotsLeaf key layer tree i
  | z + 1, i =>
    slhHash key.pkSeed (slhAdrs layer tree 2 0 (z + 1) i) (xmssNode key layer tree z (2 * i) ++ xmssNode key layer tree z (2 * i + 1))

/-- The root that a leaf and the nodes of its path give, from height j up; `adr`: a node's address by its height and index. -/
def climbPath (pkSeed : List Byte) (adr : Nat → Nat → List Byte) : Nat → Nat → List Byte → List (List Byte) → List Byte
  | _, _, x, [] => x
  | j, i, x, n :: t =>
    climbPath pkSeed adr (j + 1) (i / 2) (slhHash pkSeed (adr (j + 1) (i / 2)) (if i % 2 = 0 then x ++ n else n ++ x)) t

/-- Index of a node's sibling. -/
def sibling (i : Nat) : Nat := if i % 2 = 0 then i + 1 else i - 1

/-- Path of a leaf. -/
def Slh.authPath (p : Slh) (key : SlhKey) (layer tree leaf : Nat) : List (List Byte) :=
  (List.range p.hp).map (fun j => xmssNode key layer tree j (sibling (leaf / 2 ^ j)))

/-- Root of an XMSS tree from a signature. -/
def Slh.xmssOpen (p : Slh) (pkSeed : List Byte) (layer tree leaf : Nat) (m : List Byte) (sig : List (List Byte)) : List Byte :=
  climbPath pkSeed (fun z i => slhAdrs layer tree 2 0 z i) 0 leaf (wotsOpen pkSeed layer tree leaf m (sig.take 35)) ((sig.drop 35).take p.hp)

/-- The hypertree's signature of a message, from a layer up. -/
def Slh.htSign (p : Slh) (key : SlhKey) : Nat → Nat → Nat → Nat → List Byte → List (List Byte)
  | 0, _, _, _, _ => []
  | n + 1, layer, tree, leaf, m =>
    let sig := wotsSign key layer tree leaf m ++ p.authPath key layer tree leaf
    sig ++ p.htSign key n (layer + 1) (tree / 2 ^ p.hp) (tree % 2 ^ p.hp) (p.xmssOpen key.pkSeed layer tree leaf m sig)

/-- The root that a hypertree signature gives, from a layer up. -/
def Slh.htOpen (p : Slh) (pkSeed : List Byte) : Nat → Nat → Nat → Nat → List Byte → List (List Byte) → List Byte
  | 0, _, _, _, m, _ => m
  | n + 1, layer, tree, leaf, m, sig =>
    p.htOpen pkSeed n (layer + 1) (tree / 2 ^ p.hp) (tree % 2 ^ p.hp) (p.xmssOpen pkSeed layer tree leaf m (sig.take (35 + p.hp))) (sig.drop (35 + p.hp))

/-! ### FORS -/

/-- Secret value of a FORS leaf. -/
def forsSecret (key : SlhKey) (tree leaf i : Nat) : List Byte := slhHash key.pkSeed (slhAdrs 0 tree 6 leaf 0 i) key.skSeed

/-- A FORS node at height z. -/
def forsNode (key : SlhKey) (tree leaf : Nat) : Nat → Nat → List Byte
  | 0, i => slhHash key.pkSeed (slhAdrs 0 tree 3 leaf 0 i) (forsSecret key tree leaf i)
  | z + 1, i =>
    slhHash key.pkSeed (slhAdrs 0 tree 3 leaf (z + 1) i) (forsNode key tree leaf z (2 * i) ++ forsNode key tree leaf z (2 * i + 1))

/-- A FORS signature: for each tree, its secret value and path. -/
def Slh.forsSign (p : Slh) (key : SlhKey) (tree leaf : Nat) (md : List Byte) : List (List Byte) :=
  (base2b md p.a p.k).zipIdx.flatMap (fun e =>
    let i := e.2 * 2 ^ p.a + e.1
    forsSecret key tree leaf i :: (List.range p.a).map (fun j => forsNode key tree leaf j (sibling (i / 2 ^ j))))

/-- The FORS public key that a signature gives. -/
def Slh.forsOpen (p : Slh) (pkSeed : List Byte) (tree leaf : Nat) (md : List Byte) (sig : List (List Byte)) : List Byte :=
  slhHash pkSeed (slhAdrs 0 tree 4 leaf 0 0) ((base2b md p.a p.k).zipIdx.flatMap (fun e =>
    let i := e.2 * 2 ^ p.a + e.1
    let part := (sig.drop (e.2 * (1 + p.a))).take (1 + p.a)
    climbPath pkSeed (fun z j => slhAdrs 0 tree 3 leaf z j) 0 i (slhHash pkSeed (slhAdrs 0 tree 3 leaf 0 i) (part.getD 0 [])) (part.drop 1)))

/-! ### The scheme -/

/-- Bytes cut into pieces of 16. -/
def pieces16 : Nat → List Byte → List (List Byte)
  | 0, _ => []
  | n + 1, bs => bs.take 16 :: pieces16 n (bs.drop 16)

/-- What a digest selects: the FORS message, the tree and the leaf. -/
def Slh.select (p : Slh) (dg : List Byte) : List Byte × Nat × Nat :=
  let n1 := (p.k * p.a + 7) / 8
  let n2 := (p.h - p.hp + 7) / 8
  (dg.take n1, beAt dg n1 n2 % 2 ^ (p.h - p.hp), beAt dg (n1 + n2) ((p.hp + 7) / 8) % 2 ^ p.hp)

/-- PK.root. -/
def Slh.root (p : Slh) (key : SlhKey) : List Byte := xmssNode key (p.d - 1) 0 p.hp 0

/-- Public key: PK.seed and PK.root. -/
def Slh.publicKey (p : Slh) (key : SlhKey) : List Byte := key.pkSeed ++ p.root key

/-- A message as the pure form signs it, with an empty context. -/
def slhMessage (m : List Byte) : List Byte := 0 :: 0 :: m

/-- Deterministic signature of a message: the randomiser is PK.seed (14 R379). -/
def Slh.sign (p : Slh) (key : SlhKey) (m : List Byte) : List Byte :=
  let r := (hmac256 key.skPrf (key.pkSeed ++ slhMessage m)).take 16
  let (md, tree, leaf) := p.select (p.hMsg r key.pkSeed (p.root key) (slhMessage m))
  let fors := p.forsSign key tree leaf md
  r ++ fors.flatten ++ (p.htSign key p.d 0 tree leaf (p.forsOpen key.pkSeed tree leaf md fors)).flatten

/-- Whether a signature of a message verifies under a public key. -/
def Slh.verify (p : Slh) (pk m sig : List Byte) : Bool :=
  let pkSeed := pk.take 16
  let ps := pieces16 (p.sigLen / 16) sig
  let nf := p.k * (1 + p.a)
  let (md, tree, leaf) := p.select (p.hMsg (sig.take 16) pkSeed (pk.drop 16) (slhMessage m))
  pk.length == 32 && sig.length == p.sigLen &&
    p.htOpen pkSeed p.d 0 tree leaf (p.forsOpen pkSeed tree leaf md ((ps.drop 1).take nf)) (ps.drop (1 + nf)) == pk.drop 16

/-- The key pair of 48 seed bytes (14 R379). -/
def slhKeyOf (seed : List Byte) : SlhKey := ⟨slice seed 0 16, slice seed 16 16, slice seed 32 16⟩

/-- Whether a SLH-DSA-SHA2-128s signature verifies (07 R181, 14 R374, R386). -/
@[irreducible] def slhVerify (key msg sig : List Byte) : Bool := slh128s.verify key msg sig

end Sys2Proof.Machine
end

