-- ==== Sys2Proof/Machine/Protect.lean ====
section
/-!
DEFINITION. Storage keys, target gates and slots, and the violation records (10 R258 to R261, R277 to R287): the checks a
part of an access meets, and the reads and writes of the masters that have no translation.
-/
namespace Sys2Proof.Machine

/-- Master classes, by their bit in MASTERS (10, GW_CTL). -/
inductive MClass where
  | core | dma | rhizoid | cairn | host | peer | debug
  deriving DecidableEq, Repr

/-- Bit of a class in MASTERS, from bit 16 of the control word up. -/
def MClass.idx : MClass → Nat
  | .core => 0 | .dma => 1 | .rhizoid => 2 | .cairn => 3 | .host => 4 | .peer => 5 | .debug => 6

/-- Who makes an access: master id, class, key and privilege (10 Table 10.1). -/
structure Req where
  master : Nat
  cls : MClass
  key : Nat
  sup : Bool
  deriving DecidableEq, Repr

/-- What a part of an access does (10 Table 10.7). -/
inductive Acc where
  | read | write | rw | walk | exec
  deriving DecidableEq, Repr

/-- Whether the access reads. -/
def Acc.reads : Acc → Bool
  | .read | .rw | .walk => true
  | .write | .exec => false

/-- Whether the access writes. -/
def Acc.writes : Acc → Bool
  | .read => false
  | .write | .rw | .walk | .exec => true

/-- Whether key `k` opens a key byte for an access (R277). -/
def keyOk (kb : Byte) (k : Nat) (sup : Bool) (a : Acc) : Bool :=
  let lock := fld kb 4 4
  let scope := fld kb 2 2
  (k == 0 && sup) ||
    ((!a.writes || k == lock) &&
      (!a.reads || scope == 0 || (scope == 1 && k == lock) || (scope == 2 && (k == lock || k == (lock ^^^ 1)))))

/-- RIGHTS bits an access needs at a privilege (10 Table 10.7): R, W and X are bits 2, 1, 0 for supervisor and 5, 4, 3
for user. -/
def rightsNeeded (a : Acc) (sup : Bool) : Nat :=
  let r := match a with
    | .read => 4
    | .write => 2
    | .rw => 6
    | .walk => 6
    | .exec => 3
  if sup then r else r * 8

/-- Why a key, a gate or a slot denies (10 Table 10.8, CAUSE), with the window. -/
inductive Denial where
  | key
  | noWindow
  | cls (win : Nat)
  | right (win : Nat)
  deriving DecidableEq, Repr

/-- CAUSE of a denial. -/
def Denial.code : Denial → Nat
  | .key => 1 | .noWindow => 2 | .cls _ => 3 | .right _ => 4

/-- WIN of a denial. -/
def Denial.win : Denial → Nat
  | .key => 0 | .noWindow => 0 | .cls w => w | .right w => w

/-- What MASTERS and RIGHTS of a control word say to an access. -/
def grantOf (ctl : W32) (win : Nat) (r : Req) (a : Acc) : Option Denial :=
  if !bit ctl (16 + r.cls.idx) then some (.cls win)
  else if fld ctl 0 6 &&& rightsNeeded a r.sup = rightsNeeded a r.sup then none else some (.right win)

/-- The enabled window of gate g that covers a frame. -/
def Dev.window (d : Dev) (g fr : Nat) : Option Nat :=
  (List.range 16).find? (fun w =>
    d.rbit (rk .gate g (0x100 + 16 * w)) 31 && d.rf (rk .gate g (0x104 + 16 * w)) 0 22 ≤ fr &&
      fr ≤ d.rf (rk .gate g (0x104 + 16 * w)) 0 22 + d.rf (rk .gate g (0x108 + 16 * w)) 0 22)

/-- Gate check of the part at a physical address of a memory (R280). -/
def Dev.gateCheck (d : Dev) (r : Req) (t : Tier) (a : Nat) (acc : Acc) : Option Denial :=
  match d.window t.gate ((a - t.base) / 4096) with
  | none => some .noWindow
  | some w => grantOf (d.reg (rk .gate t.gate (0x100 + 16 * w))) w r acc

/-- Key byte of the frame that holds a physical address. -/
def Dev.keyByte (d : Dev) (a : Nat) : Byte := SMap.get 0 d.keys (a / 4096)

/-- KIND of a violation record (10 Table 10.8): execute wins over the class of the master. -/
def kindOf (r : Req) (a : Acc) : Nat :=
  match a with
  | .exec => 3
  | .walk => 4
  | .read => if r.cls = .dma then 5 else 1
  | .write | .rw => if r.cls = .dma then 6 else 2

/-- The four words of a violation record (10 Table 10.8). -/
def violationWords (d : Dev) (r : Req) (a : Acc) (den : Denial) (slot : Bool) (gate addr : Nat) : List W32 :=
  [BitVec.ofNat 32 addr,
   BitVec.ofNat 32 (r.master % 4096 * 2 ^ 20 + r.key % 16 * 2 ^ 16 + b2n r.sup * 2 ^ 15 + kindOf r a * 2 ^ 8 + addr / 2 ^ 32 % 256),
   BitVec.ofNat 32 (den.code * 2 ^ 28 + b2n slot * 2 ^ 27 + (if slot then 0 else den.win) * 2 ^ 12 + gate % 4096),
   BitVec.ofNat 32 d.mer]

/-- Registers from `k` up set to words. -/
def Dev.setRegs (d : Dev) (k : Nat) : List W32 → Dev
  | [] => d
  | v :: t => (d.setReg k v).setRegs (k + 4) t

/-- A record captured at `cap`, with its status register `sts` (R286). -/
def Dev.capture (d : Dev) (cap sts : Nat) (ws : List W32) : Dev :=
  if d.rbit sts 31 then d.setRf sts 30 1 1 else (d.setRegs cap ws).setRf sts 31 1 1

/-- A record entered in GATELOG (R287). -/
def Dev.gateLog (d : Dev) (ws : List W32) : Dev :=
  let h := d.rf (rk .gatelog 0 0x500) 0 16
  let t := d.rf (rk .gatelog 0 0x504) 0 16
  if (h + 65536 - t) % 65536 = 64 then d.incRf (rk .gatelog 0 0x508) 0 32 1
  else
    ((d.setRegs (rk .gatelog 0 0x100 + 16 * (h % 64)) ws).setRf (rk .gatelog 0 0x500) 0 16 (h + 1)).raiseIrq (PageT.first .gatelog) 1

/-- A denied part recorded (R285). -/
def Dev.violation (d : Dev) (r : Req) (a : Acc) (den : Denial) (slot : Bool) (gate addr : Nat) : Dev :=
  let ws := violationWords d r a den slot gate addr
  let d1 := if slot then d.capture (rk .gslot (gate / 512) 0x900) (rk .gslot (gate / 512) 0x910) ws
    else d.capture (rk .gate gate 0x210) (rk .gate gate 0x220) ws
  d1.gateLog ws

/-- USED and WRIT of the frame of an access that has passed (R278). -/
def Dev.markKey (d : Dev) (a : Nat) (acc : Acc) : Dev :=
  { d with keys := SMap.put d.keys (a / 4096) (d.keyByte a ||| (if acc.writes then 3 else 2)) }

/-- Key check, then gate check, of one part at a memory; a denial is recorded (R258, R259). `useKey`: the master has a
key (Table 10.1). -/
def Dev.checkPart (d : Dev) (r : Req) (useKey : Bool) (t : Tier) (a : Nat) (acc : Acc) : Dev × Option Denial :=
  if useKey && !keyOk (d.keyByte a) r.key r.sup acc then (d.violation r acc .key false t.gate a, some .key)
  else
    match d.gateCheck r t a acc with
    | some den => (d.violation r acc den false t.gate a, some den)
    | none => (d, none)

/-! ### Accesses of the masters without translation -/

/-- How such an access fails. -/
inductive FabErr where
  /-- no memory there, or one the master does not reach (R221) -/
  | noMem
  | denied
  /-- an uncorrectable word was read (R226) -/
  | uncorr
  deriving DecidableEq, Repr

/-- The parts of a physical access: pieces inside one 4 KiB frame, ascending (R259). -/
def physParts (a n : Nat) : Nat → List (Nat × Nat)
  | 0 => []
  | fuel + 1 =>
    if n = 0 then [] else
      let k := min n (4096 - a % 4096)
      (a, k) :: physParts (a + k) (n - k) fuel

/-- Parts of a physical access of `n` bytes. -/
def partsOf (a n : Nat) : List (Nat × Nat) := physParts a n (n / 4096 + 2)

/-- Whether a program-store access needs the execute right: every write of program words does (Table 10.7). -/
def accAt (t : Tier) (acc : Acc) : Acc :=
  match t, acc with
  | .prog _, .write => .exec
  | _, a => a

/-- One part read by a fabric master. -/
def Dev.fabReadPart (d : Dev) (r : Req) (useKey : Bool) (a n : Nat) : Dev × Except FabErr (List Byte) :=
  match tierOf a with
  | none => (d, .error .noMem)
  | some t =>
    match d.checkPart r useKey t a .read with
    | (d1, some _) => (d1, .error .denied)
    | (d1, none) =>
      let d2 := d1.markKey a .read
      match d2.eccRead t (wordsOf a n) with
      | (d3, some w) => (d3.eccUncorr t 1 r.master w, .error .uncorr)
      | (d3, none) => (d3, .ok (d3.bytes a n))

/-- Parts read in ascending order, the first failure ending the access. -/
def Dev.fabReadParts (d : Dev) (r : Req) (useKey : Bool) : List (Nat × Nat) → Dev × Except FabErr (List Byte)
  | [] => (d, .ok [])
  | (a, n) :: t =>
    match d.fabReadPart r useKey a n with
    | (d1, .error e) => (d1, .error e)
    | (d1, .ok bs) =>
      match d1.fabReadParts r useKey t with
      | (d2, .error e) => (d2, .error e)
      | (d2, .ok bs') => (d2, .ok (bs ++ bs'))

/-- `n` bytes read by a fabric master. -/
def Dev.fabRead (d : Dev) (r : Req) (a n : Nat) (useKey : Bool := true) : Dev × Except FabErr (List Byte) :=
  d.fabReadParts r useKey (partsOf a n)

/-- One part written by a fabric master. -/
def Dev.fabWritePart (d : Dev) (r : Req) (useKey : Bool) (a : Nat) (bs : List Byte) : Dev × Option FabErr :=
  match tierOf a with
  | none => (d, some .noMem)
  | some t =>
    match d.checkPart r useKey t a (accAt t .write) with
    | (d1, some _) => (d1, some .denied)
    | (d1, none) => ((d1.markKey a .write).store t r.master a bs, none)

/-- Bytes written part by part in ascending order, the first failure ending the access. -/
def Dev.fabWriteParts (d : Dev) (r : Req) (useKey : Bool) : List (Nat × Nat) → List Byte → Dev × Option FabErr
  | [], _ => (d, none)
  | (a, n) :: t, bs =>
    match d.fabWritePart r useKey a (bs.take n) with
    | (d1, some e) => (d1, some e)
    | (d1, none) => d1.fabWriteParts r useKey t (bs.drop n)

/-- Bytes written by a fabric master. -/
def Dev.fabWrite (d : Dev) (r : Req) (a : Nat) (bs : List Byte) (useKey : Bool := true) : Dev × Option FabErr :=
  d.fabWriteParts r useKey (partsOf a bs.length) bs

/-- Slot check of an access to a register page (R289, R280); a denial is recorded with the register's address. -/
def Dev.slotCheck (d : Dev) (r : Req) (page off : Nat) (acc : Acc) : Dev × Bool :=
  match grantOf (d.reg (rk .gslot (page / 512) (0x100 + 4 * (page % 512)))) 0 r acc with
  | none => (d, true)
  | some den => (d.violation r acc den true page (0xF0_0000_0000 + page * 4096 + off), false)

end Sys2Proof.Machine
end

