-- ==== Sys2Proof/Machine/Ring.lean ====
section
/-!
DEFINITION. The Uaska ring as the other units use it (12 R316 to R321): routes, live members, replication partners, sending
flits; and the HEALTH record (13 R367, R369).
-/
namespace Sys2Proof.Machine

/-- Register of page UASKA. -/
def ukKey (off : Nat) : Nat := rk .uaska 0 off

/-- This device's position. -/
def Dev.pos (d : Dev) : Nat := d.rf (ukKey 0x100) 16 3

/-- Positions taken as present on the ring: UK_MEMBERS, this device, and every device heard from. -/
def Dev.present (d : Dev) (i : Nat) : Bool := i == d.pos || d.rbit (ukKey 0x108) i || d.uk.known.getLsbD i

/-- Whether a link carries flits of every channel. -/
def Link.up (l : Link) : Bool := l.trained && l.hello

/-- The present position next east of i. -/
def Dev.nextPos (d : Dev) (i : Nat) : Nat := (((List.range 8).map (fun k => (i + 1 + k) % 8)).find? d.present).getD i

/-- The present position next west of i. -/
def Dev.prevPos (d : Dev) (i : Nat) : Nat := (((List.range 8).map (fun k => (i + 15 - k) % 8)).find? d.present).getD i

/-- Whether the link from position i east is up: this device's own links as they stand, the others by TOPO. -/
def Dev.linkEast (d : Dev) (i : Nat) : Bool :=
  if i = d.pos then d.uk.east.up else if d.nextPos i = d.pos then d.uk.west.up else d.uk.topo.getLsbD i

/-- Hops from i to t going east over links that are up. -/
def Dev.hopsEast (d : Dev) : Nat → Nat → Nat → Option Nat
  | 0, _, _ => none
  | n + 1, i, t => if i = t then some 0 else if d.linkEast i then (d.hopsEast n (d.nextPos i) t).map (· + 1) else none

/-- Hops from i to t going west. -/
def Dev.hopsWest (d : Dev) : Nat → Nat → Nat → Option Nat
  | 0, _, _ => none
  | n + 1, i, t => if i = t then some 0 else if d.linkEast (d.prevPos i) then (d.hopsWest n (d.prevPos i) t).map (· + 1) else none

/-- Route to a position (R320): whether it leaves west, and its hops; east when the two ways are equal. -/
def Dev.route (d : Dev) (t : Nat) : Option (Bool × Nat) :=
  match d.hopsEast 9 d.pos t, d.hopsWest 9 d.pos t with
  | some e, some w => if e ≤ w then some (false, e) else some (true, w)
  | some e, none => some (false, e)
  | none, some w => some (true, w)
  | none, none => none

/-- UK_MEMBERS. -/
def Dev.ukMembers (d : Dev) : BitVec 8 := BitVec.ofNat 8 (d.rf (ukKey 0x108) 0 8)

/-- Three BEAT intervals, in ns. -/
def Dev.beatLimit (d : Dev) : Nat := 30_000 * d.rf (ukKey 0x100) 0 8

/-- Whether device t of these members is live (R320): a path, and a BEAT within the last 3 intervals. -/
def Dev.liveIn (d : Dev) (mem : BitVec 8) (t : Nat) : Bool :=
  t != d.pos && mem.getLsbD t && (d.route t).isSome && (SMap.find? d.uk.beats t).any (fun b => decide (d.mer < b + d.beatLimit))

/-- Whether a member is live. -/
def Dev.live (d : Dev) (t : Nat) : Bool := d.liveIn d.ukMembers t

/-- Insertion into a list kept in rising order of a key. -/
def insertBy {α : Type} (le : α → α → Bool) (x : α) : List α → List α
  | [] => [x]
  | y :: t => if le x y then x :: y :: t else y :: insertBy le x t

/-- A list put into rising order; equal elements keep their order. -/
def sortBy {α : Type} (le : α → α → Bool) (l : List α) : List α := l.foldr (insertBy le) []

/-- Order of partners: hops, then (position − own position) modulo 8 (R321). -/
def Dev.partnerKey (d : Dev) (t : Nat) : Nat := ((d.route t).map (·.2)).getD 9 * 8 + (t + 8 - d.pos) % 8

/-- The live ones of these members, in the order of R321. -/
def Dev.membersIn (d : Dev) (mem : BitVec 8) : List Nat :=
  sortBy (fun a b => decide (d.partnerKey a ≤ d.partnerKey b)) ((List.range 8).filter (d.liveIn mem))

/-- Live members in the order of R321. -/
def Dev.members (d : Dev) : List Nat := d.membersIn d.ukMembers

/-- Partners that a contract's replication needs: none, one, two. -/
def partnersNeeded (rep : Nat) : Nat := if rep = 1 then 1 else if rep = 2 then 2 else 0

/-- Whether a member is eligible for a replication mode. -/
def Dev.eligible (d : Dev) (rep t : Nat) : Bool :=
  ((d.route t).map (·.2)).getD 9 ≤ (if rep = 1 then 3 else 5) && !d.uk.repfull.getLsbD t

/-- The partners that a commit of this mode, begun under these members, uses (R321, R325). -/
def Dev.partnersIn (d : Dev) (mem : BitVec 8) (rep : Nat) : List Nat := ((d.membersIn mem).filter (d.eligible rep)).take (partnersNeeded rep)

/-- The partners a commit of this mode uses (R321). -/
def Dev.partners (d : Dev) (rep : Nat) : List Nat := d.partnersIn d.ukMembers rep

/-! ### Sending flits (R318, R319) -/

/-- Channel of a flit by its first byte: 0 control, 1 commit, 2 bulk. -/
def vcOf (kind : Byte) : Nat := kind.toNat / 64

/-- Credits held for a channel. -/
def Link.credit (l : Link) (vc : Nat) : Nat := if vc = 0 then l.cr0 else if vc = 1 then l.cr1 else l.cr2

/-- Credits of a channel set. -/
def Link.setCredit (l : Link) (vc n : Nat) : Link :=
  if vc = 0 then { l with cr0 := n } else if vc = 1 then { l with cr1 := n } else { l with cr2 := n }

/-- Credits of a channel that this end owes. -/
def Link.owed (l : Link) (vc : Nat) : Nat := if vc = 0 then l.owe0 else if vc = 1 then l.owe1 else l.owe2

/-- Credits owed set. -/
def Link.setOwed (l : Link) (vc n : Nat) : Link :=
  if vc = 0 then { l with owe0 := n } else if vc = 1 then { l with owe1 := n } else { l with owe2 := n }

/-- Channel whose credits the next flit returns: the lowest that owes any (log entry 67). -/
def Link.oweVc (l : Link) : Nat := if l.owe0 > 0 then 0 else if l.owe1 > 0 then 1 else 2

/-- CRD of the next flit. -/
def Link.crd (l : Link) : Byte := BitVec.ofNat 8 (l.oweVc * 64 + min 63 (l.owed l.oweVc))

/-- The link after CRD has been sent. -/
def Link.paid (l : Link) : Link := l.setOwed l.oweVc (l.owed l.oweVc - min 63 (l.owed l.oweVc))

/-- Whether a flit may be sent now. -/
def Link.ready (l : Link) (f : Flit) : Bool :=
  (if vcOf f.vct = 0 then l.trained else l.up) && l.replay.length < 256 && l.credit (vcOf f.vct) > 0

/-- The oldest waiting flit of a channel that may be sent now. -/
def Link.pick (l : Link) (vc : Nat) : Option Flit := l.wait.find? (fun f => vcOf f.vct == vc && l.ready f)

/-- The flit a link sends next (R318): control, then commit, then bulk; but a bulk flit after 63 others. -/
def Link.nextFlit (l : Link) : Option Flit :=
  (if l.sinceBulk ≥ 63 then [2, 0, 1] else [0, 1, 2]).findSome? l.pick

/-- The link after a flit has been sent: it takes the next SEQ and is kept until acknowledged. -/
def Link.sent (l : Link) (f : Flit) : Link :=
  let vc := vcOf f.vct
  let y := (l.setCredit vc (l.credit vc - 1)).paid
  { y with
      txSeq := l.txSeq + 1, replay := l.replay ++ [(l.txSeq, f)], wait := l.wait.erase f
      sinceBulk := if vc = 2 || !l.wait.any (fun g => vcOf g.vct == 2) then 0 else l.sinceBulk + 1 }

/-- A direction of the ring. -/
def Dev.link (d : Dev) (west : Bool) : Link := if west then d.uk.west else d.uk.east

/-- A direction of the ring replaced. -/
def Dev.setLink (d : Dev) (west : Bool) (l : Link) : Dev :=
  { d with uk := if west then { d.uk with west := l } else { d.uk with east := l } }

/-- The 256 bytes of a flit (Table 12.3). -/
def flitBytes (seq ack : BitVec 12) (nak : Bool) (crd : Byte) (f : Flit) : List Byte :=
  let b := [f.vct] ++ toBytes 1 (f.src * 16 + f.dst) ++ toBytes 2 (seq.toNat * 16) ++ toBytes 2 (ack.toNat * 16 + b2n nak * 8) ++
    toBytes 1 f.payload.length ++ [crd] ++ padTo 244 f.payload
  b ++ toBytes 4 (crc32c b).toNat

/-- Waiting flits sent as far as they can be (R318). -/
def Dev.pumpLink (west : Bool) : Nat → Dev → Dev
  | 0, d => d
  | n + 1, d =>
    let l := d.link west
    match l.nextFlit with
    | none => d
    | some f => Dev.pumpLink west n ((d.setLink west (l.sent f)).emit (.flit west l.txSeq l.rxSeq false l.crd f))

/-- A flit sent in one direction, or put to wait for credits; a direction without a link sends none. -/
def Dev.sendFlit (d : Dev) (west : Bool) (f : Flit) : Dev :=
  let l := d.link west
  if l.trained then Dev.pumpLink west (l.wait.length + 1) (d.setLink west { l with wait := l.wait ++ [f] }) else d

/-- A flit of this device sent in one direction. -/
def Dev.sendOn (d : Dev) (west : Bool) (kind : Byte) (dst : Nat) (payload : List Byte) : Dev := d.sendFlit west ⟨kind, d.pos, dst, payload⟩

/-- A flit sent over the route to its device. -/
def Dev.sendRoute (d : Dev) (f : Flit) : Dev :=
  match d.route f.dst with
  | none => d
  | some (west, _) => d.sendFlit west f

/-- A flit sent to one device over its route. -/
def Dev.sendTo (d : Dev) (t : Nat) (kind : Byte) (payload : List Byte) : Dev := d.sendRoute ⟨kind, d.pos, t, payload⟩

/-- An IDLE flit (Table 12.4): it takes no SEQ and is never replayed. -/
def Dev.sendIdle (d : Dev) (west nak : Bool) : Dev :=
  let l := d.link west
  (d.setLink west l.paid).emit (.flit west 0 l.rxSeq nak l.crd ⟨0, d.pos, 15, []⟩)

/-- A flit sent on both links, for every device. -/
def Dev.sendAll (d : Dev) (kind : Byte) (payload : List Byte) : Dev := (d.sendOn false kind 15 payload).sendOn true kind 15 payload

/-! ### HEALTH (13 Table 13.9, R367, R369) -/

/-- Mode codes of MODE_STS.MODE. -/
def Mode.code : Mode → Nat
  | .datum => 0 | .crozier => 1 | .standby => 2 | .run => 3 | .degraded => 4 | .drain => 5 | .survey => 6 | .safe => 7

/-- A HEALTH record's 32 bytes. -/
def healthBytes (d : Dev) (step cause result sev unit detail : Nat) : List Byte :=
  toBytes 2 0x484C ++ toBytes 1 d.pos ++ toBytes 1 step ++ toBytes 1 cause ++ toBytes 1 result ++ toBytes 1 sev ++
    toBytes 1 d.mode.code ++ toBytes 2 unit ++ toBytes 2 0 ++ toBytes 4 d.hseq ++ toBytes 8 d.mer ++ toBytes 8 detail

/-- A record entered in the HEALTH log (R369). -/
def Dev.healthLog (d : Dev) (bs : List Byte) : Dev :=
  let h := d.rf (rk .health 0 0x600) 0 16
  let t := d.rf (rk .health 0 0x604) 0 16
  if (h + 65536 - t) % 65536 = 32 then d.incRf (rk .health 0 0x608) 0 32 1
  else
    ((d.setRegs (rk .health 0 0x200 + 32 * (h % 32)) ((List.range 8).map (fun i => BitVec.ofNat 32 (beAt bs (4 * i) 4)))).setRf
      (rk .health 0 0x600) 0 16 (h + 1)).raiseIrq (PageT.first .health) 1

/-- A HEALTH record logged and sent on both links, for every device (R352 step 4). -/
def Dev.healthAll (d : Dev) (step cause result sev unit : Nat) (detail : Nat := 0) : Dev :=
  let bs := healthBytes d step cause result sev unit detail
  (({ d with hseq := d.hseq + 1 }).healthLog bs).sendAll 0x05 bs

/-- A HEALTH record made: logged, and sent to every live member (R367). -/
def Dev.health (d : Dev) (step cause result sev unit : Nat) (detail : Nat := 0) : Dev :=
  let bs := healthBytes d step cause result sev unit detail
  let d1 := ({ d with hseq := d.hseq + 1 }).healthLog bs
  d1.members.foldl (fun y t => y.sendTo t 0x05 bs) d1

end Sys2Proof.Machine
end

