-- ==== Sys2Proof/Machine/Grat.lean ====
section
/-!
DEFINITION. The Graticule (08): contracts, the admission test and its quantities, arrivals, refusals and records,
completion and failure of items, staging, and the withdrawal of a core. The quantities of R197 and R198 are computed from
the one list of items.
-/
namespace Sys2Proof.Machine

/-! ### Contracts (R188) -/

/-- Key of a contract word of queue q. -/
def ctKey (q off : Nat) : Nat := rk .gratCq (q / 64) (0x100 + 32 * (q % 64) + off)

/-- Key of a status word of queue q. -/
def qsKey (q off : Nat) : Nat := rk .gratQs (q / 64) (0x100 + 16 * (q % 64) + off)

/-- Key of a GRAT register. -/
def grKey (off : Nat) : Nat := rk .grat 0 off

/-- Key of a status word of frond f. -/
def frKey (f off : Nat) : Nat := grKey (0x200 + 16 * f + off)

/-- CT_CTL.EN, with a QDEPTH that does not close the queue. -/
def Dev.ctEn (d : Dev) (q : Nat) : Bool := d.rbit (ctKey q 0) 31 && d.rf (ctKey q 0) 16 8 != 0
/-- CT_CTL.CLASS. -/
def Dev.ctClass (d : Dev) (q : Nat) : Nat := d.rf (ctKey q 0) 24 4
/-- CT_CTL.QDEPTH. -/
def Dev.ctQdepth (d : Dev) (q : Nat) : Nat := d.rf (ctKey q 0) 16 8
/-- CT_CTL.JEN. -/
def Dev.ctJen (d : Dev) (q : Nat) : Bool := d.rbit (ctKey q 0) 15
/-- CT_CTL.CHAIN. -/
def Dev.ctChain (d : Dev) (q : Nat) : Nat := d.rf (ctKey q 0) 8 6
/-- CT_CTL.REP. -/
def Dev.ctRep (d : Dev) (q : Nat) : Nat := d.rf (ctKey q 0) 6 2
/-- CT_DEADLINE. -/
def Dev.ctDeadline (d : Dev) (q : Nat) : Nat := d.rf (ctKey q 4) 0 32
/-- CT_BUDGET. -/
def Dev.ctBudget (d : Dev) (q : Nat) : Nat := d.rf (ctKey q 8) 0 24
/-- CT_SIZES.PAYMAX. -/
def Dev.ctPaymax (d : Dev) (q : Nat) : Nat := d.rf (ctKey q 0x18) 16 14
/-- CT_SIZES.EGRMAX. -/
def Dev.ctEgrmax (d : Dev) (q : Nat) : Nat := d.rf (ctKey q 0x18) 0 14
/-- GRAT_QSTAT0.FROND. -/
def Dev.qFrond (d : Dev) (q : Nat) : Nat := d.rf (qsKey q 0) 16 5
/-- GRAT_QSTAT1.EBUDGET. -/
def Dev.qEbudget (d : Dev) (q : Nat) : Nat := d.rf (qsKey q 4) 0 24

/-- Stage area of a frame: offset in the frond store and size (R190). -/
def stageOff (fr : W32) : Nat := fld fr 0 9 * 4096
/-- Size of the stage area. -/
def stageSize (fr : W32) : Nat := (fld fr 9 4 + 1) * 4096
/-- Offset of the system slot. -/
def slotOff (fr : W32) : Nat := fld fr 13 10 * 2048

/-! ### Fixed components (R195, Table 8.2), in ns -/

/-- Ceiling of a quotient. -/
def ceilDiv (a b : Nat) : Nat := (a + b - 1) / b

/-- T_IN. -/
def tIn (paymax : Nat) : Nat := ceilDiv (8 * (paymax + 64)) 100 + 120
/-- T_ST. -/
def tSt (paymax : Nat) : Nat := 256 + ceilDiv paymax 32
/-- T_OUT. -/
def tOut (egrmax ewin : Nat) : Nat := 1232 + ceilDiv egrmax 32 + 100 * ewin
/-- T_J. -/
def tJ (jen : Bool) : Nat := if jen then 1500 else 0
/-- T_R. -/
def tR (rep : Nat) : Nat := if rep = 1 then 5000 else if rep = 2 then 8000 else 0

/-- GRAT_CTL.EWIN. -/
def Dev.ewin (d : Dev) : Nat := d.rf (grKey 0x100) 0 16
/-- GRAT_CTL.SPARE. -/
def Dev.spare (d : Dev) : Nat := d.rf (grKey 0x100) 22 2

/-- T_fix of queue q's active contract. -/
def Dev.tFix (d : Dev) (q : Nat) : Nat :=
  tIn (d.ctPaymax q) + tOut (d.ctEgrmax q) d.ewin + tJ (d.ctJen q) + tR (d.ctRep q)

/-! ### Clock steps (13 Table 13.3) -/

/-- F of a step, cc per ns, as a fraction. -/
def fNum (step : Nat) : Nat := [2, 8, 4, 1].getD step 2
/-- Denominator of F. -/
def fDen (step : Nat) : Nat := [1, 5, 3, 1].getD step 1

/-- The step admission reckons with: the lower clock while a step down is pending (R219). -/
def Dev.admStep (d : Dev) : Nat :=
  let k := rk .clocks 0 0x100
  if d.rbit k 8 then d.rf k 4 3 else d.rf k 0 3

/-! ### Items and the quantities of R198 -/

/-- The device with an item replaced. -/
def Dev.setItem (d : Dev) (n : Nat) (x : Item) : Dev := { d with items := SMap.put d.items n x }

/-- The device with an item changed. -/
def Dev.modItem (d : Dev) (n : Nat) (f : Item → Item) : Dev :=
  match d.item? n with
  | none => d
  | some x => d.setItem n (f x)

/-- Whether an item's charge stands in the grid (R199). -/
def Item.charged (x : Item) : Bool :=
  match x.phase with
  | .admitted | .ready | .handed | .running => true
  | _ => false

/-- Whether an item is outstanding: admitted, and its reply or record has not left (log entry 20). -/
def Item.outstanding (x : Item) : Bool := x.phase != .arrived

/-- The item that core c holds and that has not completed (R204): a core may still hold one that the Graticule has ended (R213). -/
def Dev.openItem (d : Dev) (c : Nat) : Option (Nat × Item) :=
  match (d.core c).item with
  | none => none
  | some n => ((d.item? n).filter (fun x => x.phase == .running && x.core == some c)).map (fun x => (n, x))

/-- Items that pass a test, with their numbers. -/
def Dev.itemsWhere (d : Dev) (p : Item → Bool) : List (Nat × Item) := d.items.filter (fun e => p e.2)

/-- Sum over the items that pass a test. -/
def Dev.sumItems (d : Dev) (p : Item → Bool) (f : Item → Nat) : Nat := ((d.itemsWhere p).map (fun e => f e.2)).sum

/-- Outstanding items of a queue, OUT. -/
def Dev.outQ (d : Dev) (q : Nat) : Nat := (d.itemsWhere (fun x => x.outstanding && x.q == q)).length

/-- OUTSTANDING. -/
def Dev.outstanding (d : Dev) : Nat := (d.itemsWhere Item.outstanding).length

/-- chain(q): charges and staging of a queue's items, in cc. -/
def Dev.chainOf (d : Dev) (q : Nat) : Nat := d.sumItems (fun x => x.charged && x.q == q) (fun x => x.chg + 2 * x.tst)

/-- cls(f, c). -/
def Dev.clsOf (d : Dev) (f c : Nat) : Nat := d.sumItems (fun x => x.charged && x.frond == f && x.cls == c) Item.chg

/-- Whether an item holds egress bytes of port p (R198, R199). -/
def Item.onPort (x : Item) (p : Nat) : Bool :=
  match x.src with
  | .port p' _ _ => p' == p
  | _ => false

/-- portout(p): bytes reserved until the reply has left. -/
def Dev.portOut (d : Dev) (p : Nat) : Nat := d.sumItems (fun x => x.outstanding && x.onPort p) (fun x => x.egrmax + 24)

/-- Rate of the port led by lane p, in units of 100 Gb/s; 0: the lane leads no port (12 Table 12.1). -/
def Dev.portRate (d : Dev) (p : Nat) : Nat :=
  match d.rf (rk .lg (p / 4) 0x100) 16 3 with
  | 1 => if p % 4 = 0 then 4 else 0
  | 2 => if p % 2 = 0 then 2 else 0
  | 3 | 4 => 1
  | _ => 0

/-- portceil(p), bytes: EWIN × 100 ns × 9.375 bytes per ns for each 100 Gb/s. -/
def Dev.portCeil (d : Dev) (p : Nat) : Nat := d.ewin * 9375 * d.portRate p / 10

/-- Cores of frond f in the pool, POOL. -/
def Dev.poolOf (d : Dev) (f : Nat) : Nat := ((List.range 8).filter (fun j => (d.core (8 * f + j)).pool)).length

/-- U of frond f, percent. -/
def Dev.uOf (d : Dev) (f : Nat) : Nat := d.rf (frKey f 0) 16 8

/-- MAXB of frond f. -/
def Dev.maxb (d : Dev) (f : Nat) : Nat := d.rf (frKey f 4) 0 24

/-! ### Journal chains (09 R253, R254) -/

/-- Key of a register of chain c. -/
def chKey (c off : Nat) : Nat := rk .cairnCh (c / 32) (0x100 + 32 * (c % 32) + off)

/-- CH_STS.STATE: 0 OFF, 1 OPEN, 2 FULL, 3 CLOSING. -/
def Dev.chState (d : Dev) (c : Nat) : Nat := d.rf (chKey c 0x1C) 0 2
/-- Bytes of the chain's ring. -/
def Dev.chSize (d : Dev) (c : Nat) : Nat := d.rf (chKey c 8) 0 16 * 65536
/-- CH_WR. -/
def Dev.chWr (d : Dev) (c : Nat) : Nat := (d.reg (chKey c 0xC)).toNat
/-- CH_CONS. -/
def Dev.chCons (d : Dev) (c : Nat) : Nat := (d.reg (chKey c 0x10)).toNat

/-- Bytes free in a ring between its write and its consume offset. -/
def ringFree (size wr cons : Nat) : Nat := if wr ≥ cons then size - (wr - cons) else cons - wr

/-- Whether an outstanding item journals, or may, on chain c. -/
def Item.journals (x : Item) (c : Nat) : Bool := x.outstanding && x.jen && x.chain == c

/-- Whether an item still holds a CLOSING chain: not yet completed, or completed with JRN 1 and not yet sealed (R254). -/
def Item.holdsChain (x : Item) (c : Nat) : Bool :=
  x.journals c && (match x.phase with
    | .admitted | .ready | .handed | .running | .texts => true
    | .done => bit x.done 62 && !x.overrun
    | _ => false)

/-- A chain as kept beside its registers. -/
def Dev.chain (d : Dev) (c : Nat) : Chain := SMap.get ⟨zeros 32, 0, false, 0, false, false, 0⟩ d.cairn.chains c

/-- The device with a chain replaced. -/
def Dev.setChain (d : Dev) (c : Nat) (x : Chain) : Dev := { d with cairn := { d.cairn with chains := SMap.put d.cairn.chains c x } }

/-- RESV of chain c (R253). -/
def Dev.resv (d : Dev) (c : Nat) : Nat := 1152 * (max (d.chain c).qsum (d.itemsWhere (fun x => x.journals c)).length + 1)

/-- The state of chain c brought up to date (R253, R254): FULL when less than RESV is free, OPEN again at RESV + 65,536, OFF
from CLOSING when no outstanding entry is left. -/
def Dev.settleChain (d : Dev) (c : Nat) : Dev :=
  let free := ringFree (d.chSize c) (d.chWr c) (d.chCons c)
  match d.chState c with
  | 1 => if free < d.resv c then d.setRf (chKey c 0x1C) 0 2 2 else d
  | 2 => if free ≥ d.resv c + 65536 then d.setRf (chKey c 0x1C) 0 2 1 else d
  | 3 => if (d.itemsWhere (fun x => x.holdsChain c)).isEmpty then d.setRf (chKey c 0x1C) 0 2 0 else d
  | _ => d

/-! ### The grid (R197, R199) -/

/-- Lower edge of the fine window: the current µs. -/
def fineBase (now : Nat) : Nat := now / 1000 * 1000

/-- Edge of the point at which a charge with this dc stands, the window being at `now`. -/
def pointEdge (now : Nat) (dc : Int) : Nat :=
  let w := fineBase now
  let c := dc.toNat
  let p0 := (w + 256000) / 256000
  if c < w then w
  else if c < w + 256000 then c / 1000 * 1000
  else if c < (p0 + 256) * 256000 then c / 256000 * 256000
  else (p0 + 256) * 256000

/-- Charges of frond f with the edges of their points. -/
def Dev.charges (d : Dev) (f : Nat) : List (Nat × Nat) :=
  (d.itemsWhere (fun x => x.charged && x.frond == f)).map (fun e => (pointEdge d.mer e.2.dc, e.2.chg))

/-- dem(f, k): the charges at points up to an edge. -/
def demUpTo (cs : List (Nat × Nat)) (e : Nat) : Nat := ((cs.filter (fun c => c.1 ≤ e)).map (·.2)).sum

/-- Whether a demand fits the capacity of m cores at utilisation u up to an edge (R197): dem ≤ F (m U − 0.04 m)(e − now) −
2,000 m, in integers. -/
def fits (step m u dem e now : Nat) : Bool :=
  decide (((dem + 2000 * m : Nat) : Int) * 100 * fDen step ≤ (fNum step : Int) * (m * ((u : Int) - 4)) * ((e : Int) - now))

/-- The frond test: every point from an edge up holds with `chg` more (R197). The points between two charges have the
demand of the lower and more capacity, so the edges at which charges stand are the ones to test. -/
def frondFits (step m u blk now : Nat) (cs : List (Nat × Nat)) (chg from_ : Nat) : Bool :=
  (from_ :: (cs.map (·.1)).filter (fun e => from_ ≤ e)).all (fun e => fits step m u (demUpTo cs e + chg + blk) e now)

/-- m of a frond: pool less spare. -/
def Dev.mOf (d : Dev) (f : Nat) : Nat := d.poolOf f - d.spare

/-- The largest charge of an open queue placed on frond f (R197). -/
def Dev.maxCharge (d : Dev) (f : Nat) : Nat := (d.qOpen.filter (fun q => d.qFrond q == f)).foldl (fun a q => max a (d.qEbudget q + 416)) 0

/-- blk(f). -/
def Dev.blk (d : Dev) (f : Nat) : Nat := d.poolOf f * d.maxCharge f

/-- The queue test (R198): a chain in cc against (1 − U) of one core up to a dc. -/
def chainFits (step u chain now : Nat) (dc : Int) : Bool :=
  decide ((chain : Int) * 100 * fDen step ≤ (fNum step : Int) * (100 - (u : Int)) * (dc - now))

/-- Lowest slack of frond f over its grid points, in cc (R216; log entry 21): capacity less demand at the first fine point
and at each point that holds a charge. -/
def Dev.minSlack (d : Dev) (f : Nat) : Int :=
  let cs := d.charges f
  let step := d.admStep
  let m := d.mOf f
  let slack (e : Nat) : Int :=
    (fNum step : Int) * (m * ((d.uOf f : Int) - 4)) * ((e : Int) - d.mer) / (100 * fDen step) - 2000 * m - demUpTo cs e
  cs.foldl (fun r c => min r (slack c.1)) (slack (fineBase d.mer))

/-! ### U (R217) -/

/-- U of frond f moved towards its target: down at once, up when no item admitted under a lower U is left. -/
def Dev.settleU (d : Dev) (f : Nat) : Dev :=
  match SMap.find? d.uTarget f with
  | none => d
  | some t =>
    if t ≤ d.uOf f || (d.itemsWhere (fun x => x.charged && x.frond == f && x.u < t)).isEmpty then
      { d.setRf (frKey f 0) 16 8 t with uTarget := SMap.drop d.uTarget f }
    else d

/-- The adaptation after a refusal (R217): a lower U on CHAIN, a higher one on GRID, within UMIN to UMAX; how far is a free
value (log entry 22). -/
def Dev.adaptU (d : Dev) (f : Nat) (lower : Bool) : Dev :=
  let umin := d.rf (grKey 0x104) 0 8
  let umax := d.rf (grKey 0x104) 8 8
  let u := d.uOf f
  let (v, d1) := d.drawFree
  if !d.rbit (grKey 0x100) 21 then d
  else
    let t := if lower then umin + v.toNat % (u - umin + 1) else u + v.toNat % (umax - u + 1)
    ({ d1 with uTarget := SMap.put d1.uTarget f t }).settleU f

/-! ### Page interrupts and counters -/

/-- MAXB of frond f recomputed over the open queues placed on it; the 24-bit field holds at its top (log 62). -/
def Dev.setMaxb (d : Dev) (f : Nat) : Dev := d.setRf (frKey f 4) 0 24 (min (2 ^ 24 - 1) (d.maxCharge f))

/-! ### The ingress ring (R194) -/

/-- Bytes of thallus g's ring that items hold. -/
def Dev.ringHeld (d : Dev) (g : Nat) : List (Nat × Nat) :=
  d.items.filterMap (fun e => if e.2.ring = g then e.2.roff.map (fun o => (o, e.2.plen)) else none)

/-- Ring bytes held. -/
def Dev.ringFill (d : Dev) (g : Nat) : Nat := ((d.ringHeld g).map (·.2)).sum

/-- Whether a span is free. -/
def spanFree (held : List (Nat × Nat)) (o n : Nat) : Bool :=
  o + n ≤ 0x40_0000 && held.all (fun h => o + n ≤ h.1 || h.1 + h.2 ≤ o)

/-- Room for `n` bytes (log entry 23): the lowest free span that begins the ring or follows a held one. -/
def ringRoom (held : List (Nat × Nat)) (n : Nat) : Option Nat :=
  (0 :: held.map (fun h => h.1 + h.2)).find? (fun o => spanFree held o n)

/-! ### PFC (12 R310) -/

/-- Key of a register of MAC[p]. -/
def macKey (p off : Nat) : Nat := rk .mac p off

/-- MAC_CFG.EN. -/
def Dev.portEn (d : Dev) (p : Nat) : Bool := d.rbit (macKey p 0x100) 31

/-- MAC_STS.LINK. -/
def Dev.portUp (d : Dev) (p : Nat) : Bool := d.rbit (macKey p 0x114) 31

/-- PFC of port p brought up to date: XOFF, with quanta 0xFFFF, beyond MAC_PFC.XOFF eighths of the ring, XON, with 0, below MAC_PFC.XON;
`again`: a standing XOFF is repeated. -/
def Dev.pfcPort (again : Bool) (d : Dev) (p : Nat) : Dev :=
  let fill := d.ringFill (p / 4) * 8
  let pri := BitVec.ofNat 8 (d.rf (macKey p 0x110) 16 8)
  let held := d.rbit (macKey p 0x114) 30
  if !d.portEn p || !d.portUp p || pri = 0 then d
  else if fill > d.rf (macKey p 0x110) 8 3 * 0x40_0000 then
    (if held && !again then d else (d.emit (.pfc p pri 0xFFFF)).setRf (macKey p 0x114) 30 1 1)
  else if held && fill < d.rf (macKey p 0x110) 0 3 * 0x40_0000 then (d.emit (.pfc p pri 0)).setRf (macKey p 0x114) 30 1 0
  else d

/-- PFC of every port of lane group g: after every change of what its ring holds. -/
def Dev.pfcGroup (d : Dev) (g : Nat) : Dev := (List.range 4).foldl (fun y k => y.pfcPort false (4 * g + k)) d

/-- Whether items are made: RUN, DEGRADED, DRAIN (08 R192, R215). -/
def Dev.makesItems (d : Dev) : Bool := d.mode == .run || d.mode == .degraded || d.mode == .drain

/-- Who writes ring g: Rhizoid (10 Table 10.1). -/
def ringReq (g : Nat) : Req := ⟨0x200 + g, .rhizoid, 0, true⟩

/-- An item arrived with its payload: written into ring g when there is room; none: the write was denied. -/
def Dev.arrive (d : Dev) (x : Item) (payload : List Byte) : Dev × Bool :=
  let n := d.nextItem
  let d0 := { d with nextItem := n + 1, qArr := SMap.put d.qArr x.q (SMap.get 0 d.qArr x.q + 1) }
  match ringRoom (d.ringHeld x.ring) payload.length with
  | none => (d0.setItem n { x with plen := payload.length, roff := none }, true)
  | some o =>
    match d0.fabWrite (ringReq x.ring) ((Tier.thallus x.ring).base + o) payload with
    | (d1, some _) => (d1, false)
    | (d1, none) => ((d1.setItem n { x with plen := payload.length, roff := some o }).pfcGroup x.ring, true)

/-! ### Records (R200, R314) and delivery -/

/-- A record: 16 bytes of lane record header and the 32 bytes of Table 8.3. -/
def recordBytes (d : Dev) (x : Item) (typ code tevt : Nat) : List Byte :=
  toBytes 2 0x414C ++ toBytes 1 1 ++ toBytes 1 0x10 ++ toBytes 2 32 ++ padTo 10 (match x.src with
      | .mbox _ => []
      | _ => x.head) ++
    toBytes 1 typ ++ toBytes 1 code ++ toBytes 2 x.q ++ toBytes 1 d.pos ++ toBytes 1 x.cls ++
    toBytes 1 (if typ = 0xF1 then 0 else x.jstate) ++ toBytes 1 0 ++ toBytes 8 x.itag.toNat ++ toBytes 8 x.tin ++ toBytes 8 tevt

/-- Mailbox m. -/
def Dev.mbx (d : Dev) (m : Nat) : Mbx := SMap.get Mbx.atReset d.mbox m

/-- The result of a mailbox request written, its vector sent (12 R335). -/
def Dev.mbxResult (d : Dev) (m kind : Nat) (bs : List Byte) : Dev :=
  ({ d with mbox := SMap.put d.mbox m { d.mbx m with result := some (kind, bs.take 240), busy := false } }).sendMsix (d.rf (rk .mbx 0 (0x100 + 4 * m)) 0 11)

/-- A frame put into port p's egress schedule. -/
def Dev.pushEgress (d : Dev) (p : Nat) (e : Egr) : Dev := { d with egress := SMap.put d.egress p (SMap.get [] d.egress p ++ [e]) }

/-- A record-item on a reply queue (R201, R207). DESIGN CHOICE (log entry 72): the reply of a posted item is such an item too, and is counted
in GRAT_LOST where RQ refuses it. -/
def Dev.postRecord (d : Dev) (x : Item) (rq : Nat) (bs : List Byte) : Dev :=
  (d.arrive { q := rq, src := .record, tin := d.mer, itag := x.itag, plen := 0, exq := false, head := slice bs 6 10, ring := x.ring, roff := none }
    bs).1

/-- What item n sends: `kind` as MBX_RES codes it (0 reply, 1 completion, 2 refusal, 3 failure). A reply that
leaves by a port keeps the item until it has left; else the item is gone. -/
def Dev.sendEnd (d : Dev) (n : Nat) (x : Item) (kind : Nat) (bs : List Byte) : Dev :=
  match x.src with
  | .port p k hdr =>
    (d.setItem n { x with phase := .reply, roff := none }).pushEgress p
      { item := some n, kind := k, hdr := hdr, payload := bs, refusal := kind == 2, record := kind != 0 }
  | .post (some rq) => ({ d with items := SMap.drop d.items n }).postRecord x rq bs
  | .mbox m => ({ d with items := SMap.drop d.items n }).mbxResult m kind bs
  | .post none | .note _ | .record => { d with items := SMap.drop d.items n }

/-- Item n at its end: what it sends, and its chain brought up to date. After a thermal trip no item in flight receives anything (13
R352). -/
def Dev.deliver (d : Dev) (n : Nat) (x : Item) (kind : Nat) (bs : List Byte) : Dev :=
  let d1 := (if d.tripped then { d with items := SMap.drop d.items n } else d.sendEnd n x kind bs).pfcGroup x.ring
  if x.jen && x.outstanding then d1.settleChain x.chain else d1

/-- Item n gone once its reply has left (R199). -/
def Dev.dropItem (d : Dev) (n : Nat) : Dev :=
  match d.item? n with
  | none => d
  | some x =>
    let d1 := { d with items := SMap.drop d.items n }
    if x.jen then d1.settleChain x.chain else d1

/-- Item n fails with a code of Table 8.3 and the journal state it has reached (R212). An end that is no OVERRUN breaks a run of them (13
R365 step 1). -/
def Dev.failItem (d : Dev) (n code : Nat) : Dev :=
  match d.item? n with
  | none => d
  | some x =>
    let d1 := d.deliver n x 3 (recordBytes d x 0xF2 code d.mer)
    if code = 2 then d1 else { d1 with qStrike := SMap.put d1.qStrike x.q 0 }

/-- Item n refused with a reason of Table 8.4 (R198, R200, R201). -/
def Dev.refuse (d : Dev) (n : Nat) (x : Item) (reason : Nat) : Dev :=
  let y := { x with cls := d.ctClass x.q }
  let d1 := (d.incRf (grKey (0x180 + 4 * reason)) 0 32 1).incRf (qsKey x.q 12) 0 16 1
  match x.src with
  | .record => { d1.incRf (grKey 0x1C0) 0 32 1 with items := SMap.drop d1.items n }.pfcGroup x.ring
  | .note t => { d1.incRf (rk .dma t 0x130) 0 32 1 with items := SMap.drop d1.items n }.pfcGroup x.ring
  | .port p k hdr =>
    -- a refused item was never admitted: nothing stays reserved for it
    ({ d1 with items := SMap.drop d1.items n }.pushEgress p
      { item := none, kind := k, hdr := hdr, payload := recordBytes d y 0xF1 reason d.mer, refusal := true, record := true }).pfcGroup x.ring
  | _ => d1.deliver n y 2 (recordBytes d y 0xF1 reason d.mer)

/-! ### The decision (R198) -/

/-- Whether a journal chain takes new items: OPEN (09 R253, R254). -/
def Dev.chainOpen (d : Dev) (c : Nat) : Bool := d.chState c == 1

/-- Whether a frond is fenced for service, with no other unfenced frond in the queue's home set (13 R355). -/
def Dev.fencedOut (d : Dev) (q : Nat) : Bool :=
  let fence := d.reg (rk .power 0 0x108)
  let home := d.reg (ctKey q 0x10)
  bit fence (d.qFrond q) && (home &&& ~~~fence) == 0

/-- The first test that refuses item x, in the order of R198's pseudocode; none: it is admitted. -/
def Dev.firstRefusal (d : Dev) (x : Item) : Option Nat :=
  let q := x.q
  let f := d.qFrond q
  let posted := match x.src with
    | .port _ _ _ => false
    | _ => true
  let now := d.mer
  let chg := d.qEbudget q + 416
  let tst := tSt (d.ctPaymax q)
  let dc : Int := (x.tin + d.ctDeadline q : Nat) - (d.tFix q : Int)
  let step := d.admStep
  let more := if (SMap.find? d.migr q).isSome then 16000 else 0
  if d.mode = .drain then some 7
  else if !(d.ctEn q && d.qOpen.contains q && !d.rbit (qsKey q 0) 31 && (!d.ctJen q || d.chainOpen (d.ctChain q))) then some 6
  else if x.plen > d.ctPaymax q then some 10
  else if d.outQ q ≥ d.ctQdepth q then some 5
  else if d.ctRep q ≠ 0 && (d.partners (d.ctRep q)).length < partnersNeeded (d.ctRep q) then some 9
  else if x.roff.isNone then some 11
  else if d.mOf f < 1 || d.fencedOut q then some 8
  else if !chainFits step (d.uOf f) (d.chainOf q + chg + 2 * tst + more) now dc then some 2
  else if !posted && d.clsOf f (d.ctClass q) + chg > 4096 * d.rf (grKey (0x140 + 4 * d.ctClass q)) 0 20 then some 3
  else if (match x.src with
    | .port p _ _ => decide (d.portOut p + d.ctEgrmax q + 24 > d.portCeil p)
    | _ => false) then some 4
  else if !frondFits step (d.mOf f) (d.uOf f) (d.blk f) now (d.charges f) chg (pointEdge now dc) then some 1
  else none

/-- Item n decided (R198): admitted with a copy of its contract (R188), or refused. -/
def Dev.decideItem (d : Dev) (n : Nat) (x : Item) : Dev :=
  let q := x.q
  let f := d.qFrond q
  let d0 := d.settleU f
  match d0.firstRefusal x with
  | some r =>
    let d1 := d0.refuse n x r
    if r = 2 then d1.adaptU f true else if r = 1 then d1.adaptU f false else d1
  | none =>
    let seq := SMap.get 0 d0.qSeq q
    let y : Item := { x with
      phase := .admitted, frond := f, deadline := d0.ctDeadline q, ebudget := d0.qEbudget q
      entry := d0.rf (ctKey q 0xC) 0 16, frame := d0.reg (ctKey q 0x14), cls := d0.ctClass q, jen := d0.ctJen q
      chain := d0.ctChain q, rep := d0.ctRep q, egrmax := d0.ctEgrmax q, chg := d0.qEbudget q + 416, tst := tSt (d0.ctPaymax q)
      dc := (x.tin + d0.ctDeadline q : Nat) - (d0.tFix q : Int), u := d0.uOf f, seq := seq }
    { d0.setItem n y with qSeq := SMap.put d0.qSeq q (seq + 1), qFrame := SMap.put d0.qFrame q y.frame }

/-- The oldest arrived item. -/
def Dev.oldestArrived (d : Dev) : Option (Nat × Item) := (d.itemsWhere (fun x => x.phase == .arrived)).head?

/-! ### Staging (R202) and text reads (R207) -/

/-- The Graticule's own DMA channels (09 R233): staging and egress of thallus t. -/
def stageReq (t : Nat) : Req := ⟨0x400 + 256 * t + 248, .dma, 0, true⟩
/-- The egress channel. -/
def egressReq (t : Nat) : Req := ⟨0x400 + 256 * t + 240, .dma, 0, true⟩

/-- Whether every earlier outstanding item of the queue has been completed and its texts read. -/
def Dev.turnOf (d : Dev) (n q : Nat) : Bool :=
  (d.items.filter (fun e => e.1 < n && e.2.q == q && e.2.outstanding)).all (fun e =>
    match e.2.phase with
    | .texts | .commit | .reply => true
    | _ => false)

/-- The payload of item n copied to its stage area; a failed access ends the item as MACHINE_CHECK (09 R226, 10 R282). -/
def Dev.stage (d : Dev) (n : Nat) (x : Item) : Dev :=
  match x.roff with
  | none => d
  | some o =>
    let t := x.frond / 8
    match d.fabRead (stageReq t) ((Tier.thallus x.ring).base + o) x.plen with
    | (d1, .error _) => d1.failItem n 1
    | (d1, .ok bs) =>
      match d1.fabWrite (stageReq t) (frondBase x.frond + stageOff x.frame) bs with
      | (d2, some _) => d2.failItem n 1
      | (d2, none) => (d2.modItem n (fun y => { y with phase := .ready, roff := none })).pfcGroup x.ring

/-! ### Withdrawal (R173, R176, R213) -/

/-- Whether frond f passes the frond test at every grid point, at a clock step. DEDUCED (log entry 21): the points that hold a charge are
tested, since an empty one has the demand of the charged point below it and more capacity, and below the first there is no demand. -/
def Dev.gridPasses (d : Dev) (f step : Nat) : Bool :=
  let cs := d.charges f
  cs.all (fun c => fits step (d.mOf f) (d.uOf f) (demUpTo cs c.1 + d.blk f) c.1 d.mer)

/-- The charged item of frond f with the latest dc. -/
def Dev.latest (d : Dev) (f : Nat) : Option Nat :=
  ((d.itemsWhere (fun x => x.charged && x.frond == f)).foldl
    (fun (r : Option (Nat × Int)) e => match r with
      | none => some (e.1, e.2.dc)
      | some (n, dc) => if e.2.dc ≥ dc then some (e.1, e.2.dc) else some (n, dc)) none).map (·.1)

/-- Items of frond f completed as MACHINE_CHECK, latest dc first, until the rest pass (R213). -/
def Dev.shed (f : Nat) : Nat → Dev → Dev
  | 0, d => d
  | n + 1, d =>
    if d.mOf f ≥ 1 && d.gridPasses f d.admStep then d
    else match d.latest f with
      | none => d
      | some i => Dev.shed f n (d.failItem i 1)

/-- CAUSE of the record of a mode change (13 Table 13.9) by its MODE_STS.CAUSE: a request for MODE_REQ, ATTN_N and SURVEY, thermal for a
trip; a return or a wake has none of the table's. -/
def modeWhy (cause : Nat) : Nat :=
  match cause with
  | 0 | 1 | 8 => 0x15
  | 4 => 0x12
  | _ => Config.otherCause.toNat

/-- Mode of the device changed, with MODE_STS and a HEALTH record (13 R340, R367); `why`: the record's CAUSE. -/
def Dev.toMode (d : Dev) (m : Mode) (cause : Nat) (why : Nat := modeWhy cause) : Dev :=
  let k := rk .mode 0 0x100
  let old := d.mode
  let d1 := (((({ d with mode := m }).setRf k 24 4 old.code).setRf k 28 4 m.code).setRf k 8 8 cause)
  d1.health 0x10 why 1 0 0 (old.code * 256 + m.code)

/-- Core c withdrawn from the pool: its running item and any item handed to it fail, the frond is tested again when the
withdrawals outnumber the spare, and the device enters DEGRADED from RUN (R173, R176, R213); `why`: the CAUSE of that change's record. -/
def Dev.withdraw (d : Dev) (c why : Nat) : Dev :=
  if !(d.core c).pool then d
  else
    let d1 := d.modCore c (fun x => { x with pool := false, item := none })
    let d2 := (d.itemsWhere (fun x => x.core == some c && (x.phase == .running || x.phase == .handed))).foldl (fun y e => y.failItem e.1 1) d1
    let f := frondOf c
    let d3 := if 8 - d2.poolOf f > d2.spare then Dev.shed f d2.items.length d2 else d2
    let d4 := d3.setRf (rk .mode 0 0x100) 21 1 1
    if d4.mode = .run then d4.toMode .degraded 2 why else d4

/-! ### Completion -/

/-- EBUDGET after an OVERRUN with CT_CTL.RAISE (R216); the 24-bit field holds at its top (log 62). -/
def Dev.raiseBudget (d : Dev) (q : Nat) : Dev :=
  if d.rbit (ctKey q 0) 30 then
    let b := d.ctBudget q
    (d.setRf (qsKey q 4) 0 24 (min (2 ^ 24 - 1) (min (2 * b) (d.qEbudget q + ceilDiv b 8)))).setMaxb (d.qFrond q)
  else d

/-- Item n completed as OVERRUN, with a failure record (R205, R216). -/
def Dev.endOverrun (d : Dev) (n : Nat) : Dev :=
  match d.item? n with
  | none => d
  | some x => (d.failItem n 2).raiseBudget x.q

end Sys2Proof.Machine
end

