-- ==== Sys2Proof/Machine/Time.lean ====
section
/-!
DEFINITION. Time: the fine tick of the admission grid (08 R193, R199, R218, R219), the clock steps (13 R348, R349) and the
passing of 1 fc.
-/
namespace Sys2Proof.Machine

/-! ### Civil time (13 R344) -/

/-- Register of page DATUM. -/
def datKey (off : Nat) : Nat := rk .datum 0 off

/-- A 64-bit value in two registers, low word first. -/
def Dev.reg64 (d : Dev) (k : Nat) : Nat := (d.reg k).toNat + (d.reg (k + 4)).toNat * 2 ^ 32

/-- CIV_OFF, signed. -/
def Dev.civOff (d : Dev) : Int := (BitVec.ofNat 64 (d.reg64 (datKey 0x114))).toInt

/-- Civil time: Meridian plus CIV_OFF. -/
def Dev.civil (d : Dev) : Int := d.mer + d.civOff

/-- The device after civil time has moved on from where `old` had it: whether it has reached a whole second. -/
def Dev.ppsSince (d old : Dev) : Dev :=
  if old.civil / 1_000_000_000 < d.civil / 1_000_000_000 then { d with board := { d.board with ppsAt := some d.mer } } else d

/-- Whether the Datum domain runs: VDD_AON and REFCLK are there (13 R343, 15 R402). -/
def Dev.datumRuns (d : Dev) : Bool := d.board.aon && d.board.refclk

/-! ### Clock steps -/

/-- Whether every item of frond-tested queues passes at a clock step (R219): each frond at every grid point, and each item its
queue test over the items of its queue admitted no later. -/
def Dev.stepFits (d : Dev) (step : Nat) : Bool :=
  (List.range 32).all (fun f => d.gridPasses f step) &&
    (d.itemsWhere Item.charged).all (fun e =>
      let chain := (((d.itemsWhere Item.charged).filter (fun g => g.2.q == e.2.q && g.2.seq ≤ e.2.seq)).map
        (fun g => g.2.chg + 2 * g.2.tst)).sum
      chainFits step (d.uOf e.2.frond) chain d.mer e.2.dc)

/-- Key of CLK_STS. -/
def clkSts : Nat := rk .clocks 0 0x100

/-- CCLK changed to a step on every core (R349); the time for the next step counts from here (log entry 24). -/
def Dev.takeStep (d : Dev) (step : Nat) : Dev :=
  let down := d.rf clkSts 0 3 < step
  let d1 := ((d.setRf clkSts 0 3 step).setRf clkSts 4 3 step).setRf clkSts 8 1 0
  let d2 := if down then d1.incRf (rk .clocks 0 0x108) 0 8 1 else d1
  ({ d2 with hotSince := d2.hotSince.map (fun _ => d.mer), coolSince := d2.coolSince.map (fun _ => d.mer) }).health 0x11 0x12 1 1 0

/-- The clock step that a fine tick makes: a pending step down that fits, or a step up (R348, R219). In SAFE, and in a SURVEY
entered from it, CCLK is gated. -/
def Dev.clockStep (d : Dev) : Dev :=
  let target := d.rf clkSts 4 3
  let step := d.rf clkSts 0 3
  if d.baseMode = .safe then d
  else if d.rbit clkSts 8 then (if d.stepFits target then d.takeStep target else d)
  else match d.coolSince with
    | some t => if step > 0 && d.mer ≥ t + 100_000_000 then d.takeStep (step - 1) else d
    | none => d

/-! ### The fine tick -/

/-- Tokens given back to each port's meter (R193): RATE in a µs. -/
def Dev.refillMeters (d : Dev) : Dev :=
  { d with rzUsed := d.rzUsed.map (fun e => (e.1, e.2 - d.rf (rk .rz 0 (0x140 + 4 * e.1)) 0 8)) }

/-- Migrations whose time is over end (R218). -/
def Dev.endMigrations (d : Dev) : Dev :=
  let (gone, left) := List.partition (fun (e : Nat × Nat) => decide (e.2 ≤ d.mer)) d.migr
  gone.foldl (fun y e => y.setRf (qsKey e.1 0) 30 1 0) { d with migr := left }

/-- Whether a register key is some queue's GRAT_QSTAT3. -/
def isQstat3 (k : Nat) : Bool := 0x10_0000 ≤ k && k < 0x18_0000 && 0x100 ≤ k % 4096 && k % 4096 < 0x500 && k % 16 == 12

/-- GRAT_QSTAT3.RATE of every queue taken from the arrivals of the millisecond that has ended (log entry 25). -/
def Dev.takeRates (d : Dev) : Dev :=
  let d1 := { d with regs := d.regs.map (fun e => if isQstat3 e.1 then (e.1, setFld e.2 16 16 0) else e), qArr := [] }
  d.qArr.foldl (fun y e => y.setRf (qsKey e.1 12) 16 16 (min e.2 65535)) d1

/-- What happens at a fine tick, Meridian standing at it. -/
def Dev.microTick (d : Dev) : Dev :=
  let d1 := (d.refillMeters.endMigrations).clockStep
  if d1.mer % 1_000_000 = 0 then d1.takeRates else d1

/-- A tick of DATUM: Meridian 1,000 higher (00 R9). -/
def Dev.datumTick (d : Dev) : Dev := { d with mer := d.mer + 1000 }.ppsSince d

/-- The fine tick: Meridian at the next whole µs (R199, R8, R9). In DATUM the grid does not run, and without VDD_AON or REFCLK
nothing does. -/
def Dev.fineTick (d : Dev) : Dev :=
  if !d.datumRuns then d
  else if d.mode = .datum then d.datumTick
  else ({ d with mer := (d.mer / 1000 + 1) * 1000 }.ppsSince d).microTick

/-- The passing of 1 fc, or of a tick in DATUM (R9). -/
def Dev.pass1 (d : Dev) : Dev :=
  if !d.datumRuns then d
  else if d.mode = .datum then d.datumTick
  else if (d.mer + 1) % 1000 = 0 then d.fineTick
  else { d with mer := d.mer + 1 }.ppsSince d

end Sys2Proof.Machine
end

