-- ==== Sys2Proof/Machine/Cairn.lean ====
section
/-!
DEFINITION. Cairn (09 R248 to R257) and the ring's commits (12 R321 to R325): records and rings, sealing, opening a chain,
checkpoint sets, the host stream, replicas, and the end of an item.
-/
namespace Sys2Proof.Machine

/-! ### Identity (14 R379) -/

/-- The 48 seed bytes of the identity key pair. -/
def idSeed : BitVec 384 :=
  BitVec.ofNat 384 (ofBytes (hkdf256 (toBytes 32 Config.idSeed.toNat) [] ("AKV-ID-128F".toList.map (fun ch => BitVec.ofNat 8 ch.toNat)) 48))

/-- The identity key pair, of SLH-DSA-SHA2-128f. -/
def idKey : SlhKey := slhKeyOf (toBytes 48 idSeed.toNat)

/-- PKHASH. -/
@[irreducible] def pkHash : List Byte := sha256 (slh128f.publicKey idKey)

/-- The identity key's signature of a message, 17,088 bytes. -/
@[irreducible] def idSign (m : List Byte) : List Byte := padTo 17088 (slh128f.sign idKey m)

/-! ### Rings of records (R250) -/

/-- Cairn as a master (10 Table 10.1). -/
def cairnReq : Req := ⟨0x210, .cairn, 0, true⟩

/-- Bytes written to the deep store by Cairn; false: the write failed (R282). -/
def Dev.cairnWrite (d : Dev) (a : Nat) (bs : List Byte) : Dev × Bool :=
  match d.rangeFault a bs.length with
  | some _ => (d, false)
  | none =>
    match d.fabWrite cairnReq a bs with
    | (d1, some _) => (d1, false)
    | (d1, none) => (d1, true)

/-- A pad record counting `n` bytes. -/
def padRecord (n : Nat) : List Byte := toBytes 2 0x5041 ++ zeros 6 ++ toBytes 8 n ++ zeros 48

/-- Where a record of `len` bytes goes in a ring of `size` bytes written up to `wr`: the bytes a pad record covers, and the
record's offset. -/
def ringPlace (size wr len : Nat) : Nat × Nat :=
  if wr = size then (0, 0) else if wr + len > size then (size - wr, 0) else (0, wr)

/-- Ring bytes a record takes, pad included. -/
def ringNeed (size wr len : Nat) : Nat := (ringPlace size wr len).1 + len

/-- A record written to a ring at physical address `base`, with its pad: the new write offset. -/
def Dev.ringWrite (d : Dev) (base size wr : Nat) (bs : List Byte) : Dev × Option Nat :=
  let (pad, off) := ringPlace size wr bs.length
  let (d1, ok) := if pad = 0 then (d, true) else d.cairnWrite (base + wr) (padRecord pad)
  if !ok then (d1, none)
  else
    match d1.cairnWrite (base + off) bs with
    | (d2, true) => (d2, some (if off + bs.length = size then 0 else off + bs.length))
    | (d2, false) => (d2, none)

/-- The `n` bytes last written to a ring read back (R252, 12 R322 step 4): whether they could be read. -/
def Dev.ringBack (d : Dev) (base size wr n : Nat) : Dev × Bool :=
  match d.fabRead cairnReq (base + (if wr = 0 then size else wr) - n) n with
  | (d1, .ok _) => (d1, true)
  | (d1, .error _) => (d1, false)

/-- Bytes padded with zeros to a multiple of 64. -/
def pad64 (bs : List Byte) : List Byte := padTo (ceilDiv bs.length 64 * 64) bs

/-! ### Entries (Table 9.9) -/

/-- Header J(n). -/
def entryHeader (magic chain dev q tlen seq tin tseal : Nat) (digest : List Byte) : List Byte :=
  toBytes 2 magic ++ toBytes 1 chain ++ toBytes 1 dev ++ toBytes 2 q ++ toBytes 2 tlen ++ toBytes 8 seq ++ toBytes 8 tin ++
    toBytes 8 tseal ++ digest

/-- The record of an entry: header, padded text, trailer. -/
def entryRecord (j text h : List Byte) (seq : Nat) : List Byte := j ++ pad64 text ++ (h ++ toBytes 8 seq ++ zeros 24)

/-- SEQ of chain c. -/
def Dev.chSeq (d : Dev) (c : Nat) : Nat := (d.reg (chKey c 0x14)).toNat + (d.reg (chKey c 0x18)).toNat * 2 ^ 32

/-- SEQ of chain c set. -/
def Dev.setSeq (d : Dev) (c n : Nat) : Dev := (d.setReg (chKey c 0x14) (BitVec.ofNat 32 n)).setReg (chKey c 0x18) (BitVec.ofNat 32 (n / 2 ^ 32))

/-- Physical address of chain c's ring. -/
def Dev.chBase (d : Dev) (c : Nat) : Nat := d.rf (chKey c 4) 0 22 * 4096

/-- CAIRN_CHCFG.STREAM. -/
def Dev.chStream (d : Dev) (c : Nat) : Bool := d.rbit (chKey c 0) 30

/-! ### The host stream (R257, 12 R332) -/

/-- Key of a CAIRN register. -/
def caKey (off : Nat) : Nat := rk .cairn 0 off

/-- Bytes of the stream ring; 0: none set. -/
def Dev.hsSize (d : Dev) : Nat := let l := d.rf (caKey 0x128) 0 5; if 16 ≤ l ∧ l ≤ 30 then 2 ^ l else 0

/-- Bytes written to the host in writes of at most Max_Payload_Size (12 R332). -/
def Dev.hostWrites : Nat → Nat → List Byte → Dev → Dev
  | 0, _, _, d => d
  | n + 1, a, bs, d =>
    if bs.isEmpty then d
    else (d.emit (.hostWrite a (bs.take (max 1 d.pci.mps)))).hostWrites n (a + max 1 d.pci.mps) (bs.drop (max 1 d.pci.mps))

/-- A record written to the stream ring at CAIRN_HS_HEAD, going on at the ring's start where it reaches its end, and the read of its last
aligned word issued (12 R332). -/
def Dev.hostRecord (d : Dev) (bs : List Byte) : Dev :=
  let base := (d.reg (caKey 0x120)).toNat + (d.reg (caKey 0x124)).toNat * 2 ^ 32
  let head := (d.reg (caKey 0x12C)).toNat
  let k := d.hsSize - head
  let d1 := d.hostWrites bs.length (base + head) (bs.take k)
  let d2 := (d1.hostWrites bs.length base (bs.drop k)).emit (.hostReadReq (base + (head + bs.length - 4) % d.hsSize) 4)
  d2.setReg (caKey 0x12C) (BitVec.ofNat 32 ((head + bs.length) % d.hsSize))

/-- Stream records written, oldest first, while the link is up, the stream runs and the ring has room. DESIGN CHOICE (log entry 72): a record that
would fill the ring has none. -/
def Dev.pumpStream : Nat → Dev → Dev
  | 0, d => d
  | n + 1, d =>
    match d.cairn.stream.findIdx? (fun r => !r.written) with
    | none => d
    | some i =>
      match d.cairn.stream[i]? with
      | none => d
      | some r =>
        let free := ringFree d.hsSize (d.reg (caKey 0x12C)).toNat (d.reg (caKey 0x130)).toNat
        if d.pci.up && !d.pci.d3 && !d.cairn.streamStop && r.bytes.length < free then
          Dev.pumpStream n (({ d with cairn := { d.cairn with stream := d.cairn.stream.set i { r with written := true } } }).hostRecord r.bytes)
        else d

/-- The stream pumped. -/
def Dev.pump (d : Dev) : Dev := Dev.pumpStream d.cairn.stream.length d

/-- A record put into the stream. -/
def Dev.streamOut (d : Dev) (chain : Option (Nat × Nat)) (bs : List Byte) : Dev :=
  ({ d with cairn := { d.cairn with stream := d.cairn.stream ++ [SRec.mk chain bs false] } }).pump

/-- CH_CONS of chain c set, and the chain's state brought up to date. -/
def Dev.setCons (d : Dev) (c v : Nat) : Dev := (d.setReg (chKey c 0x10) (BitVec.ofNat 32 v)).settleChain c

/-- The oldest record's read-back completes: CH_CONS passes it. -/
def Dev.streamBack (d : Dev) : Dev :=
  match d.cairn.stream with
  | r :: t =>
    if !r.written || d.cairn.streamStop then d
    else
      let d1 := { d with cairn := { d.cairn with stream := t } }
      let d2 := match r.chain with
        | some (c, v) => d1.setCons c v
        | none => d1
      d2.pump
  | [] => d

/-! ### Ending an item (08 R207 step 5) -/

/-- Item n sends its reply: the egress text, or a completion record (08 R205, R207). -/
def Dev.finish (d : Dev) (n : Nat) : Dev :=
  match d.item? n with
  | none => d
  | some x =>
    if bit x.done 63 then d.deliver n x 0 x.egr
    else d.deliver n x 1 (recordBytes d x 0xF0 (fld x.done 52 8) x.tevt)

/-! ### Commits (12 R321 to R324) -/

/-- A commit message's pieces of at most 240 bytes. -/
def msgParts : Nat → List Byte → List (List Byte)
  | 0, _ => []
  | n + 1, bs => if bs.isEmpty then [] else bs.take 240 :: msgParts n (bs.drop 240)

/-- The payloads of the CMSG flits of a commit message (Table 12.4). -/
def commitParts (chain seq : Nat) (msg : List Byte) : List (List Byte) :=
  let ps := msgParts 5 msg
  ps.zipIdx.map (fun e => toBytes 1 chain ++ toBytes 1 (e.2 * 16 + ps.length) ++ toBytes 2 seq ++ e.1)

/-- A commit message sent to one partner, part by part. -/
def Dev.sendCommit (d : Dev) (chain seq : Nat) (msg : List Byte) (t : Nat) : Dev :=
  (commitParts chain seq msg).foldl (fun y p => y.sendTo t 0x50 p) d

/-- Whether an open commit is replicated (R324): as many partners as it uses have answered OK and are still live, whether or not they are
still the first. -/
def commitDone (d : Dev) (x : Item) : Bool := decide (partnersNeeded x.rep ≤ (x.oks.filter (d.liveIn x.mem)).length)

/-- Item n's commit brought up to date: done when every partner has answered, else sent to each partner it has not gone to
(R324), its members being those of its beginning (R325); `moved`: a sending after the first is counted. -/
def Dev.pushCommit (d : Dev) (n : Nat) (moved : Bool) : Dev :=
  match d.item? n with
  | none => d
  | some x =>
    if x.phase != .commit then d
    else if commitDone d x then (d.modItem n (fun y => { y with jstate := 2 })).finish n
    else
      let new := (d.partnersIn x.mem x.rep).filter (fun t => !x.parts.contains t && !x.oks.contains t)
      let d1 := if moved && !new.isEmpty then d.incRf (ukKey 0x214) 0 32 1 else d
      new.foldl (fun y t => y.sendCommit x.chain x.jseq x.msg t) (d1.modItem n (fun y => { y with parts := y.parts ++ new }))

/-- Every open commit brought up to date after a change of the ring (R324): partners no longer live are forgotten. -/
def Dev.pushCommits (d : Dev) : Dev :=
  let d1 := { d with items := List.map (fun (e : Nat × Item) =>
    if e.2.phase == Phase.commit then (e.1, { e.2 with parts := e.2.parts.filter (d.liveIn e.2.mem), oks := e.2.oks.filter (d.liveIn e.2.mem) }) else e) d.items }
  (d1.itemsWhere (fun x => x.phase == Phase.commit)).foldl (fun y e => y.pushCommit e.1 true) d1

/-- A commit acknowledgement from partner t (R324), counted in UK_CNT when it is BADHASH (3) or FULL (4), or comes after the
end (LATE, 2). -/
def Dev.commitAck (d : Dev) (t chain status seq : Nat) : Dev :=
  match (d.itemsWhere (fun x => x.phase == .commit && x.chain == chain && x.jseq == seq)).head? with
  | none => d.incRf (ukKey 0x208) 0 32 1
  | some (n, x) =>
    match status with
    | 0 => if d.liveIn x.mem t then (d.modItem n (fun y => { y with oks := t :: y.oks.filter (· != t) })).pushCommit n true else d
    | 1 => d.incRf (ukKey 0x20C) 0 32 1
    | 2 => d.incRf (ukKey 0x210) 0 32 1
    | _ => d

/-- The commit timer of item n ends, once its time has come (R324, 08 R214). -/
def Dev.commitTimeout (d : Dev) (n : Nat) : Dev :=
  match d.item? n with
  | some x => if x.phase == .commit && x.tcommit ≤ d.mer then d.failItem n 3 else d
  | none => d

/-! ### Sealing (R248 to R253) -/

/-- Item x journals on chain c and has no sealed entry: it is lost to a fault of the chain's journal, whatever becomes of the chain. -/
def Item.loseChain (x : Item) (c : Nat) : Item := if x.jen && x.chain == c && x.phase != .commit then { x with jlost := true } else x

/-- A failed write of chain c's journal (10 R282): the chain OFF with CERR, and every item that has completed with JRN 1 on it and is not sealed
ends as MACHINE_CHECK; one that has not yet completed does so when it comes to be sealed. -/
def Dev.chainFault (d : Dev) (c : Nat) : Dev :=
  let d0 := (d.setRf (chKey c 0x1C) 0 2 0).setRf (chKey c 0x1C) 31 1 1
  let d1 := { d0 with items := List.map (fun (e : Nat × Item) => (e.1, e.2.loseChain c)) d0.items }
  (d1.itemsWhere (fun x => x.jen && x.chain == c && !x.overrun && bit x.done 62 && (x.phase == .done || x.phase == .texts))).foldl
    (fun y e => y.failItem e.1 1) d1

/-- Whether item n is the next of its chain to be sealed (R251). -/
def Dev.sealNext (d : Dev) (n : Nat) (x : Item) : Bool :=
  (d.items.filter (fun e => e.1 != n && e.2.phase == .texts && e.2.chain == x.chain)).all (fun e => x.order < e.2.order)

/-- Item n's entry sealed on its chain (R248, R250, R252), then committed or answered. DESIGN CHOICE (log entry 72): a record that cannot be read
back is a fault of the journal, as one that cannot be written is. -/
def Dev.sealItem (d : Dev) (n : Nat) (x : Item) : Dev :=
  let c := x.chain
  let ch := d.chain c
  let seq := d.chSeq c + 1
  let j := entryHeader 0x4A45 c d.pos x.q x.jtext.length seq x.tin d.mer (sha256 x.jtext)
  let h := sha256 (ch.h ++ j)
  let rec_ := entryRecord j x.jtext h seq
  if d.chState c = 0 || x.jlost then d.failItem n 1
  else
    match d.ringWrite (d.chBase c) (d.chSize c) (d.chWr c) rec_ with
    | (d1, none) => d1.chainFault c
    | (d0, some wr) =>
      let (d1, back) := d0.ringBack (d.chBase c) (d.chSize c) wr rec_.length
      if !back then d1.chainFault c
      else
        let d2 := ((d1.setReg (chKey c 0xC) (BitVec.ofNat 32 wr)).setSeq c seq).setChain c { ch with h := h, tseal := d.mer, fresh := true }
        let d3 := d2.modItem n (fun y => { y with jstate := 1, phase := .commit, jseq := seq, msg := ch.h ++ rec_, parts := [], oks := [], mem := d.ukMembers
                                                  tcommit := d.mer + tR x.rep })
        let d4 := (if d3.chStream c then d3.streamOut (some (c, wr)) rec_ else d3).settleChain c
        if x.rep = 0 then d4.finish n else d4.pushCommit n false

/-! ### Opening and closing a chain (R249, R254) -/

/-- The range of chain c's ring lies in the deep store, and no other open ring overlaps it. -/
def Dev.ringFree? (d : Dev) (c : Nat) : Bool :=
  let b := d.chBase c
  let e := b + d.chSize c
  decide (b < e ∧ e ≤ 0x4_0000_0000) &&
    (List.range 64).all (fun o => o == c || d.chState o == 0 || decide (d.chBase o + d.chSize o ≤ b ∨ e ≤ d.chBase o))

/-- CERR set on a chain that stays OFF. -/
def Dev.chRefused (d : Dev) (c : Nat) : Dev := (d.setRf (chKey c 0x1C) 0 2 0).setRf (chKey c 0x1C) 31 1 1

/-- Chain c opens with a genesis made from its anchor, or stays OFF with CERR (R249, R254); its last checkpoint, or, where it has had none, its
first opening is what CKINT counts from (R256; log entry 72), and a CK_NOW that is pending stays so; a time-out of the anchor's read comes as a
command before (log entry 69). -/
def Dev.openChain (d : Dev) (c : Nat) : Dev :=
  let late := d.cairn.anchorOut.any (fun a => d.chBase c ≤ a && a < d.chBase c + 32)
  if !d.ringFree? c then d.chRefused c
  else if late then ({ d with cairn := { d.cairn with anchorOut := d.cairn.anchorOut.filter (fun a => !(d.chBase c ≤ a && a < d.chBase c + 32)) } }).chRefused c
  else
    match d.rangeFault (d.chBase c) 32, d.fabRead cairnReq (d.chBase c) 32 with
    | some _, _ => d.chRefused c
    | none, (d1, .error _) => d1.chRefused c
    | none, (d1, .ok anchor) =>
      let j := entryHeader 0x4745 c d.pos 0 0 0 0 d.mer anchor
      let h := sha256 j
      match d1.cairnWrite (d.chBase c) (entryRecord j [] h 0) with
      | (d2, false) => d2.chRefused c
      | (d2, true) =>
        let d3 := (((d2.setReg (chKey c 0xC) 128).setReg (chKey c 0x10) 0).setSeq c 0).setReg (chKey c 0x1C) 1
        let from_ := if (d3.chain c).lastCk = 0 then d.mer else (d3.chain c).lastCk
        let d4 := d3.setChain c { d3.chain c with h := h, tseal := d.mer, fresh := true, lastCk := from_, drained := false }
        (if d4.chStream c then d4.streamOut (some (c, 128)) (entryRecord j [] h 0) else d4).settleChain c

/-- Chain c closes: CLOSING, then OFF once no entry is outstanding (R254). -/
def Dev.closeChain (d : Dev) (c : Nat) : Dev :=
  if d.chState c = 0 then d else (d.setRf (chKey c 0x1C) 0 2 3).settleChain c

/-! ### Checkpoint sets (R255, R256) -/

/-- Chains that the next set takes. -/
def Dev.ckDue (d : Dev) : List Nat :=
  (List.range 64).filter (fun c =>
    let ch := d.chain c
    let iv := d.rf (chKey c 0) 0 16
    ch.want || (iv != 0 && ch.fresh && decide (ch.lastCk + iv * 1_000_000 ≤ d.mer)))

/-- Bytes of the checkpoint ring. -/
def Dev.ckSize (d : Dev) : Nat := d.rf (caKey 0x114) 0 16 * 65536

/-- MCOUNT. -/
def Dev.mcount (d : Dev) : Nat := (d.reg (caKey 0x108)).toNat + (d.reg (caKey 0x10C)).toNat * 2 ^ 32

/-- Item of a checkpoint set (Table 9.10). -/
def ckItem (d : Dev) (c : Nat) : List Byte :=
  toBytes 1 c ++ toBytes 1 d.pos ++ zeros 6 ++ toBytes 8 (d.chSeq c) ++ toBytes 8 (d.chain c).tseal ++ (d.chain c).h ++ zeros 8

/-- Header of a set. -/
def ckHeader (d : Dev) (k : Nat) (final : Bool) (mcount : Nat) : List Byte :=
  toBytes 2 0x434B ++ toBytes 2 k ++ toBytes 4 (b2n final) ++ toBytes 8 mcount ++ toBytes 8 d.mer ++ pkHash ++ zeros 8

/-- A checkpoint set started (R256): nothing while another is being signed, within 40 ms of the last, with no chain due, or
with no ring; CKFULL when the ring lacks room. DESIGN CHOICE (log entry 72): a set that would fill the ring has none. -/
def Dev.startCk (d : Dev) (final : Bool) : Dev :=
  let cs := d.ckDue
  let len := 64 + 64 * cs.length + 17088
  let wr := (d.reg (caKey 0x118)).toNat
  let late := match d.cairn.ckLast with
    | some t => decide (t + 40_000_000 ≤ d.mer)
    | none => true
  if d.cairn.ckpt.isSome || !late || cs.isEmpty || d.ckSize = 0 then d
  else if ringNeed d.ckSize wr len ≥ ringFree d.ckSize wr (d.reg (caKey 0x11C)).toNat then d.setRf (caKey 0x104) 31 1 1
  else
    let m := d.mcount + 1
    let d1 := ((d.setReg (caKey 0x108) (BitVec.ofNat 32 m)).setReg (caKey 0x10C) (BitVec.ofNat 32 (m / 2 ^ 32))).setRf (caKey 0x104) 31 1 0
    let body := ckHeader d cs.length final m ++ cs.flatMap (ckItem d)
    let d2 := cs.foldl (fun y c => y.setChain c { y.chain c with fresh := false, want := false, lastCk := d.mer }) d1
    { d2 with cairn := { d2.cairn with ckpt := some body, ckLast := some d.mer } }

/-- The set's signature ends: the set written to the checkpoint ring, and streamed (R255, R257). -/
def Dev.endCk (d : Dev) : Dev :=
  match d.cairn.ckpt with
  | none => d
  | some body =>
    let bs := body ++ idSign body
    let d1 := { d with cairn := { d.cairn with ckpt := none } }
    match d1.ringWrite (d.rf (caKey 0x110) 0 22 * 4096) d.ckSize (d.reg (caKey 0x118)).toNat bs with
    | (d2, none) => d2
    | (d2, some wr) =>
      let d3 := (d2.setReg (caKey 0x118) (BitVec.ofNat 32 wr)).incRf (caKey 0x104) 0 16 1
      if d3.rbit (caKey 0x100) 1 then d3.streamOut none bs else d3

/-! ### Replicas (12 R322) -/

/-- Key of a replica-ring register of device t: 0 base, 4 size, 8 write, 12 consume. -/
def repKey (t off : Nat) : Nat := ukKey (0x180 + 16 * t + off)

/-- A commit acknowledgement sent to a home device. -/
def Dev.sendAck (d : Dev) (t chain status seq : Nat) : Dev :=
  d.sendTo t 0x51 (toBytes 1 chain ++ toBytes 1 status ++ zeros 2 ++ toBytes 8 seq)

/-- The RUN record of an entry (R322). -/
def runRecord (dev chain seq : Nat) (h : List Byte) : List Byte :=
  toBytes 2 0x5255 ++ toBytes 1 dev ++ toBytes 1 chain ++ zeros 4 ++ toBytes 8 seq ++ h ++ zeros 16

/-- The records of an entry written to a home device's replica ring; none: they could not be. -/
def Dev.writeReplica (d : Dev) (t : Nat) : List (List Byte) → Dev × Bool
  | [] => (d, true)
  | r :: rs =>
    match d.ringWrite (d.rf (repKey t 0) 0 22 * 4096) (d.rf (repKey t 4) 0 16 * 65536) (d.reg (repKey t 8)).toNat r with
    | (d1, none) => (d1, false)
    | (d1, some wr) => (d1.setReg (repKey t 8) (BitVec.ofNat 32 wr)).writeReplica t rs

/-- The record of `n` bytes last written to a home device's replica ring read back (R322 step 4): whether it could be read. -/
def Dev.readReplica (d : Dev) (t n : Nat) : Dev × Bool :=
  d.ringBack (d.rf (repKey t 0) 0 22 * 4096) (d.rf (repKey t 4) 0 16 * 65536) (d.reg (repKey t 8)).toNat n

/-- Ring bytes the records take. -/
def replicaNeed (size : Nat) : Nat → List (List Byte) → Nat
  | _, [] => 0
  | wr, r :: rs =>
    let (pad, off) := ringPlace size wr r.length
    pad + r.length + replicaNeed size (if off + r.length = size then 0 else off + r.length) rs

/-- A commit message from device t (R322); a replica ring of SIZE 0 is none, and answers FULL. DESIGN CHOICE (log entry 72): a member's hashes are looked
at before the room for it; where the record cannot be written or read back, no CACK is sent. -/
def Dev.takeCommit (d : Dev) (t : Nat) (msg : List Byte) : Dev :=
  let hp := slice msg 0 32
  let j := slice msg 32 64
  let chain := beAt j 2 1
  let tlen := beAt j 6 2
  let seq := beAt j 8 8
  let text := slice msg 96 tlen
  let h := sha256 (hp ++ j)
  let key := 64 * t + chain % 64
  let held := SMap.get [] d.cairn.reps key
  let size := d.rf (repKey t 4) 0 16 * 65536
  if !d.rbit (ukKey 0x108) t then d.sendAck t chain 3 seq
  else if sha256 text != slice j 32 32 || slice msg (96 + ceilDiv tlen 64 * 64) 32 != h then d.sendAck t chain 1 seq
  else if size ≠ 0 && held.contains (seq, h) then d.sendAck t chain 0 seq
  else
    let run := match held with
      | [] => [runRecord t chain seq hp]
      | e :: _ => if e.2 = hp then [] else [runRecord t chain seq hp]
    let recs := run ++ [slice msg 32 (msg.length - 32)]
    let wr := (d.reg (repKey t 8)).toNat
    if size = 0 || replicaNeed size wr recs ≥ ringFree size wr (d.reg (repKey t 12)).toNat then
      ({ d with uk := { d.uk with fullFor := d.uk.fullFor ||| BitVec.ofNat 8 (2 ^ t) } }).sendAck t chain 2 seq
    else
      match d.writeReplica t recs with
      | (d1, false) => d1
      | (d1, true) =>
        match d1.readReplica t (msg.length - 32) with
        | (d2, false) => d2
        | (d2, true) => ({ d2 with cairn := { d2.cairn with reps := SMap.put d2.cairn.reps key ((seq, h) :: held) } }).sendAck t chain 0 seq

end Sys2Proof.Machine
end

