-- ==== Sys2Proof/Machine/Frames.lean ====
section
/-!
DEFINITION. Ethernet and Rhizoid (12 R306 to R315; 08 R191 to R194): what the MAC drops, classification, and the frames the
device sends.
-/
namespace Sys2Proof.Machine

/-! ### Ports -/

/-- A MAC counter advanced. -/
def Dev.macCount (d : Dev) (p i : Nat) : Dev := d.incRf (macKey p (0x140 + 4 * i)) 0 32 1

/-! ### Frames as received (12 R309) -/

/-- A frame without its FCS, cut at its headers. -/
structure Eth where
  da : Nat
  /-- tag control information of the one VLAN tag accepted -/
  vlan : Option Nat
  etype : Nat
  /-- where the MAC client data begin -/
  off : Nat
  data : List Byte
  deriving DecidableEq, Repr

/-- A frame parsed: one 802.1Q tag of TPID 0x8100 is taken off. -/
def parseEth (f : List Byte) : Eth :=
  let v := beAt f 12 2 == 0x8100
  let off := if v then 18 else 14
  ⟨beAt f 0 6, if v then some (beAt f 14 2) else none, beAt f (off - 2) 2, off, f.drop off⟩

/-- Whether a type is a VLAN tag's. -/
def isTpid (t : Nat) : Bool := t == 0x8100 || t == 0x88A8

/-- Whether a second VLAN tag follows the first, which is the one taken off or stands, under TPID 0x88A8, where the type is. -/
def Eth.tagAfter (e : Eth) : Bool := (e.vlan.isSome && isTpid e.etype) || (isTpid e.etype && isTpid (beAt e.data 2 2))

/-- MAC_CNT index of the counter of a frame the MAC drops; none: it passes (R309). -/
def Dev.macDrop (d : Dev) (p : Nat) (e : Eth) (fcsGood : Bool) : Option Nat :=
  let own := d.rf (macKey p 0x108) 0 16 * 2 ^ 32 + (d.reg (macKey p 0x104)).toNat
  let mcast := e.da / 2 ^ 40 % 2 == 1
  if !fcsGood then some 1
  else if e.data.length > 9216 then some 2
  else if e.tagAfter then some 3
  else if e.etype == 0x0800 && beAt e.data 6 2 % 0x4000 != 0 then some 4
  else if e.etype == 0x8808 && (beAt e.data 0 2 == 1 || beAt e.data 0 2 == 0x101) then some 5
  else if e.da == own || e.da == 2 ^ 48 - 1 || (mcast && d.rbit (macKey p 0x100) 30) then none
  else some 6

/-! ### IP and UDP -/

/-- IPv6 extension headers. -/
def isExtHeader (n : Nat) : Bool := [0, 43, 44, 50, 51, 60, 135, 139, 140, 253, 254].contains n

/-- What a frame is to Rhizoid's rules. -/
structure IpView where
  /-- 0 raw, 1 UDP over IPv4, 2 UDP over IPv6 -/
  kind : Nat
  /-- the checksums that it has match -/
  sumOk : Bool
  ext : Bool
  /-- UDP destination port -/
  port : Nat
  /-- offset of the UDP payload in the MAC client data, and its length -/
  uoff : Nat
  ulen : Nat
  deriving DecidableEq, Repr

/-- A UDP datagram at offset `o` of the data, with its pseudo-header: checksum of 0 over IPv4 means none was sent. -/
def udpView (kind : Nat) (data : List Byte) (o : Nat) (pseudo : List Byte) (ipOk : Bool) : IpView :=
  let len := beAt data (o + 4) 2
  let sum := beAt data (o + 6) 2
  let ok := (kind == 1 && sum == 0) || inetSum (pseudo ++ slice data o len) == 0
  ⟨kind, ipOk && ok, false, beAt data (o + 2) 2, o + 8, len - 8⟩

/-- The IP view of a frame. -/
def ipView (e : Eth) : IpView :=
  let b := e.data
  if e.etype = 0x0800 then
    let ihl := beAt b 0 1 % 16 * 4
    let ok := inetSum (slice b 0 ihl) == 0
    if beAt b 9 1 = 17 then udpView 1 b ihl (slice b 12 8 ++ [0, 17] ++ slice b (ihl + 4) 2) ok
    else ⟨0, ok, false, 0, 0, 0⟩
  else if e.etype = 0x86DD then
    let nh := beAt b 6 1
    if isExtHeader nh then ⟨0, true, true, 0, 0, 0⟩
    else if nh = 17 then udpView 2 b 40 (slice b 8 32 ++ [0, 0] ++ slice b 44 2 ++ [0, 0, 0, 17]) true
    else ⟨0, true, false, 0, 0, 0⟩
  else ⟨0, true, false, 0, 0, 0⟩

/-! ### Rhizoid (08 R192) -/

/-- Word w of RZ_RULE[n]. -/
def Dev.rule (d : Dev) (n w : Nat) : W32 := d.reg (rk .rzRules 0 (0x100 + 16 * n + 4 * w))

/-- Whether an enabled rule takes a frame of port p. -/
def Dev.ruleHolds (d : Dev) (p : Nat) (e : Eth) (v : IpView) (n : Nat) : Bool :=
  let w := d.rule n 0
  let kind := fld w 28 2
  let key := fld (d.rule n 1) 16 16
  bit w 31 && bit w p && (if kind = 0 then e.etype == key else kind == v.kind && v.port == key) &&
    (!bit w 30 || e.vlan.any (fun t => t % 4096 == fld w 16 12))

/-- What Rhizoid makes of a frame: queue, payload, kind, bytes before the payload, ITAG, and whether it is an exception item. -/
structure Classified where
  q : Nat
  kind : Nat
  hdr : List Byte
  payload : List Byte
  itag : W64
  exq : Bool
  deriving DecidableEq, Repr

/-- Eight bytes at an offset of a payload, beyond it zero. -/
def tagAt (bs : List Byte) (off : Nat) : W64 := BitVec.ofNat 64 (ofBytes (padTo 8 (bs.drop off)))

/-- A frame classified (R192). -/
def Dev.classify (d : Dev) (p : Nat) (frame : List Byte) : Classified :=
  let e := parseEth frame
  let v := ipView e
  let exq := d.rf (rk .rz 0 0x100) 16 13
  match (if v.ext then none else (List.range 128).find? (d.ruleHolds p e v)) with
  | none => ⟨exq, 0, frame.take e.off, e.data, tagAt e.data 0, true⟩
  | some n =>
    let kind := fld (d.rule n 0) 28 2
    let hoff := if kind = 0 then e.off else e.off + v.uoff
    let pl := if kind = 0 then e.data else slice e.data v.uoff v.ulen
    let w2 := d.rule n 2
    let w3 := d.rule n 3
    let foff := fld w2 9 9
    let q := fld w2 19 13 + ((beAt pl foff 2 / 2 ^ fld w3 16 4) &&& fld w3 0 13)
    let bad := foff + 2 > pl.length || q > 8191
    ⟨if bad then exq else q, kind, frame.take hoff, pl, tagAt pl (fld w2 0 9), bad⟩

/-- A token of port p's meter taken; none: there is none (R193). -/
def Dev.takeToken (d : Dev) (p : Nat) : Option Dev :=
  let used := SMap.get 0 d.rzUsed p
  if used < d.rf (rk .rz 0 (0x140 + 4 * p)) 16 8 then some { d with rzUsed := SMap.put d.rzUsed p (used + 1) } else none

/-- A frame classified and made an item, or dropped by a checksum, the meter or a denied ring write (R192 to R194, 10 R282). -/
def Dev.rhizoid (d : Dev) (p : Nat) (frame : List Byte) : Dev :=
  if !(ipView (parseEth frame)).sumOk then d.incRf (rk .rz 0 0x1C0) 0 32 1
  else
    let k := d.classify p frame
    match d.takeToken p with
    | none => d.incRf (rk .rz 0 (0x180 + 4 * p)) 0 32 1
    | some d1 =>
      match d1.arrive { q := k.q, src := .port p k.kind k.hdr, tin := d.mer, itag := k.itag, plen := k.payload.length, exq := k.exq
                        head := padTo 10 (k.payload.drop 6), ring := p / 4, roff := none } k.payload with
      | (d2, true) => d2
      | (d2, false) => d2.incRf (rk .rz 0 0x1C0) 0 32 1

/-- A frame received at port p (R309, R192). -/
def Dev.receive (d : Dev) (p : Nat) (frame : List Byte) (fcsGood : Bool) : Dev :=
  if !d.portEn p || !d.portUp p then d
  else
    match d.macDrop p (parseEth frame) fcsGood with
    | some i => d.macCount p i
    | none =>
      let d1 := d.macCount p 0
      if d1.makesItems then d1.rhizoid p frame else d1

/-! ### Frames as sent (12 R311, R312, R315) -/

/-- The VLAN tag of a reply: the ingress tag with RPCP for its PCP. -/
def replyTag (rpcp : Nat) (e : Eth) : List Byte :=
  match e.vlan with
  | none => []
  | some t => toBytes 2 0x8100 ++ toBytes 2 (rpcp * 8192 + t % 8192)

/-- A UDP header and payload with its checksum. -/
def udpBytes (sp dp : Nat) (pseudo : List Byte) (pl : List Byte) : List Byte :=
  let head := toBytes 2 sp ++ toBytes 2 dp ++ toBytes 2 (pl.length + 8)
  let s := inetSum (pseudo ++ head ++ [0, 0] ++ pl)
  head ++ toBytes 2 (if s = 0 then 0xFFFF else s) ++ pl

/-- MAC client data of a reply of kind UDP over IPv4: addresses and ports swapped, DSCP copied, DF set, identification 0. -/
def replyV4 (hop : Nat) (h pl : List Byte) : List Byte :=
  let ihl := beAt h 0 1 % 16 * 4
  let src := slice h 16 4
  let dst := slice h 12 4
  let ip (sum : Nat) : List Byte := [0x45] ++ toBytes 1 (beAt h 1 1 / 4 * 4) ++ toBytes 2 (28 + pl.length) ++ toBytes 2 0 ++
    toBytes 2 0x4000 ++ toBytes 1 hop ++ [17] ++ toBytes 2 sum ++ src ++ dst
  ip (inetSum (ip 0)) ++ udpBytes (beAt h (ihl + 2) 2) (beAt h ihl 2) (src ++ dst ++ [0, 17] ++ toBytes 2 (pl.length + 8)) pl

/-- MAC client data of a reply of kind UDP over IPv6. -/
def replyV6 (hop : Nat) (h pl : List Byte) : List Byte :=
  let src := slice h 24 16
  let dst := slice h 8 16
  let tc := beAt h 0 2 / 16 % 256 / 4 * 4
  toBytes 4 (6 * 2 ^ 28 + tc * 2 ^ 20) ++ toBytes 2 (pl.length + 8) ++ [17] ++ toBytes 1 hop ++ src ++ dst ++
    udpBytes (beAt h 42 2) (beAt h 40 2) (src ++ dst ++ toBytes 4 (pl.length + 8) ++ [0, 0, 0, 17]) pl

/-- The frame that carries an egress entry of port p (R311), padded to the minimum of 64 bytes with its FCS. -/
def Dev.replyFrame (d : Dev) (p : Nat) (x : Egr) : List Byte :=
  let e := parseEth x.hdr
  let hop := d.rf (macKey p 0x10C) 0 8
  let body := match x.kind with
    | 1 => replyV4 hop e.data x.payload
    | 2 => replyV6 hop e.data x.payload
    | _ => x.payload
  let f := slice x.hdr 6 6 ++ toBytes 2 (d.rf (macKey p 0x108) 0 16) ++ toBytes 4 (d.reg (macKey p 0x104)).toNat ++
    replyTag (d.rf (macKey p 0x100) 8 3) e ++ toBytes 2 e.etype ++ body
  if f.length < 60 then padTo 60 f else f

/-- Where the PTP message of a frame begins, when it is an event message (R315). -/
def ptpEvent (f : List Byte) : Option Nat :=
  let e := parseEth f
  let v := ipView e
  let o := if e.etype = 0x88F7 then some e.off else if v.kind ≠ 0 && v.port = 319 then some (e.off + v.uoff) else none
  o.filter (fun i => beAt f i 1 % 16 ≤ 3)

/-- The egress timestamp of a PTP event message placed in the FIFO (R315). -/
def Dev.ptpStamp (d : Dev) (p : Nat) (f : List Byte) : Dev :=
  match ptpEvent f with
  | none => d
  | some o =>
    if d.ptp.length ≥ 16 then d.setRf (rk .ptp 0 0x110) 31 1 1
    else
      let ts := BitVec.ofNat 64 d.mer + (BitVec.ofNat 16 (d.rf (macKey p 0x10C) 16 16)).signExtend 64
      { d with ptp := d.ptp ++ [(ts, BitVec.ofNat 16 (beAt f (o + 30) 2), beAt f o 1 % 16, p)] }

/-- The next of port p's schedule: a refusal record before any other (08 R201). -/
def nextEgress (l : List Egr) : Option Egr :=
  match l.find? (fun e => e.refusal) with
  | some e => some e
  | none => l.head?

/-- The next frame of port p's schedule leaves, or is stamped and discarded when the port is down (R312); its item is released (08 R199). -/
def Dev.transmit (d : Dev) (p : Nat) : Dev :=
  let l := SMap.get [] d.egress p
  match nextEgress l with
  | none => d
  | some e =>
    let d1 := { d with egress := SMap.put d.egress p (l.erase e) }
    let f := d.replyFrame p e
    let d2 :=
      if d.portEn p && d.portUp p then
        let y := ((d1.emit (.frame p f)).macCount p 7).ptpStamp p f
        if e.record then y.macCount p 8 else y
      else (d1.macCount p 9).ptpStamp p f
    match e.item with
    | some n => d2.dropItem n
    | none => d2

end Sys2Proof.Machine
end

