-- ==== Sys2Proof/Machine/Links.lean ====
section
/-!
DEFINITION. Lane groups and the Uaska ring as events reach them (12 R316 to R326; 13 R363): training, loss, retry, HELLO, BEAT,
TOPO, LEAVE.
-/
namespace Sys2Proof.Machine

/-! ### Lane groups -/

/-- Key of a register of LG[g]. -/
def lgKey (g off : Nat) : Nat := rk .lg g off

/-- LG_CFG.MODE. -/
def Dev.lgMode (d : Dev) (g : Nat) : Nat := d.rf (lgKey g 0x100) 16 3

/-- Lane group that leads in a direction, when UK_CTL names one. -/
def Dev.dirGroup (d : Dev) (west : Bool) : Option Nat :=
  let w := d.reg (ukKey 0x100)
  if west then (if bit w 10 then some (fld w 8 2) else none) else (if bit w 14 then some (fld w 12 2) else none)

/-- Direction that lane group g leads, when it is in Uaska mode and the links are enabled. -/
def Dev.groupDir (d : Dev) (g : Nat) : Option Bool :=
  if d.lgMode g != 5 || !d.rbit (ukKey 0x100) 31 then none
  else if d.dirGroup false == some g then some false
  else if d.dirGroup true == some g then some true
  else none

/-- Whether a direction names a group that is not in Uaska mode (R317). -/
def Dev.dirErr (d : Dev) (west : Bool) : Bool := (d.dirGroup west).any (fun g => d.lgMode g != 5)

/-- UK_STS.DIRERR, with which directions it stands for. -/
def Dev.setDirErr (d : Dev) (e w : Bool) : Dev := { d with uk := { d.uk with errE := e, errW := w } }.setRf (ukKey 0x10C) 30 1 (b2n (e || w))

/-- UK_STS.DIRERR set when a named direction has no link. -/
def Dev.noteDirErr (d : Dev) : Dev := d.setDirErr (d.uk.errE || d.dirErr false) (d.uk.errW || d.dirErr true)

/-- A direction's link is up: it has no error. -/
def Dev.clearDirErr (d : Dev) (west : Bool) : Dev := d.setDirErr (d.uk.errE && west) (d.uk.errW && !west)

/-- Lanes of the port or link led by lane k of a group in this mode, as a mask. -/
def laneMask (mode k : Nat) : Nat :=
  match mode with
  | 1 | 5 => 15
  | 2 => 3 * 2 ^ k
  | _ => 2 ^ k

/-- LG_STS.LOCK and UP of the port or link led by lane k. -/
def Dev.laneState (d : Dev) (g k : Nat) (up : Bool) : Dev :=
  let m := laneMask (d.lgMode g) k
  let lock := d.rf (lgKey g 0x104) 28 4
  (d.setRf (lgKey g 0x104) 28 4 (if up then lock ||| m else lock &&& (15 ^^^ m))).setRf (lgKey g 0x104) (24 + k) 1 (b2n up)

/-- UP of a Uaska group alone: it comes with HELLO. -/
def Dev.linkUpBit (d : Dev) (g : Nat) (up : Bool) : Dev := d.setRf (lgKey g 0x104) 24 1 (b2n up)

/-- Whether lanes and links may run (13 Table 13.2, R360, R362): not in DATUM, CROZIER, SAFE or a SURVEY entered from it, nor
from DRAINED to the next RUN. -/
def Dev.lanesRun (d : Dev) : Bool :=
  !(d.baseMode == .datum || d.baseMode == .crozier || d.baseMode == .safe) && !d.rbit (rk .mode 0 0x100) 23

/-! ### The ring -/

/-- This device's map of up links, with its own as they stand. -/
def Dev.topoMap (d : Dev) : Nat := ((List.range 8).map (fun i => if d.present i && d.linkEast i then 2 ^ i else 0)).sum

/-- TOPO sent on both links (R320). -/
def Dev.sendTopo (d : Dev) : Dev := d.sendAll 0x03 (toBytes 2 d.topoMap ++ toBytes 1 d.pos)

/-- What a device to which no path leads any more has said of its links is no longer held (log entry 57). -/
def Dev.forgetLost (d : Dev) : Dev := { d with uk := { d.uk with topos := d.uk.topos.filter (fun e => (d.route e.1).isSome) } }

/-- The map changed: open commits follow their partners (R324). -/
def Dev.ringChanged (d : Dev) : Dev := d.forgetLost.pushCommits

/-- A direction's link cut, with the group that led it: its sequence numbers and unacknowledged flits are given up (log entry 27); one that
was trained is counted, and its group reads as idle (R316). -/
def Dev.cutDir (d : Dev) (west : Bool) (group : Option Nat) : Dev :=
  let d1 := d.setLink west Link.down
  if !(d.link west).trained then d1
  else
    let d2 := d1.incRf (ukKey 0x204) 0 32 1
    match group with
    | some g => d2.laneState g 0 false
    | none => d2

/-- A direction's link down (R318); the map it leaves is sent (R320). -/
def Dev.dirDown (d : Dev) (west : Bool) : Dev :=
  if !(d.link west).trained then d
  else
    let d1 := d.cutDir west (d.dirGroup west)
    if (d.link west).up then d1.sendTopo.ringChanged else d1

/-- A port's link down. -/
def Dev.portDown (d : Dev) (p : Nat) : Dev :=
  if d.portUp p then (d.setRf (macKey p 0x114) 31 1 0).laneState (p / 4) (p % 4) false else d

/-- Every link and port down. -/
def Dev.allDown (d : Dev) : Dev := (List.range 16).foldl Dev.portDown ((d.dirDown false).dirDown true)

/-- Every Ethernet port down. -/
def Dev.portsDown (d : Dev) : Dev := (List.range 16).foldl Dev.portDown d

/-- The HELLO of this device (Table 12.4). -/
def Dev.helloBytes (d : Dev) : List Byte :=
  toBytes 4 (d.reg (ukKey 0x104)).toNat ++ toBytes 1 d.pos ++ toBytes 1 (d.rf (ukKey 0x108) 0 8) ++ pkHash

/-- Training of the port or link led by lane k of group g has passed (R316, R308). -/
def Dev.linkTrained (d : Dev) (g k : Nat) : Dev :=
  let p := 4 * g + k
  if !d.lanesRun || d.linkHeld.contains p then d
  else
    match d.groupDir g with
    | some west =>
      if k ≠ 0 || (d.link west).trained then d
      else
        let d1 := ((d.incRf (lgKey g 0x104) 0 8 1).laneState g 0 true).linkUpBit g false
        (d1.setLink west { Link.down with trained := true }).sendOn west 0x01 15 d.helloBytes
    | none =>
      if d.portRate p = 0 || !d.portEn p || d.portUp p then d
      else ((d.incRf (lgKey g 0x104) 0 8 1).laneState g k true).setRf (macKey p 0x114) 31 1 1

/-- A training attempt fails; after 8 within 1 s the port or link is held down (13 R363). -/
def Dev.trainingFailed (d : Dev) (g k : Nat) : Dev :=
  let p := 4 * g + k
  let ok := d.lanesRun && !d.linkHeld.contains p && (match d.groupDir g with
    | some _ => k == 0
    | none => d.portRate p != 0 && d.portEn p)
  if !ok then d
  else
    let ts := d.mer :: (SMap.get [] d.linkFails p).filter (fun t => decide (d.mer < t + 1_000_000_000))
    let d1 := { d.incRf (lgKey g 0x104) 0 8 1 with linkFails := SMap.put d.linkFails p ts }
    if ts.length ≥ 8 then ({ d1 with linkHeld := p :: d1.linkHeld, linkFails := SMap.drop d1.linkFails p }).health 0x12 8 1 2 (if (d.groupDir g).isSome then g else p) else d1

/-- The hold of a lane ends when its LG_CFG or MAC_CFG.EN is rewritten. -/
def Dev.releaseLane (d : Dev) (p : Nat) : Dev := { d with linkHeld := d.linkHeld.filter (· != p), linkFails := SMap.drop d.linkFails p }

/-- PCS lock lost, or 1 µs without a good flit (R318, 13 R363). -/
def Dev.linkLoss (d : Dev) (g k : Nat) : Dev :=
  match d.groupDir g with
  | some west => if k = 0 then d.dirDown west else d
  | none => d.portDown (4 * g + k)

/-! ### Retry (R318) -/

/-- Flits acknowledged up to a SEQ. -/
def Link.acked (l : Link) (ack : BitVec 12) : Link :=
  match l.replay.findIdx? (fun f => f.1 == ack) with
  | none => l
  | some i => { l with replay := l.replay.drop (i + 1), tries := 0 }

/-- Credits returned (Table 12.3, CRD): at most 32 are held for a channel. -/
def Link.credited (l : Link) (crd : Byte) : Link :=
  let vc := fld crd 6 2
  if vc = 3 then l else l.setCredit vc (min 32 (l.credit vc + fld crd 0 6))

/-- What waits on a link sent as far as it can be. -/
def Dev.pumpDir (d : Dev) (west : Bool) : Dev := Dev.pumpLink west (d.link west).wait.length d

/-- Every unacknowledged flit sent again; a link whose oldest flit has been replayed eight times without progress goes down. -/
def Dev.replay (d : Dev) (west : Bool) : Dev :=
  let l := d.link west
  if !l.trained || l.replay.isEmpty then d
  else if l.tries ≥ 8 then d.dirDown west
  else l.replay.foldl (fun y f => y.emit (.flit west f.1 l.rxSeq false 0 f.2)) ((d.incRf (ukKey 0x200) 0 32 1).setLink west { l with tries := l.tries + 1 })

/-- What a flit brings beside its payload (Table 12.3): its ACK and its credits are taken, a NAK replays the rest, and what waits is sent. -/
def Dev.takeBack (d : Dev) (west : Bool) (ack : BitVec 16) (nak : Bool) (crd : Byte) : Dev :=
  let l := d.link west
  if !l.trained then d
  else
    let d1 := d.setLink west ((l.acked (BitVec.ofNat 12 (fld ack 4 12))).credited crd)
    (if nak then d1.replay west else d1).pumpDir west

/-- An IDLE flit; bit 3 of its ACK field is NAK. -/
def Dev.takeIdle (d : Dev) (west : Bool) (ack : BitVec 16) (crd : Byte) : Dev := d.takeBack west ack (bit ack 3) crd

/-- A NAK that returns no credits; one that does is an IDLE flit with NAK 1. -/
def Dev.takeNak (d : Dev) (west : Bool) (ack : BitVec 16) : Dev := d.takeBack west ack true 0

/-- A bad flit or a gap: discarded, with one NAK until the missing flit arrives. -/
def Dev.badFlit (d : Dev) (west : Bool) : Dev :=
  let l := d.link west
  if !l.trained || l.gap then d else (d.setLink west { l with gap := true }).sendIdle west true

/-- `n` flits of a channel taken in order from a link; the flit that follows them acknowledges them and returns their credits. -/
def Dev.tookFlits (d : Dev) (west : Bool) (vc n : Nat) : Dev :=
  let l := d.link west
  (d.setLink west ({ l with rxSeq := l.rxSeq + BitVec.ofNat 12 n, gap := false }.setOwed vc (l.owed vc + n))).sendIdle west false

/-- The link over which a device's flits arrive: that of the route to it, else one that is up. -/
def Dev.fromDir (d : Dev) (t : Nat) : Option Bool :=
  match d.route t with
  | some (west, _) => some west
  | none => if d.uk.east.up then some false else if d.uk.west.up then some true else none

/-- What `f` does with `n` flits of a channel taken from device t; nothing when no link is up. -/
def Dev.fromPeer (d : Dev) (t vc n : Nat) (f : Dev → Dev) : Dev :=
  match d.fromDir t with
  | none => d
  | some west => f (d.tookFlits west vc n)

/-- Flits of a type from device t to device `dst`: what `f` does with them here, or each sent on over the route (R320). -/
def Dev.arriveFlits (d : Dev) (t dst : Nat) (vct : Byte) (ps : List (List Byte)) (f : Dev → Dev) : Dev :=
  d.fromPeer t (vcOf vct) ps.length (fun y => if dst = y.pos then f y else ps.foldl (fun z p => z.sendRoute ⟨vct, t, dst, p⟩) y)

/-- A flit of device t for every device, taken from one link, passed on over the other: only where it came by the shortest path, and not
back to its own device (log entry 67). -/
def Dev.passOn (d : Dev) (west : Bool) (t : Nat) (vct : Byte) (pl : List Byte) : Dev :=
  if (d.route t).any (fun r => r.1 == west) && (if west then d.nextPos d.pos else d.prevPos d.pos) != t then d.sendFlit (!west) ⟨vct, t, 15, pl⟩
  else d

/-- A device heard from. -/
def Dev.hearFrom (d : Dev) (t : Nat) : Dev := { d with uk := { d.uk with known := setBit d.uk.known t true } }

/-! ### Control flits (R319, R320) -/

/-- A HELLO: the link comes up, or stays down with POSERR. -/
def Dev.takeHello (d : Dev) (west : Bool) (pl : List Byte) : Dev :=
  let l := d.link west
  if !l.trained then d
  else
    let d1 := d.tookFlits west 0 1
    if beAt pl 0 4 ≠ (d.reg (ukKey 0x104)).toNat || beAt pl 4 1 % 8 = d.pos then d1.setRf (ukKey 0x10C) 31 1 1
    else if l.hello then d1
    else
      let d2 := (d1.setLink west { d1.link west with hello := true }).hearFrom (beAt pl 4 1 % 8)
      let d3 := match d2.dirGroup west with
        | some g => d2.linkUpBit g true
        | none => d2
      ((d3.clearDirErr west).pumpDir west).sendTopo.ringChanged

/-- The device's own BEAT sent (R320, R322): POS, the devices whose replica ring was answered FULL, Meridian. -/
def Dev.sendBeat (d : Dev) : Dev :=
  if !d.rbit (ukKey 0x100) 31 then d
  else
    let d1 := d.sendAll 0x02 (toBytes 1 d.pos ++ toBytes 1 d.uk.fullFor.toNat ++ toBytes 8 d.mer)
    { d1 with uk := { d1.uk with fullFor := 0 } }

/-- A BEAT from device t. -/
def Dev.takeBeat (d : Dev) (west : Bool) (t : Nat) (pl : List Byte) : Dev :=
  if !(d.link west).trained then d
  else
    let d1 := (d.tookFlits west 0 1).hearFrom t
    let full := (BitVec.ofNat 8 (beAt pl 1 1)).getLsbD d.pos
    (({ d1 with uk := { d1.uk with beats := SMap.put d1.uk.beats t d.mer, repfull := setBit d1.uk.repfull t full } }).passOn west t 0x02 pl).ringChanged

/-- The map after a TOPO of device t (Table 12.4): its own two links are as it says; and where t is new here, or comes back, so is a link of
neither end of which a TOPO is held, for which its map is the last word (DESIGN CHOICE, log entry 57). -/
def Dev.mergeTopo (d : Dev) (t : Nat) (m : BitVec 16) : BitVec 8 :=
  let said (i : Nat) : Bool := (SMap.find? d.uk.topos i).isSome
  BitVec.ofNat 8 ((List.range 8).map (fun i =>
    b2n (if i == t || i == d.prevPos t || !(said t || said i || said (d.nextPos i)) then bit m i else d.uk.topo.getLsbD i) * 2 ^ i)).sum

/-- A TOPO of device t: its map is taken, and one not yet seen, which differs from the last of that device, is forwarded. -/
def Dev.takeTopo (d : Dev) (west : Bool) (t : Nat) (pl : List Byte) : Dev :=
  if !(d.link west).trained then d
  else
    let d1 := d.tookFlits west 0 1
    let m := BitVec.ofNat 16 (beAt pl 0 2)
    if t = d.pos || SMap.find? d.uk.topos t == some pl then d1
    else
      let d2 := d1.hearFrom t
      (({ d2 with uk := { d2.uk with topo := d2.mergeTopo t m, topos := SMap.put d2.uk.topos t pl } }).sendFlit (!west) ⟨0x03, t, 15, pl⟩).ringChanged

/-- A member lost: no BEAT of it is held (R320). -/
def Dev.loseMember (d : Dev) (t : Nat) : Dev := ({ d with uk := { d.uk with beats := SMap.drop d.uk.beats t } }).ringChanged

/-- A LEAVE from device t (R320, R326), passed on the first time it comes. -/
def Dev.takeLeave (d : Dev) (t : Nat) : Dev :=
  d.fromPeer t 0 1 (fun y =>
    if (SMap.find? y.uk.beats t).isNone then y
    else ((y.fromDir t).elim y (fun west => y.passOn west t 0x04 (toBytes 1 t))).loseMember t)

/-- A member that has sent no BEAT for 3 intervals. -/
def Dev.memberLost (d : Dev) (t : Nat) : Dev :=
  match SMap.find? d.uk.beats t with
  | some b => if d.mer ≥ b + d.beatLimit then d.loseMember t else d
  | none => d

/-- LEAVE sent on every link that is up (R326). -/
def Dev.sendLeave (d : Dev) : Dev := { d.sendAll 0x04 (toBytes 1 d.pos) with uk := { (d.sendAll 0x04 (toBytes 1 d.pos)).uk with left := true } }

end Sys2Proof.Machine
end

