-- ==== Sys2Proof/Machine/Dma.lean ====
section
/-!
DEFINITION. The DMA engines (09 R233 to R247): descriptors, their checks, the moves, completion, rings, and the holds of a
power-down request.
-/
namespace Sys2Proof.Machine

/-! ### Channels -/

/-- Key of a register of channel ch of the device, 0 to 1,023. -/
def dcKey (ch off : Nat) : Nat := rk .dmaCh (ch / 64) (0x100 + 32 * (ch % 64) + off)

/-- CH_CTL.EN. -/
def Dev.dcEn (d : Dev) (ch : Nat) : Bool := d.rbit (dcKey ch 0) 31
/-- CH_CTL.MODE: ring mode. -/
def Dev.dcRing (d : Dev) (ch : Nat) : Bool := d.rbit (dcKey ch 0) 30
/-- CH_STS.STATE set: 0 idle, 1 running, 2 held, 3 stopped. -/
def Dev.dcState (d : Dev) (ch s : Nat) : Dev := d.setRf (dcKey ch 0x10) 30 2 s

/-- The engine's master for a channel, with a key and a privilege (10 Table 10.1). -/
def dcReq (ch key : Nat) (priv : Bool) : Req := ⟨0x400 + ch, .dma, key, priv⟩

/-- The ceiling under which descriptors are fetched and rings are read and written (R238). -/
def Dev.dcCeil (d : Dev) (ch : Nat) : Req := dcReq ch (d.rf (dcKey ch 0xC) 24 4) (d.rbit (dcKey ch 0xC) 31)

/-- Ring address of a channel (R237). -/
def Dev.dcRingAt (d : Dev) (ch : Nat) : Nat := frondBase (d.rf (dcKey ch 0xC) 16 5) + d.rf (dcKey ch 0x18) 6 15 * 64

/-- Slots of the ring. -/
def Dev.dcSlots (d : Dev) (ch : Nat) : Nat := 16 * 2 ^ d.rf (dcKey ch 0xC) 8 3

/-! ### Domains (R245) -/

/-- DMA_PD_STS of engine t. -/
def pdHold (t : Nat) : Nat := rk .dma t 0x104

/-- Domain codes of DMA_PD_STS.DOMAIN. -/
def domThallus (t : Nat) : Nat := t
/-- DSALL. -/
def domDs : Nat := 0x10
/-- DSL[l]. -/
def domLayer (l : Nat) : Nat := 0x20 + l

/-- Whether a range reaches a domain. -/
def Dev.rangeTouches (d : Dev) (dom a n : Nat) : Bool :=
  (a :: (a + n - 1) :: (List.range ((a + n - 1) / 0x2_0000 - a / 0x2_0000)).map (fun i => (a / 0x2_0000 + i + 1) * 0x2_0000)).any (fun x =>
    match tierOf x with
    | none => false
    | some .deep => if d.intlv then dom == domLayer (layerOf x) else dom == domDs
    | some t => t.thallusNo == some dom)

/-- Whether a descriptor of channel ch touches a domain. -/
def Dev.runTouches (d : Dev) (dom ch : Nat) (r : DmaRun) : Bool :=
  dom == ch / 256 || d.rangeTouches dom r.src r.len || d.rangeTouches dom r.dst r.len || d.rangeTouches dom r.addr 32 ||
    (d.dcRing ch && d.rangeTouches dom (d.dcRingAt ch) (0x40 + 32 * d.dcSlots ch))

/-- Domain held by engine t. -/
def Dev.heldDom (d : Dev) (t : Nat) : Option Nat := if d.rbit (pdHold t) 31 then some (d.rf (pdHold t) 0 8) else none

/-- Engine t's hold released when none of its descriptors touches the domain. -/
def Dev.release (d : Dev) (t : Nat) : Dev :=
  match d.heldDom t with
  | none => d
  | some dom => if d.dma.any (fun e => e.1 / 256 == t && d.runTouches dom e.1 e.2) then d else d.setRf (pdHold t) 31 1 0

/-! ### Descriptors (R235, R238) -/

/-- Status code of a failed access of a store. -/
def fabStatus (r : Req) (kd : Dev) (a : Nat) (e : FabErr) : Nat :=
  match e with
  | .noMem => 2
  | .uncorr => 5
  | .denied => if keyOk (kd.keyByte a) r.key r.sup .read then 4 else 3

/-- A read by the engine, with the status it ends with when it fails. -/
def Dev.dmaRead (d : Dev) (r : Req) (a n : Nat) : Dev × Except Nat (List Byte) :=
  match d.rangeFault a n with
  | some c => (d, .error c)
  | none =>
    match d.fabRead r a n with
    | (d1, .ok bs) => (d1, .ok bs)
    | (d1, .error e) => (d1, .error (fabStatus r d a e))

/-- A write by the engine, with the status it ends with when it fails. -/
def Dev.dmaWrite (d : Dev) (r : Req) (a : Nat) (bs : List Byte) : Dev × Option Nat :=
  match d.rangeFault a bs.length with
  | some c => (d, some c)
  | none =>
    match d.fabWrite r a bs with
    | (d1, none) => (d1, none)
    | (d1, some .denied) => (d1, some (if keyOk (d.keyByte a) r.key r.sup .write then 4 else 3))
    | (d1, some e) => (d1, some (fabStatus r d a e))

/-- The descriptor that 32 bytes hold. -/
def descOf (a : Nat) (bs : List Byte) : DmaRun :=
  let ctl := BitVec.ofNat 16 (beAt bs 0x14 2)
  { addr := a, src := beAt bs 0 8 % 2 ^ 40, dst := beAt bs 8 8 % 2 ^ 40, len := beAt bs 0x10 4, key := fld ctl 8 4, priv := bit ctl 12
    irq := bit ctl 15, note := if bit ctl 14 then some (beAt bs 0x16 2 % 8192) else none
    next := if bit ctl 13 then some (beAt bs 0x18 8 % 2 ^ 40) else none, moved := 0, status := none }

/-- Whether a descriptor sets a reserved bit. STATUS is the engine's. -/
def descReserved (bs : List Byte) : Bool :=
  beAt bs 0 3 != 0 || beAt bs 8 3 != 0 || beAt bs 0x15 1 != 0 || beAt bs 0x16 1 / 32 != 0 || beAt bs 0x1A 1 != 0

/-- Status that a fetched descriptor ends with before it moves data (R238 steps 2 to 4); a domain is held from the request until it is off,
whatever this engine has released (R245). -/
def Dev.descCheck (d : Dev) (ch : Nat) (bs : List Byte) (r : DmaRun) : Option Nat :=
  let c := d.dcCeil ch
  if descReserved bs || r.len = 0 || (r.priv && !c.sup) || (c.key ≠ 0 && r.key ≠ c.key) then some 1
  else
    match d.rangeFault r.src r.len, d.rangeFault r.dst r.len with
    | some 2, _ => some 2
    | _, some 2 => some 2
    | some c', _ => some c'
    | none, some c' => some c'
    | none, none =>
      if d.pdNow.any (fun dom => d.runTouches dom ch r) then some 6 else none

/-- The descriptor at an address put in hand on channel ch: fetched, and checked. -/
def Dev.beginDesc (d : Dev) (ch a : Nat) : Dev :=
  let start (y : Dev) (r : DmaRun) : Dev :=
    (({ y with dma := SMap.put y.dma ch r }).dcState ch 1).setReg (dcKey ch 0x14) 0
  match d.dmaRead (d.dcCeil ch) a 32 with
  | (d1, .error c) =>
    start d1 { addr := a, src := 0, dst := 0, len := 0, key := 0, priv := false, irq := false, note := none, next := none
               moved := 0, status := some (if d.dcRing ch then 9 else c) }
  | (d1, .ok bs) => let r := descOf a bs; start d1 { r with status := d1.descCheck ch bs r }

/-! ### Moving data (R238, R239, R226) -/

/-- Whether a descriptor moves in descending order (R239). DESIGN CHOICE (log entry 72): a destination exactly LEN bytes above the source is
not within LEN bytes of it. -/
def DmaRun.descends (r : DmaRun) : Bool := r.src < r.dst && r.dst < r.src + r.len

/-- The next block of a move: bytes moved before it and its length, cut where the source meets a 64-byte boundary (R233), so that what one
read takes is moved whole (02 R72). -/
def DmaRun.block (r : DmaRun) : Nat × Nat :=
  let left := r.len - r.moved
  if r.descends then
    let n := min left ((r.src + left - 1) % 64 + 1)
    (left - n, n)
  else (r.moved, min left (64 - (r.src + r.moved) % 64))

/-- A block's bytes cut where the destination meets a 64-byte boundary, in the order of the move (R233, R239). -/
def DmaRun.pieces (r : DmaRun) (a : Nat) (bs : List Byte) : List (Nat × List Byte) :=
  let k := 64 - a % 64
  if bs.length ≤ k then [(a, bs)]
  else if r.descends then [(a + k, bs.drop k), (a, bs.take k)]
  else [(a, bs.take k), (a + k, bs.drop k)]

/-- Pieces written in order until one fails: the bytes written, and the status. -/
def Dev.dmaPieces (q : Req) : List (Nat × List Byte) → Dev → Dev × Nat × Option Nat
  | [], d => (d, 0, none)
  | (a, bs) :: t, d =>
    match d.dmaWrite q a bs with
    | (d1, some c) => (d1, 0, some c)
    | (d1, none) =>
      match Dev.dmaPieces q t d1 with
      | (d2, n, c) => (d2, bs.length + n, c)

/-- Up to `n` blocks moved on channel ch; a failure or the end decides the descriptor's status. -/
def Dev.moveBlocks (ch : Nat) : Nat → Dev → Dev
  | 0, d => d
  | n + 1, d =>
    match SMap.find? d.dma ch with
    | none => d
    | some r =>
      if r.status.isSome then d
      else
        let (off, k) := r.block
        let q := dcReq ch r.key r.priv
        let stop (y : Dev) (m c : Nat) : Dev := { y with dma := SMap.put y.dma ch { r with moved := r.moved + m, status := some c } }
        match d.dmaRead q (r.src + off) k with
        | (d1, .error c) => stop d1 0 c
        | (d1, .ok bs) =>
          match Dev.dmaPieces q (r.pieces (r.dst + off) bs) d1 with
          | (d2, n, some c) => stop d2 n c
          | (d2, _, none) =>
            let m := r.moved + k
            Dev.moveBlocks ch n (({ d2 with dma := SMap.put d2.dma ch { r with moved := m, status := if m = r.len then some 0 else none } }).setReg
              (dcKey ch 0x14) (BitVec.ofNat 32 m))

/-! ### Completion (Table 9.6, R242, R243) -/

/-- A notification item posted, or lost (R242, 08 R215). -/
def Dev.notify (d : Dev) (ch : Nat) (r : DmaRun) (status nq : Nat) : Dev :=
  let t := ch / 256
  let bs := toBytes 1 status ++ toBytes 1 t ++ toBytes 2 (ch % 256) ++ toBytes 4 r.moved ++ toBytes 8 r.addr ++ toBytes 8 d.mer ++ zeros 8
  if !d.makesItems then d.incRf (rk .dma t 0x130) 0 32 1
  else
    match d.arrive { q := nq, src := .note t, tin := d.mer, itag := 0xFFFF, plen := 32, exq := false, head := padTo 10 (bs.drop 6), ring := t
                     roff := none } bs with
    | (d1, true) => d1
    | (d1, false) => d1.incRf (rk .dma t 0x130) 0 32 1

/-- CONS of channel ch's ring. -/
def Dev.ringIdx (d : Dev) (ch off : Nat) : Dev × Except Nat Nat :=
  match d.dmaRead (d.dcCeil ch) (d.dcRingAt ch + off) 8 with
  | (d1, .error c) => (d1, .error c)
  | (d1, .ok bs) => (d1, .ok (ofBytes bs % 65536))

/-- A ring channel stopped with RING_FAULT. -/
def Dev.ringFault (d : Dev) (ch : Nat) : Dev := (d.setRf (dcKey ch 0x10) 0 8 9).dcState ch 3

/-- The next descriptor of a ring begun, when PROD shows one (R237). -/
def Dev.nextRing (d : Dev) (ch : Nat) : Dev :=
  match d.ringIdx ch 0 with
  | (d1, .error _) => d1.ringFault ch
  | (d1, .ok prod) =>
    match d1.ringIdx ch 8 with
    | (d2, .error _) => d2.ringFault ch
    | (d2, .ok cons) =>
      let n := (prod + 65536 - cons) % 65536
      if n > d2.dcSlots ch then d2.ringFault ch
      else if n = 0 then d2.dcState ch 0
      else d2.beginDesc ch (d2.dcRingAt ch + 0x40 + 32 * (cons % d2.dcSlots ch))

/-- The last byte that a descriptor wrote in each store instance (Table 9.6 step 2). -/
def DmaRun.lastBytes (r : DmaRun) : List Nat :=
  let lo := if r.descends then r.dst + (r.len - r.moved) else r.dst
  let edges := (List.range ((lo + r.moved - 1) / 0x2_0000 - lo / 0x2_0000)).map (fun i => (lo / 0x2_0000 + i + 1) * 0x2_0000)
  if r.moved = 0 then []
  else if r.descends then lo :: edges.filter (fun e => tierOf e != tierOf (e - 1))
  else (edges.filter (fun e => tierOf e != tierOf (e - 1))).map (· - 1) ++ [lo + r.moved - 1]

/-- The 64-byte block that holds an address read back by channel ch (Table 9.6 steps 2 and 4), USED and WRIT aside (10 R278): true when a
word of it is uncorrectable. DESIGN CHOICE (log entry 72): it is checked neither for key nor for gate. -/
def Dev.readBack (ch : Nat) (d : Dev) (a : Nat) : Dev × Bool :=
  match tierOf a with
  | none => (d, false)
  | some t =>
    match d.eccRead t (wordsOf (a / 64 * 64) 64) with
    | (d1, some w) => (d1.eccUncorr t 1 (0x400 + ch) w, true)
    | (d1, none) => (d1, false)

/-- The read-backs of step 2, but for a descriptor whose destination lies in the domain that was lost. -/
def Dev.readBacks (d : Dev) (ch : Nat) (lost : Option Nat) (r : DmaRun) : Dev × Bool :=
  if lost.any (fun dom => d.rangeTouches dom r.dst r.len) then (d, false)
  else r.lastBytes.foldl (fun y a => let (z, bad) := Dev.readBack ch y.1 a; (z, y.2 || bad)) (d, false)

/-- A descriptor of channel ch ended with a status (Table 9.6 steps 2 to 6, R241): the channel stops in host mode unless it is OK. An
uncorrectable word that a read-back finds turns OK into UNCORRECTABLE (log entry 70). `lost`: the domain of a DOMAIN_LOST. -/
def Dev.endDesc (d : Dev) (ch status0 : Nat) (lost : Option Nat := none) : Dev :=
  match SMap.find? d.dma ch with
  | none => d
  | some r =>
    let (d0, bad) := d.readBacks ch lost r
    let status := if bad && status0 = 0 then 5 else status0
    let d1 := (({ d0 with dma := SMap.drop d0.dma ch }).setRf (dcKey ch 0x10) 0 8 status).setReg (dcKey ch 0x14) (BitVec.ofNat 32 r.moved)
    let d2 := match d1.dmaWrite (d.dcCeil ch) (r.addr + 0x18) (toBytes 2 (2 ^ 15 + status)) with
      | (y, none) => (Dev.readBack ch y (r.addr + 0x18)).1
      | (y, some _) => y
    let d3 := if d.dcRing ch then
        (match d2.ringIdx ch 8 with
          | (y, .ok cons) => (y.dmaWrite (d.dcCeil ch) (d.dcRingAt ch + 8) (toBytes 8 ((cons + 1) % 65536))).1
          | (y, .error _) => y)
      else d2
    let d4 := match r.note with
      | some nq => d3.notify ch r status nq
      | none => d3
    let d5 := if r.irq then
        (d4.setRf (rk .dma (ch / 256) (0x110 + 4 * (ch % 256 / 32))) (ch % 32) 1 1).sendMsix (d4.rf (dcKey ch 0x1C) 0 11)
      else d4
    (d5.dcState ch (if status = 0 || d.dcRing ch then 0 else 3)).release (ch / 256)

/-- Step 7: the next descriptor of the channel begun. DESIGN CHOICE (log entry 72): a NEXT that is no multiple of 32 names the 32 bytes that
begin there. -/
def Dev.nextDesc (d : Dev) (ch status : Nat) (next : Option Nat) : Dev :=
  if !d.dcEn ch then d
  else if d.dcRing ch then d.nextRing ch
  else match next with
    | some a => if status = 0 then d.beginDesc ch a else d
    | none => d

/-- The descriptor in hand on channel ch completes, when its status is decided (R241). -/
def Dev.completeDesc (d : Dev) (ch : Nat) : Dev :=
  match SMap.find? d.dma ch with
  | none => d
  | some r =>
    match r.status with
    | none => d
    | some c => (d.endDesc ch c).nextDesc ch c r.next

/-- The descriptor in hand ended by an abort with a status (R244, R246, 13 R363), or with its own when that is decided: steps 2 to 6. A
host-mode channel stops; a ring channel goes on at its next reading of PROD. -/
def Dev.abortDesc (d : Dev) (ch status : Nat) (lost : Option Nat := none) : Dev :=
  match SMap.find? d.dma ch with
  | none => d
  | some r => d.endDesc ch (r.status.getD status) (if r.status.isNone then lost else none)

/-! ### Holds (R245, R246) -/

/-- A power-down request for a domain reaches every engine: held where a descriptor touches it, released at once elsewhere. -/
def Dev.holdDomain (d : Dev) (dom : Nat) : Dev :=
  (List.range 4).foldl (fun y t => (((y.setRf (pdHold t) 31 1 1).setRf (pdHold t) 30 1 0).setRf (pdHold t) 0 8 dom).release t) d

/-- Whether every engine has released. -/
def Dev.allReleased (d : Dev) : Bool := (List.range 4).all (fun t => !d.rbit (pdHold t) 31)

/-- Engine t's hold times out: every descriptor still touching the domain ends DOMAIN_LOST (R246). -/
def Dev.holdTimeout (d : Dev) (t : Nat) : Dev :=
  match d.heldDom t with
  | none => d
  | some dom =>
    let chs := d.dma.filter (fun e => e.1 / 256 == t && d.runTouches dom e.1 e.2)
    let d1 := d.setRf (pdHold t) 30 1 1
    let d2 := chs.foldl (fun y e => let z := y.abortDesc e.1 7 (some dom); if e.2.status.isNone then z.incRf (pdHold t) 16 8 1 else z) d1
    d2.release t

end Sys2Proof.Machine
end

