-- ==== Sys2Proof/Machine/Gates.lean ====
section
/-!
DEFINITION. The protection pages (10 R275 to R287): key bytes, gate windows, captures, the violation log and block-register images; the
scrubbers (09 R224); the consume offsets the host writes (09 R253, 13 R369).
-/
namespace Sys2Proof.Machine

/-! ### Key bytes (R277, R279) -/

/-- Key of an SKEY register. -/
def skKey (off : Nat) : Nat := rk .skey 0 off

/-- SK_ADDR, a frame address. -/
def Dev.skAddr (d : Dev) : Nat := (d.reg (skKey 0x104)).toNat / 4096 * 4096 + d.rf (skKey 0x108) 0 8 * 2 ^ 32

/-- SK_ADDR set. -/
def Dev.setSkAddr (d : Dev) (a : Nat) : Dev := (d.setReg (skKey 0x104) (BitVec.ofNat 32 a)).setRf (skKey 0x108) 0 8 (a / 2 ^ 32)

/-- The key byte of a frame set. -/
def Dev.setKey (d : Dev) (fr : Nat) (v : Byte) : Dev := { d with keys := if v = 0 then SMap.drop d.keys fr else SMap.put d.keys fr v }

/-- A key byte that may not be written: RSCOPE 0b11. -/
def badKey (v : Byte) : Bool := fld v 2 2 == 3

/-- A write of SK_DATA. -/
def Dev.writeSkData (d : Dev) (v : W32) : Dev :=
  let b : Byte := BitVec.ofNat 8 (fld v 0 8)
  let a := d.skAddr
  if d.fill.isSome || badKey b || (tierOf a).isNone then d.cfgErr (PageT.first .skey)
  else
    let d1 := d.setKey (a / 4096) b
    if d.rbit (skKey 0x100) 0 then d1.setSkAddr ((a + 4096) % 2 ^ 40) else d1

/-- A region of Table 9.1 as a number. -/
def Tier.region : Tier → Nat
  | .deep => 0 | .thallus _ => 1 | .frond _ => 2 | .working _ => 3 | .prog _ => 4

/-- Up to `n` frames of the fill in progress written, the last one kept for its end. -/
def Dev.runFill : Nat → Dev → Dev
  | 0, d => d
  | n + 1, d => match d.fill with
    | none => d
    | some f =>
      if f.left ≤ 1 then d
      else Dev.runFill n (({ d with fill := some ⟨f.next + 1, f.left - 1, f.value⟩ }.setKey f.next f.value).setRf (skKey 0x114) 0 23 (f.left - 1))

/-- A write of SK_FILL: ignored while a fill runs; one that is refused, for a VALUE with RSCOPE 0b11 (R277) or a GO whose range leaves its region,
leaves the field that it is refused for as it is, and the other fields take what is written (11 R294). -/
def Dev.writeSkFill (d : Dev) (v : W32) : Dev :=
  let b : Byte := BitVec.ofNat 8 (fld v 22 8)
  let n := fld v 0 22 + 1
  let a := d.skAddr
  let same := (tierOf a).map Tier.region == (tierOf (a + 4096 * (n - 1))).map Tier.region && (tierOf a).isSome
  if d.fill.isSome then d.cfgErr (PageT.first .skey)
  else if badKey b then (d.setRf (skKey 0x110) 0 22 (fld v 0 22)).cfgErr (PageT.first .skey)
  else
    let d1 := d.setReg (skKey 0x110) (BitVec.ofNat 32 (fld v 0 30))
    if bit v 31 && !same then d1.cfgErr (PageT.first .skey)
    else if bit v 31 then
      ({ d1 with fill := some ⟨a / 4096, n, b⟩ }.setRf (skKey 0x114) 31 1 1).setRf (skKey 0x114) 0 23 n
    else d1

/-- The fill writes its last frame. -/
def Dev.endFill (d : Dev) : Dev :=
  match d.fill with
  | none => d
  | some f =>
    let d1 := (List.range f.left).foldl (fun y i => y.setKey (f.next + i) f.value) d
    { d1.setReg (skKey 0x114) 0 with fill := none }

/-! ### Gate windows (R283, R284) -/

/-- Key of a GATE register. -/
def gateKey (g off : Nat) : Nat := rk .gate g off

/-- GATE_CFGST of a configuration write. -/
def Dev.cfgSt (d : Dev) (g w st : Nat) : Dev := d.setReg (gateKey g 0x200) (BitVec.ofNat 32 (w * 256 + st))

/-- A configuration write refused with a status. -/
def Dev.gateRefused (d : Dev) (g w st : Nat) : Dev := (d.cfgSt g w st).cfgErr (PageT.first .gate + g)

/-- First frame and the frame after the last of window w. -/
def Dev.windowSpan (d : Dev) (g w : Nat) : Nat × Nat :=
  let b := d.rf (gateKey g (0x104 + 16 * w)) 0 22
  (b, b + d.rf (gateKey g (0x108 + 16 * w)) 0 22 + 1)

/-- A write of GW_CTL[w]. -/
def Dev.writeGwCtl (d : Dev) (g w : Nat) (v : W32) : Dev :=
  let k := gateKey g (0x100 + 16 * w)
  let (b, e) := d.windowSpan g w
  let rises := bit v 31 && !d.rbit k 31
  if rises && e > gateFrames g then d.gateRefused g w 2
  else if rises && (List.range 16).any (fun o => o != w && d.rbit (gateKey g (0x100 + 16 * o)) 31 &&
      decide ((d.windowSpan g o).1 < e) && decide (b < (d.windowSpan g o).2)) then d.gateRefused g w 1
  else (d.setReg k (v &&& 0xC07F003F)).cfgSt g w 0

/-- A write of GW_BASE[w], or of GW_SIZE[w]. -/
def Dev.writeGwRange (d : Dev) (g w : Nat) (size : Bool) (v : W32) : Dev :=
  if d.rbit (gateKey g (0x100 + 16 * w)) 31 then d.gateRefused g w 3
  else (d.setReg (gateKey g ((if size then 0x108 else 0x104) + 16 * w)) (v &&& 0x3FFFFF)).cfgSt g w 0

/-! ### Captures and logs (R286, R287, 13 R369) -/

/-- A write to a status with VALID in bit 31 and OVF in bit 30: 1 to VALID clears both. -/
def Dev.clearCap (d : Dev) (k : Nat) (v : W32) : Dev :=
  let d1 := if bit v 31 then d.setRf k 30 2 0 else d
  if bit v 30 then d1.setRf k 30 1 0 else d1

/-- A tail advanced to free slots; one that would pass the head is ignored with CFGERR. -/
def Dev.writeTail (d : Dev) (page tail head : Nat) (v : W32) : Dev :=
  let t := d.rf tail 0 16
  let h := d.rf head 0 16
  if (fld v 0 16 + 65536 - t) % 65536 ≤ (h + 65536 - t) % 65536 then d.setRf tail 0 16 (fld v 0 16) else d.cfgErr page

/-! ### Block-register images (R275) -/

/-- The five words of block register n of core c as installed. -/
def brWords (x : Core) (n : Nat) : List W32 :=
  let r := SMap.get ⟨false, 0, 0, 0, none⟩ x.br n
  [BitVec.ofNat 32 (r.d0.toNat / 2 ^ 32), BitVec.ofNat 32 r.d0.toNat, BitVec.ofNat 32 (r.d1.toNat / 2 ^ 32), BitVec.ofNat 32 r.d1.toNat,
   BitVec.ofNat 32 (b2n r.valid * 2 ^ 31 + r.tag.toNat)]

/-- A write of word `w` of the image of block register n: the image is pending from its first write, its other words those of the
register. -/
def Dev.writeBr (d : Dev) (c n w : Nat) (v : W32) : Dev :=
  let k := rk .coreProt c (0x200 + 32 * n)
  let x := d.core c
  let d1 := if x.brImage.contains n then d
    else (d.setRegs k (brWords x n)).setCore c { x with brImage := x.brImage ++ [n] }
  d1.setReg (k + 4 * w) (if w = 4 then v &&& 0x800000FF else v)

/-! ### The scrubbers (09 R224) -/

/-- A word read by its store's scrubber, with what it finds. -/
def Dev.scrubRead (d : Dev) (addr finding : Nat) : Dev :=
  let w := addr / 8 * 8
  match tierOf w with
  | none => d
  | some t =>
    let on := match t.thallusNo with
      | some h => d.thOn h
      | none => d.dsReady
    if d.mode = .datum || !on || t.eccPage.isNone then d
    else if d.uncorr.contains w || finding = 2 then
      let (m, d1) := d.drawFree
      ({ d1 with uncorr := if d1.uncorr.contains w then d1.uncorr else d1.uncorr ++ [w], corr := d1.corr.filter (· != w) }).eccUncorr t 2 (m.toNat % 4096) w
    else if d.corr.contains w || finding = 1 then
      ({ d with corr := if d.corr.contains w then d.corr else d.corr ++ [w], scrub := if d.scrub.contains w then d.scrub else d.scrub ++ [w] }).eccCorr t
    else d

/-- The corrected word written back, unless it has been written since: a write clears its mark. -/
def Dev.scrubWrite (d : Dev) (addr : Nat) : Dev :=
  let w := addr / 8 * 8
  if d.scrub.contains w then { d with corr := d.corr.filter (· != w), scrub := d.scrub.filter (· != w) } else d

/-! ### CH_CONS (09 R253) -/

/-- A write of CH_CONS of chain c by the host: ignored while the chain streams, and with CFGERR off the ring's forward path. -/
def Dev.writeCons (d : Dev) (c : Nat) (v : W32) : Dev :=
  let size := d.chSize c
  let cons := d.chCons c
  if d.chStream c then d
  else if v.toNat < size && (v.toNat + size - cons) % size ≤ (d.chWr c + size - cons) % size then d.setCons c v.toNat
  else d.cfgErr (PageT.first .cairnCh + c / 32)

end Sys2Proof.Machine
end

