-- ==== Sys2Proof/Machine/Cipher.lean ====
section
/-!
DEFINITION. AES-256-GCM decryption (07 R181), which the spec names and does not print: FIPS 197 and NIST SP 800-38D (log entry 12).
-/
namespace Sys2Proof.Machine

/-! ### AES-256 -/

/-- Doubling in GF(2^8). -/
def gfDouble (a : Byte) : Byte := if a.getLsbD 7 then (a <<< 1) ^^^ 0x1B else a <<< 1

/-- Product in GF(2^8): the bits of the second factor from `n` down. -/
def gfMulN (a b : Byte) : Nat → Byte
  | 0 => 0
  | n + 1 => gfDouble (gfMulN a b n) ^^^ (if b.getLsbD (7 - n) then a else 0)

/-- Product in GF(2^8). -/
def gfMul (a b : Byte) : Byte := gfMulN a b 8

/-- Inverse in GF(2^8), 0 for 0: the 254th power. -/
def gfInv (a : Byte) : Byte :=
  let a2 := gfMul a a
  let a4 := gfMul a2 a2
  let a8 := gfMul a4 a4
  let a16 := gfMul a8 a8
  let a32 := gfMul a16 a16
  let a64 := gfMul a32 a32
  let a128 := gfMul a64 a64
  gfMul a2 (gfMul a4 (gfMul a8 (gfMul a16 (gfMul a32 (gfMul a64 a128)))))

/-- The S-box. -/
def aesSub (a : Byte) : Byte :=
  let b := gfInv a
  b ^^^ b.rotateLeft 1 ^^^ b.rotateLeft 2 ^^^ b.rotateLeft 3 ^^^ b.rotateLeft 4 ^^^ 0x63

/-- Bytes combined. -/
def xorAll (a b : List Byte) : List Byte := List.zipWith (· ^^^ ·) a b

/-- The key schedule's words, newest first, extended `n` times; `rc`: the next round constant. -/
def aesWords : Nat → Byte → List (List Byte) → List (List Byte)
  | 0, _, ws => ws
  | n + 1, rc, ws =>
    let t := ws.headD []
    let r : List Byte := (t.drop 1 ++ t.take 1).map aesSub
    let first := ws.length % 8 = 0
    let u := if first then xorAll r [rc, 0, 0, 0] else if ws.length % 8 = 4 then t.map aesSub else t
    aesWords n (if first then gfDouble rc else rc) (xorAll (ws.getD 7 []) u :: ws)

/-- The 15 round keys. -/
def aesKeys (key : List Byte) : List (List Byte) :=
  let ws := (aesWords 52 1 ((List.range 8).map (fun i => slice key (4 * i) 4)).reverse).reverse
  (List.range 15).map (fun i => ((ws.drop (4 * i)).take 4).flatten)

/-- Rows shifted. -/
def aesShift (s : List Byte) : List Byte := (List.range 16).map (fun i => s.getD ((i + 4 * (i % 4)) % 16) 0)

/-- Columns mixed. -/
def aesMix (s : List Byte) : List Byte :=
  (List.range 16).map (fun i =>
    let g (k : Nat) : Byte := s.getD (i / 4 * 4 + (i + k) % 4) 0
    gfDouble (g 0) ^^^ (gfDouble (g 1) ^^^ g 1) ^^^ g 2 ^^^ g 3)

/-- The rounds after the first key. -/
def aesRounds : List (List Byte) → List Byte → List Byte
  | [], s => s
  | [k], s => xorAll (aesShift (s.map aesSub)) k
  | k :: ks, s => aesRounds ks (xorAll (aesMix (aesShift (s.map aesSub))) k)

/-- One block enciphered. -/
def aesBlock (keys : List (List Byte)) (b : List Byte) : List Byte := aesRounds (keys.drop 1) (xorAll b (keys.headD []))

/-! ### GCM -/

/-- Product in GF(2^128), the first bit the most significant: the bits of x left to take, the sum and the shifted factor. -/
def ghashMul (x : BitVec 128) : Nat → BitVec 128 → BitVec 128 → BitVec 128
  | 0, z, _ => z
  | n + 1, z, v =>
    ghashMul x n (if x.getLsbD n then z ^^^ v else z) (if v.getLsbD 0 then (v >>> 1) ^^^ (0xE1#128 <<< 120) else v >>> 1)

/-- GHASH of `n` blocks. -/
def ghash (h : BitVec 128) : Nat → BitVec 128 → List Byte → BitVec 128
  | 0, y, _ => y
  | n + 1, y, bs => ghash h n (ghashMul (y ^^^ BitVec.ofNat 128 (ofBytes (padTo 16 bs))) 128 0 h) (bs.drop 16)

/-- Bytes padded with zeros to whole blocks. -/
def pad16 (bs : List Byte) : List Byte := padTo ((bs.length + 15) / 16 * 16) bs

/-- The bytes that counter blocks after block `c` add to a text. -/
def gcmStream (keys : List (List Byte)) (nonce : List Byte) (c n : Nat) : List Byte :=
  (List.range n).flatMap (fun i => aesBlock keys (nonce ++ toBytes 4 (c + 1 + i)))

/-- AES-256-GCM decryption with a 12-byte nonce; none: the tag does not verify. -/
@[irreducible] def gcmOpen (key nonce aad text tag : List Byte) : Option (List Byte) :=
  let keys := aesKeys key
  let h := BitVec.ofNat 128 (ofBytes (aesBlock keys (zeros 16)))
  let m := pad16 aad ++ pad16 text ++ toBytes 8 (8 * aad.length) ++ toBytes 8 (8 * text.length)
  let t := xorAll (toBytes 16 (ghash h (m.length / 16) 0 m).toNat) (aesBlock keys (nonce ++ toBytes 4 1))
  if t = tag then some (xorAll text (gcmStream keys nonce 1 ((text.length + 15) / 16))) else none

end Sys2Proof.Machine
end

