-- ==== Sys2Proof/Machine/MicroWord.lean ====
section
/-!
DEFINITION. Microwords and match-register images (07 R163, R168, R170 to R172): parity, the words of the ROM, the reserved and the
illegal words.
-/
namespace Sys2Proof.Machine

/-- Even parity over each byte of a microword's bits 31:0, as bits 35:32 (07 R163). -/
def microParity (w : Nat) : Nat := ((List.range 4).map (fun n => b2n (parity 8 (w / 256 ^ n % 256)) * 2 ^ n)).sum

/-- A microword with its parity. -/
def microword (w : Nat) : BitVec 36 := BitVec.ofNat 36 (microParity w * 2 ^ 32 + w % 2 ^ 32)

/-- The illegal microword of unused patch RAM words (07 R171). -/
def illegalWord : BitVec 36 := 0x8_E000_0000

/-- A match-register image with its two parity bits (07 UC_PEEK_DATA). -/
def matchImage (m : W32) : W32 := setFld m 0 2 (Config.matchParity (setFld m 0 2 0)).toNat

/-- Whether a match-register image has its parity (07 R172). -/
def matchRight (m : W32) : Bool := m == matchImage m

/-- Whether an OPID names an interruptible instruction (03 CONT[0]). -/
def opidUsed (o : Nat) : Bool := (1 ≤ o && o ≤ 6) || (8 ≤ o && o ≤ 12)

/-- OPID of an interruptible instruction (03 CONT[0]). -/
def opidOf : Op → Option Nat
  | .mvs => some 1 | .cls => some 2 | .trs => some 3 | .scn => some 4 | .edit => some 5 | .edmk => some 6
  | .dmul => some 8 | .ddiv => some 9 | .drem => some 10 | .daddm => some 11 | .dsubm => some 12
  | _ => none

/-- A TRAPPT microword (07 Table 7.5). -/
def trapptWord (tgt opid : Nat) : BitVec 36 := microword (0x7000_0000 + tgt * 2 ^ 16 + opid * 2 ^ 11)

/-- The ROM word at a micro-address below 0x2000: a TRAPPT at each trap point (07 R168), elsewhere a word that the spec does not print;
its parity is right. -/
def romWord (u : BitVec 14) : BitVec 36 :=
  let a := BitVec.ofNat 13 u.toNat
  let k := (Config.romPlace.symm a).toNat
  if opidUsed (k / 64) && k % 64 ≤ (Config.romPoints (BitVec.ofNat 5 (k / 64))).toNat then trapptWord (Config.romTarget a).toNat (k / 64)
  else microword (Config.romBits a).toNat

/-- Whether the ROM's routine for an instruction has a word at an address: its entry, one of its trap points, or another on its paths. -/
def romWordOf (o : Op) (a : BitVec 13) : Bool :=
  a == Config.romEntry o || Config.romUses o a ||
    (match opidOf o with
      | some n =>
        let k := (Config.romPlace.symm a).toNat
        k / 64 == n && k % 64 ≤ (Config.romPoints (BitVec.ofNat 5 n)).toNat
      | none => false)

/-- Micro-address in ROM of the trap point that an instruction stands at after a run (07 R168). -/
def resumeUpc (opid : BitVec 5) (run : Nat) : BitVec 14 :=
  BitVec.ofNat 14 (Config.romPlace (BitVec.ofNat 13 (opid.toNat * 64 + min (Config.trapPoint opid run).toNat (Config.romPoints opid).toNat))).toNat

/-- Whether a microword is the TRAPPT of an OPID (07 Table 7.5). -/
def isTrappt (w : BitVec 36) (opid : BitVec 5) : Bool := fld w 29 3 == 3 && fld w 26 3 == 4 && fld w 11 5 == opid.toNat

/-- Whether a register select is reserved (07 R164). -/
def selReserved (n : Nat) : Bool := n ≥ 56

/-- Whether a reserved field of a microword holds a 1, or a field a reserved code (07 Tables 7.2, 7.3 and 7.5). -/
def reservedMicro (w : BitVec 36) : Bool :=
  match fld w 29 3 with
  | 0 => fld w 0 3 != 0 || fld w 24 5 ≥ 19 || selReserved (fld w 18 6) || selReserved (fld w 12 6) || selReserved (fld w 6 6)
  | 1 => fld w 0 5 != 0 || fld w 25 4 ≥ 11 || fld w 21 4 ≥ 12 || fld w 17 4 ≥ 12 || fld w 13 4 ≥ 12
  | 2 => fld w 0 8 != 0 || selReserved (fld w 16 6) || (fld w 8 2 == 0 && fld w 25 2 == 0)
  | 3 => (match fld w 26 3 with
    | 2 | 3 => fld w 0 26 != 0
    | 4 => fld w 0 11 != 0
    | 5 => fld w 21 5 != 0 || fld w 0 8 != 0 || fld w 16 5 == 0 || fld w 16 5 ≥ 19
    | _ => false)
  | 4 => fld w 16 4 != 0 || selReserved (fld w 23 6)
  | _ => false

/-- Whether a microword is illegal (07 R163). -/
def illegalMicro (w : BitVec 36) : Bool := fld w 29 3 ≥ 5 || (fld w 29 3 == 3 && fld w 26 3 ≥ 6) || reservedMicro w

end Sys2Proof.Machine
end

