-- ==== Sys2Proof/Machine/Ops.lean ====
section
/-!
DEFINITION. The shared operations of a ledger core: its registers, the sync-class writes (05 R141), taking a trap
(R123) and returning (R126), the monad an instruction runs in, block translation (10 R262 to R270), and the loads and
stores of instructions (05 R143, R144; 09 R224, R225).
-/
namespace Sys2Proof.Machine

/-! ### Registers of the current bank -/

/-- Gn of a bank. -/
def Bank.rd (b : Bank) (n : Nat) : W64 := SMap.get 0 b.g n

/-- A bank with Gn written and its group's dirty bit set (05 R131). -/
def Bank.wr (b : Bank) (n : Nat) (v : W64) : Bank := { b with g := SMap.put b.g n v, dirty := b.dirty ||| BitVec.ofNat 5 (2 ^ (n / 8)) }

/-- A bank with the control group's dirty bit set. -/
def Bank.ctlDirty (b : Bank) : Bank := { b with dirty := b.dirty ||| 16 }

/-- Gn of the core's current bank. -/
def Core.g (x : Core) (n : Nat) : W64 := x.cb.rd n

/-- The core with Gn of its current bank written. -/
def Core.setG (x : Core) (n : Nat) (v : W64) : Core := x.modCb (fun b => b.wr n v)

/-- The core with a change to the control group of its current bank. -/
def Core.ctl (x : Core) (f : Bank → Bank) : Core := x.modCb (fun b => (f b).ctlDirty)

/-- CSW of the current bank. -/
def Core.csw (x : Core) : CSW := x.cb.csw

/-- CSW as 32 bits, with its BANK field. -/
def CSW.pack (w : CSW) (bank : Nat) : W32 :=
  BitVec.ofNat 32 (w.ctag.toNat * 2 ^ 24 + bank % 16 * 2 ^ 20 + b2n w.resume * 2 ^ 19 + b2n w.rstrap * 2 ^ 18 + w.mode.toNat * 2 ^ 16 +
    b2n w.priv * 2 ^ 15 + w.key.toNat * 2 ^ 11 + w.imask.toNat * 2 ^ 7 + w.rmode.toNat * 2 ^ 4 + b2n w.sat * 8 + b2n w.dovt * 4 + b2n w.bovt * 2)

/-- The fields of a 32-bit value laid out as CSW; BANK is ignored. -/
def CSW.unpack (v : W32) : CSW :=
  { ctag := BitVec.ofNat 8 (fld v 24 8), resume := bit v 19, rstrap := bit v 18, mode := BitVec.ofNat 2 (fld v 16 2), priv := bit v 15
    key := BitVec.ofNat 4 (fld v 11 4), imask := BitVec.ofNat 4 (fld v 7 4), rmode := BitVec.ofNat 3 (fld v 4 3), sat := bit v 3
    dovt := bit v 2, bovt := bit v 1 }

/-- FCSW as 32 bits. -/
def FCSW.pack (w : FCSW) : W32 := BitVec.ofNat 32 (w.frm.toNat * 2 ^ 10 + w.en.toNat * 2 ^ 5 + w.fl.toNat)

/-- The fields of a 32-bit value laid out as FCSW. -/
def FCSW.unpack (v : W32) : FCSW := ⟨BitVec.ofNat 3 (fld v 10 3), BitVec.ofNat 5 (fld v 5 5), BitVec.ofNat 5 (fld v 0 5)⟩

/-- BWIN as 32 bits. -/
def BWin.pack (w : BWin) : W32 := BitVec.ofNat 32 (b2n w.inc * 2 ^ 15 + w.reg.toNat * 2 ^ 8 + w.bank.toNat)

/-- The fields of a 32-bit value laid out as BWIN. -/
def BWin.unpack (v : W32) : BWin := ⟨bit v 15, BitVec.ofNat 6 (fld v 8 6), BitVec.ofNat 4 (fld v 0 4)⟩

/-- CSW of the current bank with every pending sync-class write applied, as MFCR reads it (05 R141). -/
def Core.cswPending (x : Core) : CSW :=
  { x.csw with key := x.pendKey.getD x.csw.key, ctag := x.pendCtag.getD x.csw.ctag, mode := x.pendMode.getD x.csw.mode }

/-- The fetch latch emptied. -/
def Core.emptyLatch (x : Core) : Core := { x with latch := none }

/-! ### Block descriptors (10 Table 10.2, R265) -/

/-- First virtual frame of a descriptor's block. -/
def descVbase (d0 : W64) : Nat := fld d0 36 20

/-- Frames in the block, minus 1. -/
def descNfr (d0 : W64) : Nat := fld d0 16 16

/-- First physical address of the block. -/
def descPbase (d1 : W64) : Nat := fld d1 12 28 * 4096

/-- Whether the block holds a virtual address. -/
def descHolds (d0 : W64) (v : Nat) : Bool := descVbase d0 ≤ v / 4096 && v / 4096 ≤ descVbase d0 + descNfr d0

/-- The format rules, for a descriptor in sector s. -/
def descFormat (d0 d1 : W64) (s : Nat) : Bool :=
  fld d0 56 7 == 0 && fld d0 32 4 == 0 && fld d0 14 2 == 0 && fld d0 2 6 == 0 && fld d1 40 24 == 0 && fld d1 0 12 == 0 &&
    fld d0 52 4 == s && descVbase d0 + descNfr d0 ≤ s * 65536 + 65535

/-- The reach rule: the physical range lies in the core's own working store or its own frond store. -/
def descReach (c : Nat) (d0 d1 : W64) : Bool :=
  let lo := descPbase d1
  let hi := lo + (descNfr d0 + 1) * 4096
  (workBase c ≤ lo && hi ≤ workBase c + 0x4_0000) ||
    (frondBase (frondOf c) ≤ lo && hi ≤ frondBase (frondOf c) + 0x20_0000)

/-- A block register; invalid at core reset. -/
def Core.brAt (x : Core) (n : Nat) : BlockReg := SMap.get ⟨false, 0, 0, 0, none⟩ x.br n

/-- A number moved to the front of a ranking. -/
def touchRank (l : List Nat) (n : Nat) : List Nat := n :: l.filter (· != n)

/-- Block registers for which `p` holds made invalid. -/
def Core.invalidate (x : Core) (p : BlockReg → Bool) : Core :=
  { x with br := (List.range 16).foldl (fun m n => let r := SMap.get ⟨false, 0, 0, 0, none⟩ m n
                                                 if r.valid && p r then SMap.put m n { r with valid := false } else m) x.br }

/-! ### Sync-class writes (05 R141, 10 R273, R275) -/

/-- One pending block-register image of core c installed, after its check (R275). -/
def installImage (c : Nat) (d : Dev) (n : Nat) : Dev :=
  let k := rk .coreProt c (0x200 + 32 * n)
  let d0 : W64 := d.reg k ++ d.reg (k + 4)
  let d1 : W64 := d.reg (k + 8) ++ d.reg (k + 12)
  let tagw := d.reg (k + 16)
  let put (v : Bool) (y : Dev) : Dev :=
    y.modCore c (fun x => { x with br := SMap.put x.br n ⟨v, BitVec.ofNat 8 (fld tagw 0 8), d0, d1, none⟩
                                   brRank := if v then touchRank x.brRank n else x.brRank })
  if !bit tagw 31 then put false d
  else if descFormat d0 d1 (fld d0 52 4) && descReach c d0 d1 then put true d
  else (put false d).cfgErr (PageT.first .coreProt + c)

/-- Every pending block-register image installed (R275). -/
def installImages (c : Nat) (d : Dev) : Dev :=
  ((d.core c).brImage.foldl (installImage c) d).modCore c (fun x => { x with brImage := [] })

/-- The pending sync-class writes of CSW, TVB and BWIN applied to a core; a CTAG write invalidates the registers tagged
with the value written (10 R273). -/
def Core.applySync (x : Core) : Core :=
  let x1 := match x.pendCtag with
    | some t => x.invalidate (fun r => r.tag == t)
    | none => x
  let dirty := x.pendKey.isSome || x.pendCtag.isSome || x.pendMode.isSome
  let x2 := { x1 with tvb := x.pendTvb.getD x.tvb, bwin := x.pendBwin.getD x.bwin, pendTvb := none, pendBwin := none
                      pendKey := none, pendCtag := none, pendMode := none }
  if dirty then x2.ctl (fun b => { b with csw := x.cswPending }) else x2

/-- Every pending sync-class write of core c applied and its fetch latch emptied. -/
def syncCore (c : Nat) (d : Dev) : Dev := (installImages c (d.modCore c Core.applySync)).modCore c Core.emptyLatch

/-- A pending load-delay write made (05 R139, R140). -/
def Core.makeLoad (x : Core) : Core :=
  match x.ldPend with
  | none => x
  | some (n, v) => { x.setG n v with ldPend := none }

/-! ### Taking a trap (05 R123) and returning from one (R126) -/

/-- TCAUSE of a trap (05, TCAUSE). -/
def tcauseOf (code acc sub detail : Nat) : BitVec 32 :=
  BitVec.ofNat 32 (code % 32 * 2 ^ 27 + acc % 8 * 2 ^ 24 + sub % 256 * 2 ^ 16 + detail % 65536)

/-- Whether a trap class is entered in BF (05 Table 5.2). -/
def entersBF (code : Nat) : Bool := code == 15 || code == 16 || code == 18

/-- The register part of a trap entry, after the sync-class writes have been applied: the return saved, IMASK, the
cause and address, and the vector, as R123's pseudocode gives. -/
def Core.enter (x : Core) (code acc sub detail : Nat) (taddr : W64) : Core :=
  let x1 :=
    if entersBF code && x.inBF then x.ctl (fun b => { b with csw := { b.csw with imask := 15 } })
    else if entersBF code then
      let from_ := x.cb
      { x.setBank 8 { x.bank 8 with tpc := from_.pc, tcsw := from_.csw, tcswBank := BitVec.ofNat 4 x.cur
                                    csw := { (x.bank 8).csw with imask := 15 } } with cur := 8 }
    else x.ctl (fun b => { b with tpc := b.pc, tcsw := b.csw, tcswBank := BitVec.ofNat 4 x.cur
                                  csw := { b.csw with resume := false, imask := b.csw.imask ||| 7 } })
  x1.ctl (fun b => { b with tcause := tcauseOf code acc sub detail, taddr := taddr
                            csw := { b.csw with mode := 0, priv := true, key := 0 }
                            pc := BitVec.ofNat 16 (x1.tvb.toNat * 256 + code * 8) })

/-- The sequencer with its micro-return stack empty and no instruction in hand (07 R166). -/
def Core.microIdle (x : Core) : Core := { x with micro := { x.micro with stack := [], next := none } }

/-- Trap entry of core c for a code (R123): pending sync-class writes applied, the latch emptied, a pending load made,
any prefetch ended (10 R271), then the entry, 12 cc; the core runs. -/
def trapEntry (c code acc sub detail : Nat) (taddr : W64) (d : Dev) : Dev :=
  (syncCore c d).modCore c (fun x =>
    { (x.makeLoad.microIdle).enter code acc sub detail taddr with
        prefetch := none, run := .running, flight := none, spent := x.spent + 12 })

/-- The return of RETT (R126), after the sync-class writes have been applied: PC and CSW restored, or BF left for the
bank BF.TCSW.BANK names. -/
def Core.rettTo (x : Core) : Core :=
  if x.inBF then
    let b := x.cb
    let x1 := { x with cur := b.tcswBank.toNat }
    x1.ctl (fun y => { y with pc := b.tpc, csw := b.tcsw })
  else x.ctl (fun b => { b with pc := b.tpc, csw := b.tcsw })

/-! ### The monad of an instruction -/

/-- Why an instruction ends before it completes. -/
inductive Stop where
  /-- a fault of 05 Table 5.2 -/
  | trap (code acc sub detail : Nat) (taddr : W64)
  /-- a machine check with this SUB of 07 Table 7.6 -/
  | mck (sub : Nat)
  /-- an uncorrectable word was read (09 R225) -/
  | uncorr
  /-- the run is abandoned at a walk for an interrupt (05 R129) -/
  | abandon
  deriving DecidableEq, Repr

/-- What an instruction does to the device; a stop keeps what has been stored so far. -/
abbrev X := EStateM Stop Dev

/-- A trap raised. -/
def raise {α : Type} (code : Nat) (acc sub detail : Nat := 0) (taddr : W64 := 0) : X α := throw (.trap code acc sub detail taddr)

/-- Specification trap (2). -/
def specTrap {α : Type} : X α := raise 2

/-- The running core. -/
def core (c : Nat) : X Core := do return (← get).core c

/-- The running core changed. -/
def onCore (c : Nat) (f : Core → Core) : X Unit := modify (fun d => d.modCore c f)

/-- The far chunk that comes due in `n` cycles of the sequencer written into MDR (07 R162). -/
def Core.landDue (x : Core) (n : Nat) : Core :=
  { x with micro := { x.micro with
             mdr := ((x.micro.due.filter (fun e => decide (e.1 ≤ n))).getLast?.map (·.2)).getD x.micro.mdr
             due := (x.micro.due.filter (fun e => decide (n < e.1))).map (fun e => (e.1 - n, e.2)) } }

/-- The cycles of the run in progress: none where microwords that have been counted already have paid for it (07 R170). -/
def Core.cycles (x : Core) : Nat := if x.paid then 0 else x.spent

/-- The work that microwords have paid for is done: what it has spent is not counted, what follows is. -/
def Core.unpaid (x : Core) : Core := if x.paid then { x with spent := 0, unbilled := 0, paid := false } else x

/-- Cycles spent by the instruction (06 R146). -/
def tick (c n : Nat) : X Unit := onCore c (fun x => { x with spent := x.spent + n })

/-- Chunks of 16 bytes an operand touches (06 R148). -/
def chunks (a n : Nat) : Nat := (a % 16 + n - 1) / 16 + 1

/-! ### Parts, translation, checks (10 R259 to R270) -/

/-- A translated part of an access. -/
structure Part where
  va : Nat
  n : Nat
  /-- second part of the access -/
  second : Bool
  pa : Nat
  tier : Tier
  /-- the block register that translated it -/
  br : Nat
  /-- the table descriptor that register was filled from -/
  src : Option Nat
  /-- the register's copy of D -/
  dbit : Bool
  d0 : W64
  deriving DecidableEq, Repr

/-- The parts of a core access: pieces in one virtual 4 KiB frame, ascending, wrapping at 2^32 (10 R259, 06 R148). -/
def vpartsFrom (va n : Nat) (second : Bool) : Nat → List (Nat × Nat × Bool)
  | 0 => []
  | fuel + 1 =>
    if n = 0 then [] else
      let k := min n (4096 - va % 4096)
      (va % 2 ^ 32, k, second) :: vpartsFrom (va + k) (n - k) true fuel

/-- Parts of `n` bytes at a virtual address. -/
def vparts (va n : Nat) : List (Nat × Nat × Bool) := vpartsFrom va n false (n / 4096 + 2)

/-- ACC of a trap for an access (05, TCAUSE; 10 R260). -/
def accCode : Acc → Nat
  | .read => 1
  | .write | .rw | .exec => 2
  | .walk => 3

/-- TADDR holding a physical address. -/
def physTaddr (a : Nat) : W64 := BitVec.ofNat 64 (2 ^ 63 + a)

/-- The newest buffered value of a byte (05 R144). -/
def wbufByte (w : List WEntry) (a : Nat) : Option Byte :=
  w.foldl (fun r e => if e.addr ≤ a ∧ a < e.addr + e.bytes.length then e.bytes[a - e.addr]? else r) none

/-- Bytes of the core's own stores as its reads see them: the store merged with the write buffer (R144). A word is taken
from the store when one of its bytes is; an uncorrectable one stops the core (09 R225). -/
def mergedRead (c : Nat) (t : Tier) (a n : Nat) : X (List Byte) := do
  let x ← core c
  let isFar := match t with
    | .frond _ => true
    | _ => false
  let w := if isFar then x.wbuf else []
  let fromStore := (List.range n).filter (fun i => (wbufByte w (a + i)).isNone)
  let words := (wordsOf a n).filter (fun v => fromStore.any (fun i => (a + i) / 8 * 8 == v))
  match (← get).eccRead t words with
  | (d, some v) => set (d.eccUncorr t 0 c v); throw .uncorr
  | (d, none) =>
    set d
    return (List.range n).map (fun i => (wbufByte w (a + i)).getD (d.byte (a + i)))

/-- CT_FRAME of the context on a core: the open item's, which it was admitted under (08 R188), or with none open the last admitted one's. -/
def Dev.frameOf (d : Dev) (x : Core) : W32 :=
  match x.item.bind d.item? with
  | some it => it.frame
  | none => SMap.get 0 d.qFrame x.cb.ctx.toNat

/-- Physical address of the block table a core's walks read (10 R263); an open item keeps the frame it was admitted under (08 R188; log
entry 65). -/
def walkTable (d : Dev) (c : Nat) : Nat :=
  let x := d.core c
  if x.inBF || !x.cb.res then
    d.rf (rk .coreProt c 0x104) 9 23 * 512 + d.rf (rk .coreProt c 0x108) 0 8 * 2 ^ 32
  else frondBase (frondOf c) + fld (d.frameOf x) 13 10 * 2048 + 0x200

/-- How a walk ends. -/
inductive WalkEnd where
  | filled (n : Nat) (r : BlockReg)
  | fault (sub : Nat) (walk : Bool)
  deriving DecidableEq, Repr

/-- The register a walk fills (R269). -/
def victimBr (x : Core) : Nat :=
  match (List.range 16).find? (fun n => !(x.brAt n).valid) with
  | some n => n
  | none => x.brRank.getLast?.getD 0

/-- Descriptors of a sector: address and two doublewords. -/
def sectorDescs (da : Nat) (bs : List Byte) : List (Nat × W64 × W64) :=
  (List.range 4).map (fun i => (da + 16 * i, BitVec.ofNat 64 (beAt bs (16 * i) 8), BitVec.ofNat 64 (beAt bs (16 * i + 8) 8)))

/-- Whether two descriptors share a frame. -/
def descOverlap (a b : W64) : Bool :=
  descVbase a ≤ descVbase b + descNfr b && descVbase b ≤ descVbase a + descNfr a

/-- Whether some two of a list overlap. -/
def anyOverlap : List W64 → Bool
  | [] => false
  | a :: t => t.any (descOverlap a) || anyOverlap t

/-- What the four descriptors of sector s give for an address (R267): the descriptor, or the fault. -/
def pickDesc (c s v : Nat) (ds : List (Nat × W64 × W64)) : Except Nat (Nat × W64 × W64) :=
  let live := ds.filter (fun e => bit e.2.1 63)
  if live.any (fun e => !descFormat e.2.1 e.2.2 s) then .error 3
  else if anyOverlap (live.map (·.2.1)) then .error 4
  else match live.find? (fun e => descHolds e.2.1 v) with
    | none => .error 1
    | some e => if descReach c e.2.1 e.2.2 then .ok e else .error 5

/-- A walk of core c for a virtual address (R267); `record`: a denial is recorded, which a prefetch does not (R271). -/
def walk (c v : Nat) (record : Bool) : X WalkEnd := do
  let d ← get
  let da := walkTable d c + 64 * (v / 2 ^ 28 % 16)
  let f := Tier.frond (frondOf c)
  if !(f.base ≤ da && da + 64 ≤ f.base + f.size) then return .fault 6 true
  let r : Req := ⟨c, .core, d.rf (rk .coreProt c 0x100) 0 4, true⟩
  match d.checkPart r true f da .walk with
  | (d1, some _) =>
    if record then set d1
    return .fault 7 true
  | (d1, none) =>
    set (d1.markKey da .read)
    let bs ← mergedRead c f da 64
    match pickDesc c (v / 2 ^ 28 % 16) v (sectorDescs da bs) with
    | .error sub => return .fault sub false
    | .ok (a, d0, w1) =>
      modify (fun y => (y.orByte f c (a + 7) 2).markKey da .walk)
      let x ← core c
      let n := victimBr x
      let br : BlockReg := ⟨true, x.csw.ctag, d0 ||| 2, w1, some a⟩
      onCore c (fun y => { y with br := SMap.put y.br n br, brRank := touchRank y.brRank n })
      return .filled n br

/-- The block register that translates an address (R262): the lowest-numbered hit. -/
def Core.brHit (x : Core) (v : Nat) : Option Nat :=
  (List.range 16).find? (fun n => let r := x.brAt n; r.valid && r.tag == x.csw.ctag && descHolds r.d0 v)

/-- Whether a block gives the right an access needs at a privilege (R266). -/
def blockRight (d0 : W64) (priv : Bool) (a : Acc) : Bool :=
  let r := if priv then bit d0 10 else bit d0 13
  let w := if priv then bit d0 9 else bit d0 12
  (!a.reads || r) && (!a.writes || w)

/-- The test before and after a walk (05 R129): with no byte stored, a core timer that has run out in the cycles of this
run, unmasked, abandons the run, and so does a source that became pending by this cycle of it (`intAt`). Every other source was tested
at the boundary or trap point before. -/
def abandonTest (c : Nat) : X Unit := do
  let x ← core c
  let timer := !x.csw.imask.getLsbD 1 && x.ctimer.toNat > 0 && x.cycles ≥ x.ctimer.toNat
  let event := match x.intAt with
    | some n => decide (x.cycles ≥ n)
    | none => false
  if !x.stored && !x.inBF && (timer || event) then throw .abandon

/-- A walk of 72 cc between its two tests (06 Table 6.1, 10 R267), each the cycle of a word of its own (07 R162): the sequencer watchdog
may run out in them (07 R178). It ends a prefetch in progress. -/
def timedWalk (c v : Nat) : X WalkEnd := do
  abandonTest c
  let x ← core c
  if x.wdog + x.cycles + 72 ≥ 4096 then
    tick c (4096 - (x.wdog + x.cycles))
    throw (.mck 6)
  onCore c (fun y => { y with prefetch := none, spent := y.spent + 72 })
  let w ← walk c v true
  abandonTest c
  return w

/-- One part translated: a hit, or a walk of 72 cc; then the block's right (R262, R266, R267). -/
def xlatPart (c : Nat) (a : Acc) (va n : Nat) (second : Bool) : X Part := do
  let x ← core c
  let (i, r) ← match x.brHit va with
    | some i =>
      onCore c (fun y => { y with brRank := touchRank y.brRank i })
      pure (i, x.brAt i)
    | none =>
      match ← timedWalk c va with
      | .filled i r => pure (i, r)
      | .fault sub isWalk => raise 5 (if isWalk then 3 else accCode a) sub (b2n second) (BitVec.ofNat 64 va)
  if !blockRight r.d0 x.csw.priv a then raise 5 (accCode a) 2 (b2n second) (BitVec.ofNat 64 va)
  let pa := descPbase r.d1 + (va - descVbase r.d0 * 4096)
  let tier := if frondBase 0 ≤ pa ∧ pa < workBase 0 then Tier.frond (frondOf c) else Tier.working c
  return ⟨va, n, second, pa, tier, i, r.src, bit r.d0 0, r.d0⟩

/-- Who a core's instruction access is made as (10 Table 10.1). -/
def coreReq (x : Core) (c : Nat) : Req := ⟨c, .core, x.csw.key.toNat, x.csw.priv⟩

/-- Key check, then gate check, of a translated part (R260). -/
def protPart (c : Nat) (a : Acc) (p : Part) : X Unit := do
  let x ← core c
  match (← get).checkPart (coreReq x c) true p.tier p.pa a with
  | (d, none) => set d
  | (d, some den) =>
    set d
    raise (if den = .key then 4 else 6) (accCode a) 0 (b2n p.second) (physTaddr p.pa)

/-- Whether a part lies in the frond store. -/
def Part.far (p : Part) : Bool := match p.tier with
  | .frond _ => true
  | _ => false

/-- Cycles of a part's chunks: `near` each, and `far` more for each chunk of the frond store (06 R149). -/
def tickPart (c near far : Nat) (p : Part) : X Unit := tick c (chunks p.va p.n * (near + if p.far then far else 0))

/-- A checked part read. -/
def readPart (c : Nat) (p : Part) : X (List Byte) := do
  modify (fun d => d.markKey p.pa .read)
  mergedRead c p.tier p.pa p.n

/-- The D bit of the block a stored part went through (R270). -/
def setDirty (c : Nat) (p : Part) : X Unit := do
  if !p.dbit then
    (match p.src with
      | some a => modify (fun d => (d.orByte (Tier.frond (frondOf c)) c (a + 7) 1).markKey a .walk)
      | none => pure ())
    onCore c (fun x =>
      let r := x.brAt p.br
      if r.valid && r.src == p.src && r.d0 ||| 3 == p.d0 ||| 3 then { x with br := SMap.put x.br p.br { r with d0 := r.d0 ||| 1 } } else x)

/-- The oldest write-buffer entry of core c written to the frond store (05 R143). -/
def drainOne (c : Nat) (d : Dev) : Dev :=
  match (d.core c).wbuf with
  | [] => d
  | e :: t => (d.store (Tier.frond (frondOf c)) c e.addr e.bytes).modCore c (fun x => { x with wbuf := t })

/-- Every write-buffer entry of core c written, oldest first. -/
def drainAll (c : Nat) (d : Dev) : Dev := (List.range (d.core c).wbuf.length).foldl (fun y _ => drainOne c y) d

/-- A piece of a far store put into the write buffer; with four entries held the oldest is written first (R143). -/
def pushEntry (c a : Nat) (bs : List Byte) (d : Dev) : Dev :=
  let d1 := if (d.core c).wbuf.length < 4 then d else drainOne c d
  d1.modCore c (fun x => { x with wbuf := x.wbuf ++ [⟨a, bs⟩] })

/-- A far store cut at its 16-byte chunks. -/
def pushChunks (c : Nat) : Nat → Nat → List Byte → Dev → Dev
  | 0, _, _, d => d
  | fuel + 1, a, bs, d =>
    if bs.isEmpty then d else
      let k := 16 - a % 16
      pushChunks c fuel (a + k) (bs.drop k) (pushEntry c a (bs.take k) d)

/-- A checked part stored: near at once, far through the write buffer; then the block's D bit. -/
def writePart (c : Nat) (p : Part) (bs : List Byte) : X Unit := do
  modify (fun d =>
    let d1 := d.markKey p.pa .write
    (if p.far then pushChunks c (bs.length + 1) p.pa bs d1 else d1.store p.tier c p.pa bs).modCore c (fun x => { x with stored := true }))
  setDirty c p

/-- Every part translated, checked and read in turn (R259), with its cycles. -/
def loadParts (c near far : Nat) : List (Nat × Nat × Bool) → X (List Byte)
  | [] => return []
  | (va, n, s) :: t => do
    let p ← xlatPart c .read va n s
    protPart c .read p
    tickPart c near far p
    let bs ← readPart c p
    let bs' ← loadParts c near far t
    return bs ++ bs'

/-- `n` bytes loaded from a virtual address, one cycle a near chunk and 8 more a far one (06 R149). -/
def load (c va n : Nat) : X (List Byte) := loadParts c 1 8 (vparts va n)

/-- Every part translated, checked and stored in turn, with its cycles. -/
def storeParts (c near far : Nat) : List (Nat × Nat × Bool) → List Byte → X Unit
  | [], _ => return ()
  | (va, n, s) :: t, bs => do
    let p ← xlatPart c .write va n s
    protPart c .write p
    tickPart c near far p
    writePart c p (bs.take n)
    storeParts c near far t (bs.drop n)

/-- Bytes stored at a virtual address. -/
def store (c va : Nat) (bs : List Byte) : X Unit := storeParts c 1 8 (vparts va bs.length) bs

/-- Every part translated, in ascending order. -/
def xlatAll (c : Nat) (a : Acc) : List (Nat × Nat × Bool) → X (List Part)
  | [] => return []
  | (va, n, s) :: t => do
    let p ← xlatPart c a va n s
    let ps ← xlatAll c a t
    return p :: ps

/-- Every part checked for its key and gate, in ascending order. -/
def protAll (c : Nat) (a : Acc) : List Part → X Unit
  | [] => return ()
  | p :: t => do
    protPart c a p
    protAll c a t

/-- Every part read. -/
def readAll (c : Nat) : List Part → X (List Byte)
  | [] => return []
  | p :: t => do
    let bs ← readPart c p
    let bs' ← readAll c t
    return bs ++ bs'

/-- Every part stored. -/
def writeAll (c : Nat) : List Part → List Byte → X Unit
  | [], _ => return ()
  | p :: t, bs => do
    writePart c p (bs.take p.n)
    writeAll c t (bs.drop p.n)

/-- Far chunks of parts. -/
def farChunks (ps : List Part) : Nat := (ps.map (fun p => if p.far then chunks p.va p.n else 0)).sum

/-! ### Asynchronous traps (05 R122, R127, R138) -/

/-- Whether core c's Graticule doorbell is pending: its FIFO holds an entry (08 R209). -/
def dbPending (d : Dev) (c : Nat) : Bool := !(SMap.get [] d.db c).isEmpty

/-- Whether core c's host source is pending (12 R338). -/
def hostPending (d : Dev) (c : Nat) : Bool := d.rbit (rk .mbx 0 (0x220 + 4 * (c / 32))) (c % 32)

/-- The external sources pending and unmasked at core c: bit 0 doorbell, 1 core timer, 2 host. -/
def externals (d : Dev) (c : Nat) : Nat :=
  let x := d.core c
  let m := x.csw.imask
  b2n (dbPending d c && !m.getLsbD 0) + 2 * b2n (x.pendTimer && !m.getLsbD 1) + 4 * b2n (hostPending d c && !m.getLsbD 2)

/-- The asynchronous trap core c takes at a boundary or trap point (R122): fast interrupt, then budget overrun, then
external; none while BF is current (R138; log entry 14). -/
def asyncDue (d : Dev) (c : Nat) : Option Nat :=
  let x := d.core c
  if x.inBF then none
  else if x.pendFast && !x.csw.imask.getLsbD 3 then some 18
  else if x.pendOverrun then some 13
  else if externals d c ≠ 0 then some 17
  else none

/-- The host source of core c acknowledged: its bit of HIRQ_PEND cleared (12 R338). -/
def ackHost (c : Nat) (d : Dev) : Dev := d.setRf (rk .mbx 0 (0x220 + 4 * (c / 32))) (c % 32) 1 0

/-- The entry of an asynchronous trap; a taken fast interrupt, overrun or host interrupt is no longer pending. -/
def takeAsync (c code : Nat) (d : Dev) : Dev :=
  let detail := if code = 17 then externals d c else 0
  let d1 := if detail / 4 = 1 then ackHost c d else d
  trapEntry c code 0 0 detail 0 (d1.modCore c (fun x =>
    if code = 18 then { x with pendFast := false } else if code = 13 then { x with pendOverrun := false } else x))

/-! ### Cycles (06 R146, R160; 05 CTIMER; 07 R178) -/

/-- The cycles of the run that has ended entered in the core's counters: BUDGET while an item's bank is current (its
grace of 256 once, 08 R205), CTIMER with its pending bit, the context watchdog, the cycle count. A run ends where the sequencer watchdog
is re-armed, but in machine-check state it is not (07 R178, R175). Where microwords have paid for the work, their cycles alone count. -/
def Core.account (x : Core) : Core :=
  let n := x.cycles
  let counts := x.item.isSome && !x.inBF
  let b := x.budget.toNat
  let k := n - x.unbilled
  let hit := counts && k ≥ b && b > 0
  { x with
      spent := 0
      unbilled := 0
      cc := x.cc + n
      ctxCc := x.ctxCc + n
      ctimer := BitVec.ofNat 32 (x.ctimer.toNat - n)
      pendTimer := x.pendTimer || (x.ctimer.toNat > 0 && n ≥ x.ctimer.toNat)
      budget := if hit then (if x.onGrace then 0 else BitVec.ofNat 32 (256 - (k - b))) else if counts then BitVec.ofNat 32 (b - k) else x.budget
      onGrace := x.onGrace || hit
      pendOverrun := x.pendOverrun || (hit && !x.onGrace)
      wdog := if x.mck then x.wdog + n else 0
      wdogHi := max x.wdogHi (x.wdog + n) }

end Sys2Proof.Machine
end

