-- ==== Sys2Proof/Machine/CoreDecode.lean ====
section
/-!
DEFINITION. Decoding the program words at PC (01 R27 to R42, Tables 1.3 to 1.9): the forms, the opcode table, and the
decode checks of R36 in their order. Total on any words.
-/
namespace Sys2Proof.Machine

/-- An operand specifier (01 Table 1.4). -/
inductive Spec where
  | near (a : Nat)
  | x1 (scale disp : Nat)
  | x2 (scale disp : Nat)
  | x1post
  | x2pre
  | spRel (disp : Nat)
  /-- immediate: its binary value, and its decimal sign and two digits -/
  | imm (bin : W64) (neg : Bool) (digits : Byte)
  | ext (a : Nat)
  deriving DecidableEq, Repr

/-- Index register a specifier steps. -/
def Spec.steps : Spec → Nat
  | .x1post => 1
  | .x2pre => 2
  | _ => 0

/-- A decoded instruction: the fields its form has; the others are 0. -/
structure Dec where
  op : Op
  /-- words of the instruction -/
  n : Nat := 1
  s1 : Spec := .near 0
  s2 : Spec := .near 0
  /-- control register number of MFCR and MTCR -/
  cr : Nat := 0
  /-- length in bytes of the operand or of the first operand (Form S) -/
  len : Nat := 0
  /-- length of the second operand (DMM) -/
  len2 : Nat := 0
  scale : Nat := 0
  rnd : Nat := 0
  cond : Nat := 0
  /-- signed offset, or absolute target -/
  tgt : Nat := 0
  gd : Nat := 0
  ga : Nat := 0
  gb : Nat := 0
  /-- right operand of BCMP is G4 -/
  r : Bool := false
  imm : Nat := 0
  deriving DecidableEq, Repr

/-- Forms of 01 Table 1.3. -/
inductive Form where
  | z | a | d | s | b | bl | rr | ri | rm
  deriving DecidableEq, Repr

/-- Form and word count of a major (Table 1.6); none: unassigned. -/
def formOf (major : Nat) : Option (Form × Nat) :=
  match major with
  | 0 => some (.z, 1)
  | 1 | 2 | 3 => some (.a, 2)
  | 4 | 5 => some (.d, 3)
  | 6 | 7 | 8 => some (.s, 4)
  | 9 => some (.b, 2)
  | 10 => some (.bl, 3)
  | 11 | 12 => some (.rr, 2)
  | 13 => some (.ri, 3)
  | 14 => some (.rm, 2)
  | _ => none

/-- Instruction with a major and a minor (Table 1.6). CLS, DCMPB and BCMP have no minor. -/
def opAt (major minor : Nat) : Option Op :=
  match major with
  | 0 => [Op.nop, .sync, .fence, .ret, .rett, .getw, .wait, .invall, .neg][minor]?
  | 1 => [Op.ld, .st, .add, .sub, .mul, .div, .rem, .divu, .remu, .and, .or, .xor, .shl, .shr, .sar, .rol, .ror, .ldb, .stb, .lda][minor]?
  | 2 => [Op.ldx1, .ldx2, .stx1, .stx2, .adx1, .adx2, .lax1, .lax2, .ldsp, .stsp, .adsp, .lasp][minor]?
  | 3 => [Op.mfcr, .mtcr, .doneI, .post, .doorb, .jmpr, .callr, .inva, .invt, .stpw, .ldpw, .mfb, .mtb][minor]?
  | 4 => [Op.dld, .dst, .dadd, .dsub, .dmul, .ddiv, .drem, .dscl, .dcvb, .dcvd, .tally][minor]?
  | 5 => some .dcmpb
  | 6 => [Op.daddm, .dsubm, .packz, .unpkz][minor]?
  | 7 => [Op.mvs, .trs, .scn, .edit, .edmk][minor]?
  | 8 => some .cls
  | 9 => some .bcmp
  | 10 => [Op.jmp, .call, .bcmpl][minor]?
  | 11 => [Op.rrAdd, .rrSub, .rrMul, .mulhs, .mulhu, .rrDiv, .rrDivu, .rrRem, .rrRemu, .rrAnd, .rrOr, .rrXor, .andn, .rrShl, .rrShr,
      .rrSar, .rrRol, .rrRor, .rrNeg, .not, .mov, .slt, .sltu][minor]?
  | 12 =>
    if minor < 0x10 then [Op.faddS, .fsubS, .fmulS, .fdivS, .fsqrtS, .fminS, .fmaxS, .feqS, .fltS, .fleS][minor]?
    else if minor < 0x20 then [Op.faddD, .fsubD, .fmulD, .fdivD, .fsqrtD, .fminD, .fmaxD, .feqD, .fltD, .fleD][minor - 0x10]?
    else [Op.fcvtDS, .fcvtSD, .fcvtSL, .fcvtDL, .fcvtLS, .fcvtLD][minor - 0x20]?
  | 13 => [Op.ldi, .ldhi, .addi, .andi, .ori, .xori, .shli, .shri, .sari, .roli, .muli][minor]?
  | 14 => if minor = 7 then none else [Op.ld8u, .ld8s, .ld16u, .ld16s, .ld32u, .ld32s, .ld64, .ld64, .st8, .st16, .st32, .st64][minor]?
  | _ => none

/-- Privileged instructions (Table 1.6, marked *). -/
def isPriv : Op → Bool
  | .rett | .wait | .invall | .doorb | .inva | .invt | .stpw | .ldpw | .mfb | .mtb => true
  | _ => false

/-- LEGEND[6] of the AKV-9640-C (Table 1.10). -/
def legend6 : Nat := 0x2000_003F

/-- LEGEND[6] bit that an optional instruction needs (R42); none: not optional. -/
def legendBit : Op → Option Nat
  | .doorb => some 5
  | .scn => some 4
  | .edmk => some 3
  | .tally => some 2
  | .fsqrtS | .fsqrtD => some 1
  | _ => none

/-- Whether the major is valid in a mode: 0 LEDGER, 1 REGISTER, 2 FORERUNNER (Tables 1.6 and 1.8).
DESIGN CHOICE (log entry 65): the code 3, which only a save area can bring in, takes the tables of FORERUNNER. -/
def majorInMode (major mode : Nat) : Bool :=
  match mode with
  | 0 => major ≤ 10
  | 1 => major == 0 || (3 ≤ major && major ≤ 14)
  | _ => major ≤ 6 || major == 9 || major == 10

/-- Instructions FORERUNNER keeps (Table 1.8). -/
def keptFore : Op → Bool
  | .nop | .sync | .ret | .rett | .getw | .wait | .ld | .st | .add | .sub | .mul | .div | .rem | .and | .or | .xor | .shl | .shr | .sar
  | .ldb | .stb | .ldx1 | .ldx2 | .stx1 | .stx2 | .adx1 | .adx2 | .mfcr | .mtcr | .doneI | .post | .jmpr | .callr | .dld | .dst | .dadd
  | .dsub | .dmul | .ddiv | .drem | .dscl | .dcmpb | .daddm | .dsubm | .packz | .unpkz | .bcmp | .jmp | .call => true
  | _ => false

/-- Whether an operation exists in a mode: NEG in LEDGER only, FORERUNNER its subset. -/
def opInMode (o : Op) (mode : Nat) : Bool := (o != .neg || mode == 0) && (mode != 2 || keptFore o)

/-- Index register an instruction itself writes (R29): 1 X1, 2 X2, 0 none. -/
def writesX : Op → Nat
  | .ldx1 | .adx1 | .lax1 | .scn | .edmk => 1
  | .ldx2 | .adx2 | .lax2 => 2
  | _ => 0

/-- Whether the first specifier names a destination. -/
def s1Dest : Op → Bool
  | .st | .stb | .stx1 | .stx2 | .stsp | .mfcr | .ldpw | .mfb | .dst | .dcvd | .daddm | .dsubm => true
  | _ => false

/-- Whether no specifier of the instruction may be an immediate (R29). -/
def noImm : Op → Bool
  | .mvs | .cls | .trs | .scn | .edit | .edmk | .packz | .unpkz | .tally | .lda | .lax1 | .lax2 | .lasp | .inva => true
  | _ => false

/-- Whether an immediate of the instruction is decimal. -/
def decImm : Op → Bool
  | .dld | .dadd | .dsub | .dmul | .ddiv | .drem | .dcvb | .dcmpb | .daddm | .dsubm => true
  | _ => false

/-- A decode outcome: the mnemonic if the words name one, and the trap the decode raises. -/
structure DecErr where
  op : Option Op
  stop : Stop
  deriving DecidableEq, Repr

/-- Field of a program word: 14-bit words keep their check bits above. -/
def pf (w : PWord) (lo n : Nat) : Nat := fld w lo n

/-- Mode of a specifier word. -/
def specMode (fore : Bool) (w : PWord) : Nat := if fore then pf w 9 3 else pf w 11 3

/-- A specifier word with its extension word (R28, R38). -/
def specOf (fore : Bool) (w ext : PWord) : Spec :=
  if fore then
    match pf w 9 3 with
    | 0 => .near (pf w 0 9)
    | 1 => .x1 (pf w 6 3) (pf w 0 6)
    | 2 => .x2 (pf w 6 3) (pf w 0 6)
    | 3 => .x1post
    | 4 => .x2pre
    | 5 => .spRel (pf w 0 9)
    | 6 => .imm (sext64 9 (pf w 0 9)) (pf w 8 1 == 1) (BitVec.ofNat 8 (pf w 0 8))
    | _ => .ext (pf w 0 9 * 4096 + pf ext 0 12)
  else
    match pf w 11 3 with
    | 0 => .near (pf w 0 11)
    | 1 => .x1 (pf w 8 3) (pf w 0 8)
    | 2 => .x2 (pf w 8 3) (pf w 0 8)
    | 3 => .x1post
    | 4 => .x2pre
    | 5 => .spRel (pf w 0 11)
    | 6 => .imm (sext64 11 (pf w 0 11)) (pf w 10 1 == 1) (BitVec.ofNat 8 (pf w 0 8))
    | _ => .ext (pf w 0 11 * 16384 + pf ext 0 14)

/-- Specification faults of one specifier word (R29); `dec`: a decimal immediate; `bad6`: mode 6 is not allowed. -/
def specFault (fore dec bad6 : Bool) (w : PWord) : Bool :=
  let m := specMode fore w
  let scale := if fore then pf w 6 3 else pf w 8 3
  let low := if fore then pf w 0 9 else pf w 0 11
  ((m == 1 || m == 2) && scale ≥ 6) || ((m == 3 || m == 4) && low != 0) || (m == 6 && bad6) ||
    (m == 6 && dec && !fore && pf w 8 2 != 0)

/-- A decimal immediate with a digit above 9. -/
def digitFault (fore dec : Bool) (w : PWord) : Bool :=
  specMode fore w == 6 && dec && (pf w 0 4 > 9 || pf w 4 4 > 9)

/-- The words of an instruction laid out: first word, specifier and extension words, and the last words of its form. -/
structure Lay where
  w1 : PWord
  sp1 : PWord
  ex1 : PWord
  sp2 : PWord
  ex2 : PWord
  /-- last word: length, length/scale, offset or immediate -/
  lw : PWord
  n : Nat
  deriving DecidableEq, Repr

/-- Word i of the instruction; words that are not there read 0. -/
def wordAt (ws : List PWord) (i : Nat) : PWord := ws.getD i 0

/-- The layout of a form's words (R27, R38). `specs`: how many of its words are specifiers. -/
def layOf (ws : List PWord) (fore : Bool) (words specs : Nat) : Lay :=
  let w1 := wordAt ws 0
  let sp1 := wordAt ws 1
  let e1 := if specs ≥ 1 && specMode fore sp1 == 7 then 1 else 0
  let sp2 := wordAt ws (2 + e1)
  let e2 := if specs ≥ 2 && specMode fore sp2 == 7 then 1 else 0
  let n := words + e1 + e2
  ⟨w1, sp1, wordAt ws 2, sp2, wordAt ws (3 + e1), wordAt ws (n - 1), n⟩

/-- Specifier words of a form. -/
def specsOf : Form → Nat
  | .a | .d => 1
  | .s => 2
  | _ => 0

/-- Minor of the first words of a form (Tables 1.3 and 1.7). -/
def minorOf (fore : Bool) (f : Form) (l : Lay) : Nat :=
  match f with
  | .z => if fore then pf l.w1 0 7 else pf l.w1 0 9
  | .a | .d | .s => if fore then pf l.w1 2 5 else pf l.w1 4 5
  | .b => 0
  | .bl => if fore then pf l.w1 5 2 else pf l.w1 7 2
  | .rr => pf l.w1 0 4 * 16 + pf l.sp1 0 4
  | .ri | .rm => pf l.w1 0 4

/-- Whether a reserved field of some word holds a 1 (R36 check 7, R35, Tables 1.3 and 1.7). `ws`: the instruction's
words. -/
def reservedFault (fore ledger : Bool) (f : Form) (o : Op) (l : Lay) (ws : List PWord) : Bool :=
  let top := fore && (ws.take l.n).any (fun w => pf w 12 2 != 0)
  let crOp := o == .mfcr || o == .mtcr
  let body : Bool :=
    match f with
    | .z => false
    | .a => if fore then pf l.w1 0 2 != 0 || (crOp && pf l.sp1 4 5 != 0) else !crOp && pf l.w1 0 4 != 0
    | .d =>
      (o != .dcmpb && (if fore then pf l.w1 0 2 != 0 else pf l.w1 0 4 != 0)) || (fore && pf l.lw 0 2 != 0) ||
        (o == .dscl && (pf l.sp1 0 14 != 0 || (if fore then pf l.lw 7 5 != 0 else pf l.lw 9 5 != 0)))
    | .s =>
      (o != .cls && (if fore then pf l.w1 0 2 != 0 else pf l.w1 0 4 != 0)) ||
        (!fore && (match o with
          | .daddm | .dsubm | .packz | .unpkz => pf l.lw 0 2 != 0
          | _ => pf l.lw 13 1 == 1 && pf l.lw 0 13 != 0))
    | .b => ledger && pf l.w1 1 5 ≥ 8
    | .bl =>
      if fore then pf l.w1 0 5 != 0 || pf l.sp1 4 8 != 0
      else if o == .bcmpl then pf l.w1 0 4 != 0 || pf l.sp1 2 6 != 0 || (ledger && pf l.sp1 9 5 ≥ 8)
      else pf l.w1 0 7 != 0 || pf l.sp1 2 12 != 0
    | .rr =>
      (match o with
        | .rrNeg | .not | .mov | .fsqrtS | .fsqrtD | .fcvtDS | .fcvtSD | .fcvtSL | .fcvtDL | .fcvtLS | .fcvtLD => pf l.sp1 4 5 != 0
        | _ => false)
    | .ri =>
      (match o with
        | .ldi => pf l.sp1 9 5 != 0
        | .shli | .shri | .sari | .roli => pf l.sp1 0 9 != 0 || pf l.lw 7 7 != 0
        | _ => false)
    | .rm => false
  top || body

/-- The length, scale and rounding fields of a Form D instruction. -/
def dFields (fore : Bool) (lw : PWord) : Nat × Nat × Nat :=
  if fore then (pf lw 7 5 + 1, pf lw 2 5, 0) else (pf lw 9 5 + 1, pf lw 4 5, pf lw 0 4)

/-- The two lengths of a DMM instruction. -/
def mmFields (fore : Bool) (lw : PWord) : Nat × Nat :=
  if fore then (pf lw 6 6 + 1, pf lw 0 6 + 1) else (pf lw 8 6 + 1, pf lw 2 6 + 1)

/-- Specification faults of the specifiers, lengths and scales (R36 check 8, R29, R31, R32, R48, R70). -/
def formFault (fore : Bool) (f : Form) (o : Op) (l : Lay) (bacc : W64) : Bool :=
  let dec := decImm o
  let bad1 := s1Dest o || noImm o
  let imm1 := specMode fore l.sp1 == 6
  let imm2 := specMode fore l.sp2 == 6
  let st1 := (specOf fore l.sp1 l.ex1).steps
  let st2 := (specOf fore l.sp2 l.ex2).steps
  let wx := writesX o
  match f with
  | .a =>
    if fore && (o == .mfcr || o == .mtcr) then !imm1
    else specFault fore dec bad1 l.sp1 || (wx != 0 && st1 == wx)
  | .d =>
    let (len, scale, rnd) := dFields fore l.lw
    rnd > 8 ||
      (o != .dscl && (specFault fore dec bad1 l.sp1 || scale > 2 * len - 1 || (imm1 && len != 2) || (o == .tally && len > 16)))
  | .s =>
    specFault fore dec bad1 l.sp1 || specFault fore dec (noImm o) l.sp2 || (st1 != 0 && st1 == st2) ||
      (wx != 0 && (st1 == wx || st2 == wx)) ||
      (match o with
        | .daddm | .dsubm => let (a, b) := mmFields fore l.lw; a > 32 || b > 32 || (imm2 && b != 2)
        | .packz => let (a, b) := mmFields fore l.lw; a > 32 || b > 63
        | .unpkz => let (a, b) := mmFields fore l.lw; a > 63 || b > 32
        | _ => pf l.lw 13 1 == 1 && bacc.toNat ≥ 65536)
  | _ => false

/-- A bad decimal immediate digit somewhere in the instruction. -/
def badDigit (fore : Bool) (f : Form) (o : Op) (l : Lay) : Bool :=
  match f with
  | .d => o != .dscl && digitFault fore (decImm o) l.sp1
  | .s => digitFault fore (decImm o) l.sp2
  | _ => false

/-- The fields of an instruction whose checks have passed. -/
def fieldsOf (fore : Bool) (f : Form) (o : Op) (l : Lay) (bacc : W64) : Dec :=
  match f with
  | .z => { op := o, n := 1 }
  | .a =>
    if fore && (o == .mfcr || o == .mtcr) then { op := o, n := l.n, cr := pf l.sp1 0 4 }
    else { op := o, n := l.n, s1 := specOf fore l.sp1 l.ex1, cr := pf l.w1 0 4 }
  | .d =>
    let (len, scale, rnd) := dFields fore l.lw
    { op := o, n := l.n, s1 := specOf fore l.sp1 l.ex1, len := len, scale := scale, rnd := rnd
      cond := if fore then pf l.w1 4 3 else pf l.w1 6 3
      tgt := if fore then (sext64 4 (pf l.w1 0 4)).toNat % 65536 else (sext64 6 (pf l.w1 0 6)).toNat % 65536 }
  | .s =>
    let (a, b) : Nat × Nat := match o with
      | .daddm | .dsubm | .packz | .unpkz => mmFields fore l.lw
      | _ => let n := if pf l.lw 13 1 == 1 then bacc.toNat % 65536 else pf l.lw 0 13 + 1; (n, n)
    { op := o, n := l.n, s1 := specOf fore l.sp1 l.ex1, s2 := specOf fore l.sp2 l.ex2, len := a, len2 := b
      cond := pf l.w1 6 3, tgt := (sext64 6 (pf l.w1 0 6)).toNat % 65536 }
  | .b =>
    if fore then { op := o, n := 2, cond := pf l.w1 4 3, ga := pf l.w1 1 3, r := pf l.w1 0 1 == 1, tgt := (sext64 12 (pf l.sp1 0 12)).toNat % 65536 }
    else { op := o, n := 2, cond := pf l.w1 6 3, ga := pf l.w1 1 5, r := pf l.w1 0 1 == 1, tgt := (sext64 14 (pf l.sp1 0 14)).toNat % 65536 }
  | .bl =>
    if fore then { op := o, n := 3, tgt := pf l.sp1 0 4 * 4096 + pf l.lw 0 12 }
    else { op := o, n := 3, cond := pf l.w1 4 3, ga := pf l.sp1 9 5, r := pf l.sp1 8 1 == 1, tgt := pf l.sp1 0 2 * 16384 + pf l.lw 0 14 }
  | .rr => { op := o, n := 2, gd := pf l.w1 4 5, ga := pf l.sp1 9 5, gb := pf l.sp1 4 5 }
  | .ri => { op := o, n := 3, gd := pf l.w1 4 5, ga := pf l.sp1 9 5, imm := pf l.sp1 0 9 * 16384 + pf l.lw 0 14 }
  | .rm => { op := o, n := 2, gd := pf l.w1 4 5, gb := pf l.sp1 9 5, imm := pf l.sp1 0 9 }

/-- Decode of the words at PC (R36, in its order). `ws`: the words from PC up, at most six, none past word 65,535;
`mode` and `priv` of CSW; `bacc`: G4. DESIGN CHOICE (log entry 65): the reserved specifier word of DSCL has no extension word in
checks 1 and 2, mode 7 included. -/
def decode (ws : List PWord) (mode : Nat) (priv : Bool) (bacc : W64) : Except DecErr Dec :=
  let fore := mode == 2
  let w1 := wordAt ws 0
  let major := if fore then pf w1 7 5 else pf w1 9 5
  let valid := majorInMode major mode
  match (if valid then formOf major else none) with
  | none =>
    if !checkOk w1 then .error ⟨none, .mck 2⟩
    else if ws.isEmpty then .error ⟨none, .trap 2 0 0 0 0⟩
    else .error ⟨none, .trap 1 0 0 0 0⟩
  | some (f, words) =>
    let l0 := layOf ws fore words (specsOf f)
    let minor := minorOf fore f l0
    let o? := (opAt major minor).filter (fun o => opInMode o mode && ((legendBit o).all (fun b => legend6.testBit b)))
    let l := if o? == some .dscl then layOf ws fore words 0 else l0
    if !(ws.take l.n).all checkOk then .error ⟨o?, .mck 2⟩
    else if ws.length < l.n then .error ⟨o?, .trap 2 0 0 0 0⟩
    else if major == 12 && !legend6.testBit 0 then .error ⟨none, .trap 1 0 0 0 0⟩
    else match o? with
      | none => .error ⟨none, .trap 1 0 0 0 0⟩
      | some o =>
        if isPriv o && !priv then .error ⟨some o, .trap 3 0 0 0 0⟩
        else if reservedFault fore (mode == 0) f o l ws then .error ⟨some o, .trap 2 0 0 0 0⟩
        else if formFault fore f o l bacc then .error ⟨some o, .trap 2 0 0 0 0⟩
        else if badDigit fore f o l then .error ⟨some o, .trap 7 0 0 0 0⟩
        else .ok (fieldsOf fore f o l bacc)

/-- The words from PC up that stand in the program store: at most six, none past word 65,535 (R26). -/
def storeWords (d : Dev) (c pc : Nat) : List PWord := (List.range (min 6 (65536 - pc))).map (fun i => d.pword c (pc + i))

/-- The words the core decodes next: the fetch latch, or the program store when the latch is empty (05 R142). -/
def nextWords (d : Dev) (c : Nat) : List PWord :=
  let x := d.core c
  match x.latch with
  | some ws => ws
  | none => storeWords d c x.cb.pc.toNat

/-- The decode of the instruction at core c's PC. -/
def decodeNext (d : Dev) (c : Nat) : Except DecErr Dec :=
  let x := d.core c
  decode (nextWords d c) x.csw.mode.toNat x.csw.priv (x.g 4)

end Sys2Proof.Machine
end

