-- ==== Sys2Proof/Machine/Operands.lean ====
section
/-!
DEFINITION. Operands (01 R28, R30): effective addresses, immediates, the index registers a specifier steps, and what an
instruction leaves for its RETIRE cycle (07 R167).
-/
namespace Sys2Proof.Machine

/-- An index register or SP used for addressing supplies bits 31:0 (01 R16). -/
def Core.idx (x : Core) (n : Nat) : Nat := (x.g n).toNat % 2 ^ 32

/-- Effective address of a specifier for an operand of `len` bytes (01 Table 1.4), modulo 2^32. An immediate has none. -/
def eaOf (x : Core) (s : Spec) (len : Nat) : Nat :=
  match s with
  | .near a => a
  | .x1 sc dp => (x.idx 5 * 2 ^ sc + dp) % 2 ^ 32
  | .x2 sc dp => (x.idx 6 * 2 ^ sc + dp) % 2 ^ 32
  | .x1post => x.idx 5
  | .x2pre => (x.idx 6 + 2 ^ 32 - len % 2 ^ 32) % 2 ^ 32
  | .spRel dp => (x.idx 7 + dp) % 2 ^ 32
  | .imm _ _ _ => 0
  | .ext a => a

/-- What a specifier of an operand of `len` bytes leaves in the index register it steps (01 R30, R16). -/
def stepOf (x : Core) (s : Spec) (len : Nat) : Option (Nat × W64) :=
  match s with
  | .x1post => some (5, BitVec.ofNat 64 ((x.idx 5 + len) % 2 ^ 32))
  | .x2pre => some (6, BitVec.ofNat 64 ((x.idx 6 + 2 ^ 32 - len % 2 ^ 32) % 2 ^ 32))
  | _ => none

/-- A step applied; a post-increment of X1 that leaves the held blocks starts a prefetch (10 R271). -/
def Core.applyStep (x : Core) (st : Option (Nat × W64)) : Core :=
  match st with
  | none => x
  | some (n, v) =>
    let x1 := x.setG n v
    if n = 5 && x1.prefetch.isNone && (x1.brHit v.toNat).isNone then { x1 with prefetch := some (BitVec.ofNat 32 v.toNat) } else x1

/-- The steps of an instruction applied at completion. -/
def applySteps (c : Nat) (steps : List (Option (Nat × W64))) : X Unit := onCore c (fun x => steps.foldl Core.applyStep x)

/-- What is left for the RETIRE cycle. -/
structure Ret where
  /-- where control goes; none: the next instruction -/
  pc : Option Nat := none
  /-- a register written at the end of the next instruction (05 R139) -/
  ld : Option (Nat × W64) := none
  /-- a program word written after the next instruction's words have been fetched (05 R142) -/
  pword : Option (Nat × Nat) := none
  /-- whether the fetch latch is loaded -/
  fetch : Bool := true
  deriving DecidableEq, Repr

/-- A binary source operand of `len` bytes, zero-extended; an immediate counts one chunk (01 Table 1.4, 06 R148). -/
def srcBin (c : Nat) (s : Spec) (len : Nat) : X W64 := do
  match s with
  | .imm v _ _ => tick c 1; return v
  | _ =>
    let bs ← load c (eaOf (← core c) s len) len
    return BitVec.ofNat 64 (ofBytes bs)

/-- The bytes of a decimal source of `len` bytes: memory, or an immediate as a 2-byte packed field (02 R48). -/
def srcDec (c : Nat) (s : Spec) (len : Nat) : X (List Byte) := do
  match s with
  | .imm _ neg dd =>
    tick c 1
    return [BitVec.ofNat 8 (dd.toNat / 16), BitVec.ofNat 8 (dd.toNat % 16 * 16 + (if neg then 13 else 12))]
  | _ => load c (eaOf (← core c) s len) len

/-- Chunks of an operand: an immediate counts one. -/
def kOf (x : Core) (s : Spec) (len : Nat) : Nat :=
  match s with
  | .imm _ _ _ => 1
  | _ => chunks (eaOf x s len) len

/-- A register of the current bank written. -/
def setG (c n : Nat) (v : W64) : X Unit := onCore c (fun x => x.setG n v)

/-- A register of the current bank read. -/
def getG (c n : Nat) : X W64 := do return (← core c).g n

end Sys2Proof.Machine
end

