-- ==== Sys2Proof/Machine/Flags.lean ====
section
/-!
DEFINITION. Tests and status bits: the branch conditions of 01 Table 1.5, the sticky bits (01 R23), the decimal rounding
step and overflow outcomes (02 R50 to R54, Tables 2.3 and 2.5). The core has no condition codes.
-/
namespace Sys2Proof.Machine

/-- A condition of Table 1.5 on two 64-bit registers. -/
def cond64 (cond : Nat) (a b : W64) : Bool :=
  match cond with
  | 0 => a == b
  | 1 => a != b
  | 2 => a.slt b
  | 3 => !a.slt b
  | 4 => a.sle b
  | 5 => !a.sle b
  | 6 => a.ult b
  | _ => !a.ult b

/-- A condition of Table 1.5 on two decimal values with scales aligned; LO and HS compare magnitudes. -/
def condDec (cond : Nat) (a b : Int) : Bool :=
  match cond with
  | 0 => a == b
  | 1 => a != b
  | 2 => a < b
  | 3 => a ≥ b
  | 4 => a ≤ b
  | 5 => a > b
  | 6 => a.natAbs < b.natAbs
  | _ => a.natAbs ≥ b.natAbs

/-- A condition of Table 1.5 on the outcome of a byte comparison; LO is LT and HS is GE. -/
def condCls (cond : Nat) (differ lower : Bool) : Bool :=
  match cond with
  | 0 => !differ
  | 1 => differ
  | 2 => differ && lower
  | 3 => !(differ && lower)
  | 4 => !differ || lower
  | 5 => differ && !lower
  | 6 => differ && lower
  | _ => !(differ && lower)

/-- DSTICKY bits ORed in: bit 2 OVF, 1 SAT, 0 INX. -/
def stick (c : Nat) (bits : Nat) : X Unit :=
  if bits = 0 then return () else onCore c (fun x => x.ctl (fun b => { b with dsticky := b.dsticky ||| BitVec.ofNat 3 bits }))

/-- Whether the rounding step increases the magnitude kept (02 R51's pseudocode, Table 2.3). `mode`: RMODE code; `r`: the
kept magnitude; `num`/`den`: the discarded part as a fraction of a unit of its last digit, `num < den`. -/
def roundsUp (mode : Nat) (neg : Bool) (r num den : Nat) : Bool :=
  let lost := num > 0
  let half := 2 * num == den
  let above := 2 * num > den
  match mode with
  | 0 => false
  | 1 => half || above
  | 2 => above || (half && r % 2 == 1)
  | 3 => above
  | 4 => lost
  | 5 => lost && !neg
  | 6 => lost && neg
  | _ => lost && (r % 10 == 0 || r % 10 == 5)

/-- A signed decimal value before it is fitted: sign and magnitude of the coefficient. -/
structure SDec where
  neg : Bool
  mag : Nat
  deriving DecidableEq, Repr

/-- Its value as an integer. -/
def SDec.int (v : SDec) : Int := if v.neg then -(v.mag : Int) else v.mag

/-- Sign and magnitude of an integer. -/
def SDec.ofInt (i : Int) : SDec := ⟨i < 0, i.natAbs⟩

/-- A magnitude `num / den` rounded to an integer, and whether a non-zero part was discarded (R51, R53). -/
def roundMag (mode : Nat) (neg : Bool) (num den : Nat) : Nat × Bool :=
  let r := num / den
  (if roundsUp mode neg r (num % den) den then r + 1 else r, num % den != 0)

/-- A coefficient moved from one scale to another, with one rounding step (R50). -/
def rescale (mode : Nat) (v : SDec) (fromS toS : Nat) : SDec × Bool :=
  if fromS ≤ toS then (⟨v.neg, v.mag * 10 ^ (toS - fromS)⟩, false)
  else
    let (m, inx) := roundMag mode v.neg v.mag (10 ^ (fromS - toS))
    (⟨v.neg, m⟩, inx)

/-- Rounding mode of a Form D instruction: its override, or CSW.RMODE (R51). -/
def roundMode (x : Core) (rnd : Nat) : Nat := if rnd = 0 then x.csw.rmode.toNat else rnd - 1

/-- A coefficient fitted into `n` digits (Table 2.5): the digits to write and the DSTICKY bits to set, or the overflow
trap. `sat` and `dovt` of CSW; `lowDigits`: the digits kept when high digits are lost. -/
def fitDec (sat dovt : Bool) (v : SDec) (n lowDigits : Nat) (past : Bool) : Except Stop (SDec × Nat) :=
  if !past then .ok (v, 0)
  else if sat then .ok (⟨v.neg, 10 ^ n - 1⟩, 2)
  else if dovt then .error (.trap 8 0 0 0 0)
  else .ok (⟨v.neg, v.mag % 10 ^ lowDigits⟩, 4)

/-- The outcome of `fitDec` taken by core c's instruction, for a destination of `n` digits. -/
def fit (c : Nat) (v : SDec) (n : Nat) : X (SDec × Nat) := do
  let w := (← core c).csw
  match fitDec w.sat w.dovt v n n (v.mag ≥ 10 ^ n) with
  | .ok r => return r
  | .error e => throw e

end Sys2Proof.Machine
end

