-- ==== Sys2Proof/Machine/Packed.lean ====
section
/-!
DEFINITION. Packed and zoned decimal fields (02 R43 to R46, R49) and DACC (01 R15).
-/
namespace Sys2Proof.Machine

/-- The nibbles of a field, most significant first. -/
def nibbles (bs : List Byte) : List Nat := bs.flatMap (fun b => [b.toNat / 16, b.toNat % 16])

/-- The number that decimal digits spell. -/
def ofDigits (ds : List Nat) : Nat := ds.foldl (fun a d => a * 10 + d) 0

/-- The last `n` digits of a number, most significant first. -/
def toDigits : Nat → Nat → List Nat
  | 0, _ => []
  | n + 1, v => v / 10 ^ n % 10 :: toDigits n v

/-- Whether a sign nibble reads as minus (02 Table 2.1). -/
def signNeg (n : Nat) : Bool := n == 0xB || n == 0xD

/-- The value of a packed field; none: a bad digit or sign nibble (R49). -/
def unpack (bs : List Byte) : Option SDec :=
  let ns := nibbles bs
  let ds := ns.dropLast
  let s := ns.getLast?.getD 0
  if ds.all (· ≤ 9) && s ≥ 0xA then some ⟨signNeg s, ofDigits ds⟩ else none

/-- Pairs of nibbles as bytes. -/
def pairNibbles : List Nat → List Byte
  | a :: b :: t => BitVec.ofNat 8 (a * 16 + b) :: pairNibbles t
  | _ => []

/-- A packed field of `len` bytes holding a value; a zero is written plus (R44, R45). -/
def pack (len : Nat) (v : SDec) : List Byte :=
  let m := v.mag % 10 ^ (2 * len - 1)
  pairNibbles (toDigits (2 * len - 1) m ++ [if v.neg && m != 0 then 0xD else 0xC])

/-- The value of a zoned field; none: a bad digit or zone (R46). -/
def unzone (bs : List Byte) : Option SDec :=
  let zone := (bs.getLast?.getD 0).toNat / 16
  if bs.all (fun b => b.toNat % 16 ≤ 9) && bs.dropLast.all (fun b => b.toNat / 16 == 3) && (zone == 3 || zone == 7) then
    some ⟨zone == 7, ofDigits (bs.map (fun b => b.toNat % 16))⟩
  else none

/-- A zoned field of `len` bytes holding a value; a zero has zone 0x3 (R46). -/
def zone (len : Nat) (v : SDec) : List Byte :=
  let m := v.mag % 10 ^ len
  let ds := toDigits len m
  let last := ds.getLast?.getD 0
  (ds.dropLast.map (fun d => BitVec.ofNat 8 (0x30 + d))) ++ [BitVec.ofNat 8 ((if v.neg && m != 0 then 0x70 else 0x30) + last)]

/-- The 32 bytes of DACC (01 R15). -/
def Core.dacc (x : Core) : List Byte := toBytes 8 (x.g 0).toNat ++ toBytes 8 (x.g 1).toNat ++ toBytes 8 (x.g 2).toNat ++ toBytes 8 (x.g 3).toNat

/-- The core with DACC holding 32 bytes. -/
def Core.setDacc (x : Core) (bs : List Byte) : Core :=
  (((x.setG 0 (BitVec.ofNat 64 (beAt bs 0 8))).setG 1 (BitVec.ofNat 64 (beAt bs 8 8))).setG 2 (BitVec.ofNat 64 (beAt bs 16 8))).setG 3
    (BitVec.ofNat 64 (beAt bs 24 8))

/-- DSCALE of the current bank. -/
def Core.dscale (x : Core) : Nat := x.cb.dscale.toNat

/-- The core with DSCALE written. -/
def Core.setDscale (x : Core) (s : Nat) : Core := x.ctl (fun b => { b with dscale := BitVec.ofNat 5 s })

/-- A decimal source that must be valid: data trap (7) otherwise (R49). -/
def needValid (v : Option SDec) : X SDec :=
  match v with
  | some r => return r
  | none => raise 7

end Sys2Proof.Machine
end

