-- ==== Sys2Proof/Machine/Decimal.lean ====
section
/-!
DEFINITION. The decimal instructions that are not interruptible (02 R57 to R66, R70 to R73). Each is written from its
pseudocode, its checks in the order of Table 2.6.
-/
namespace Sys2Proof.Machine

/-- DACC's value. -/
def readDacc (c : Nat) : X SDec := do needValid (unpack (← core c).dacc)

/-- DACC written with a coefficient (R44, R45). -/
def writeDacc (c : Nat) (v : SDec) : X Unit := onCore c (fun x => x.setDacc (pack 32 v))

/-- DLD (R58): DACC := operand, DSCALE := its scale; 3 + k cc. -/
def semDld (c : Nat) (i : Dec) : X Ret := do
  let x ← core c
  let bs ← srcDec c i.s1 i.len
  tick c 2
  let v ← needValid (unpack bs)
  writeDacc c v
  onCore c (fun y => y.setDscale i.scale)
  applySteps c [stepOf x i.s1 i.len]
  return {}

/-- DST (R58): the operand := DACC rounded to its scale; 5 + k cc. -/
def semDst (c : Nat) (i : Dec) : X Ret := do
  let x ← core c
  tick c 4
  let v ← readDacc c
  let (r, inx) := rescale (roundMode x i.rnd) v x.dscale i.scale
  let (w, st) ← fit c r (2 * i.len - 1)
  store c (eaOf x i.s1 i.len) (pack i.len w)
  stick c (st ||| b2n inx)
  applySteps c [stepOf x i.s1 i.len]
  return {}

/-- DADD and DSUB (R59): exact at the larger scale, rounded once to DSCALE; 4 + k cc. -/
def semAddSub (neg : Bool) (c : Nat) (i : Dec) : X Ret := do
  let x ← core c
  let bs ← srcDec c i.s1 i.len
  tick c 3
  let a ← readDacc c
  let b ← needValid (unpack bs)
  let e := max x.dscale i.scale
  let sum := a.int * 10 ^ (e - x.dscale) + (if neg then -b.int else b.int) * 10 ^ (e - i.scale)
  let (r, inx) := rescale (roundMode x i.rnd) (SDec.ofInt sum) e x.dscale
  let (w, st) ← fit c r 63
  writeDacc c w
  stick c (st ||| b2n inx)
  applySteps c [stepOf x i.s1 i.len]
  return {}

/-- DSCL (R63): DACC moved to scale t, DSCALE := t; 6 cc. -/
def semDscl (c : Nat) (i : Dec) : X Ret := do
  let x ← core c
  tick c 5
  let v ← readDacc c
  let (r, inx) := rescale (roundMode x i.rnd) v x.dscale i.scale
  let (w, st) ← fit c r 63
  writeDacc c w
  onCore c (fun y => y.setDscale i.scale)
  stick c (st ||| b2n inx)
  return {}

/-- BACC from a coefficient (R65): the value and the DSTICKY bits, or the overflow trap. -/
def dcvbOf (sat dovt : Bool) (v : SDec) : Except Stop (W64 × Nat) :=
  if v.mag ≤ 2 ^ 63 - 1 ∨ (v.neg ∧ v.mag = 2 ^ 63) then .ok (BitVec.ofInt 64 v.int, 0)
  else if sat then .ok (if v.neg then BitVec.ofNat 64 (2 ^ 63) else BitVec.ofNat 64 (2 ^ 63 - 1), 2)
  else if dovt then .error (.trap 8 0 0 0 0)
  else .ok (BitVec.ofInt 64 v.int, 4)

/-- DCVB (R65): BACC := coefficient of the operand; 4 + ⌈L/2⌉ + k cc. -/
def semDcvb (c : Nat) (i : Dec) : X Ret := do
  let x ← core c
  let bs ← srcDec c i.s1 i.len
  tick c (3 + (i.len + 1) / 2)
  let v ← needValid (unpack bs)
  match dcvbOf x.csw.sat x.csw.dovt v with
  | .error e => throw e
  | .ok (r, st) =>
    setG c 4 r
    stick c st
    applySteps c [stepOf x i.s1 i.len]
    return {}

/-- DCVD (R66): the operand's coefficient := BACC; 20 + k cc. -/
def semDcvd (c : Nat) (i : Dec) : X Ret := do
  let x ← core c
  tick c 19
  let (w, st) ← fit c (SDec.ofInt (x.g 4).toInt) (2 * i.len - 1)
  store c (eaOf x i.s1 i.len) (pack i.len w)
  stick c st
  applySteps c [stepOf x i.s1 i.len]
  return {}

/-- DCMPB (R64): branch on DACC against the operand, scales aligned; 5 + k cc. -/
def semDcmpb (c : Nat) (i : Dec) : X Ret := do
  let x ← core c
  let bs ← srcDec c i.s1 i.len
  tick c 4
  let a ← readDacc c
  let b ← needValid (unpack bs)
  let e := max x.dscale i.scale
  let taken := condDec i.cond (a.int * 10 ^ (e - x.dscale)) (b.int * 10 ^ (e - i.scale))
  applySteps c [stepOf x i.s1 i.len]
  return { pc := if taken then some ((x.cb.pc.toNat + i.tgt) % 65536) else none }

/-- TALLY (R70 to R73): the field := field + DACC rounded to its scale, made by the frond adder on the frond store
itself; 18 cc. The read marks the key before traps 7 and 8 are found (10 R278). -/
def semTally (c : Nat) (i : Dec) : X Ret := do
  let x ← core c
  let a := eaOf x i.s1 i.len
  if a % 16 + i.len > 16 then specTrap
  match vparts a i.len with
  | (va, n, s) :: _ =>
    let p ← xlatPart c .rw va n s
    if !p.far then specTrap
    protPart c .rw p
    modify (fun d => d.markKey p.pa .read)
    let f := p.tier
    match (← get).eccRead f (wordsOf p.pa i.len) with
    | (d, some w) => set (d.eccUncorr f 0 c w); throw .uncorr
    | (d, none) => set d
    tick c 17
    let v ← readDacc c
    let old ← needValid (unpack ((← get).bytes p.pa i.len))
    let (r, inx) := rescale (roundMode x i.rnd) v x.dscale i.scale
    let (w, st) ← fit c (SDec.ofInt (old.int + r.int)) (2 * i.len - 1)
    modify (fun d => (d.markKey p.pa .rw).store f c p.pa (pack i.len w))
    setDirty c p
    stick c (st ||| b2n inx)
    applySteps c [stepOf x i.s1 i.len]
    return {}
  | [] => return {}

end Sys2Proof.Machine
end

