-- ==== Sys2Proof/Machine/DecimalLong.lean ====
section
/-!
DEFINITION. The interruptible decimal instructions: DMUL, DDIV, DREM (02 R60 to R62, R69), DADDM and DSUBM (R67, R68).
Each is a setup, which leaves a `Flight`, and steps that end at trap points or complete it. The use of the digit latch
group and of CONT[3].DPHASE is the model's (03 CONT[3]: the microcode's own encoding; log entry 10).
-/
namespace Sys2Proof.Machine

/-- How a step of an interruptible instruction ends: at a trap point, or at completion. -/
inductive StepEnd where
  | more (f : Flight)
  | fin (r : Ret)
  deriving DecidableEq, Repr

/-- A continuation with nothing in it but its OPID. -/
def Flight.start (opid : Nat) : Flight :=
  { opid := BitVec.ofNat 5 opid, dir := false, flags := 0, fill := 0, doneN := 0, len := 0, addr1 := 0, addr2 := 0, addr3 := 0
    step1 := 0, step2 := 0, estate := 0, soff := 0, sbyte := 0, dphase := 0, latch := [], fresh := true }

/-- STEP code of a specifier (03 CONT[2]). -/
def stepCode (s : Spec) : BitVec 2 := BitVec.ofNat 2 s.steps

/-- What a stepping specifier leaves in its register at completion, from the address formed at the start (03 Table 3.6):
`len` for a post-increment, nothing more for a pre-decrement. DESIGN CHOICE (log entry 65): the code 3, which only MTB can put
there, is no reserved field and makes no step. -/
def stepFrom (code : BitVec 2) (addr : BitVec 32) (len : Nat) : Option (Nat × W64) :=
  match code.toNat with
  | 1 => some (5, BitVec.ofNat 64 ((addr.toNat + len) % 2 ^ 32))
  | 2 => some (6, BitVec.ofNat 64 addr.toNat)
  | _ => none

/-- Doublewords put into a digit latch group from an index up. -/
def putLatch (m : SMap W64) (i : Nat) : List W64 → SMap W64
  | [] => m
  | v :: t => putLatch (SMap.put m i v) (i + 1) t

/-- Bytes as doublewords, after padding to 32 bytes on the left. -/
def latchOf (bs : List Byte) : List W64 :=
  let b := zeros (32 - bs.length) ++ bs
  [BitVec.ofNat 64 (beAt b 0 8), BitVec.ofNat 64 (beAt b 8 8), BitVec.ofNat 64 (beAt b 16 8), BitVec.ofNat 64 (beAt b 24 8)]

/-- 32 bytes of a latch. -/
def latchBytes (m : SMap W64) (i : Nat) : List Byte :=
  (List.range 4).flatMap (fun j => toBytes 8 (SMap.get 0 m (i + j)).toNat)

/-- DPHASE as this model uses it: run number, rounding mode, DSCALE, operand scale, operand length. -/
def dphaseOf (run mode ds s len : Nat) : BitVec 56 := BitVec.ofNat 56 (run % 256 + mode % 256 * 2 ^ 8 + ds % 256 * 2 ^ 16 + s % 256 * 2 ^ 24 + len % 256 * 2 ^ 32)

/-- Byte i of DPHASE. -/
def dph (f : Flight) (i : Nat) : Nat := fld f.dphase (8 * i) 8

/-- The continuation with its run number advanced. -/
def nextRun (f : Flight) (n : Nat) : Flight := { f with dphase := BitVec.ofNat 56 (f.dphase.toNat / 256 * 256 + (dph f 0 + n) % 256) }

/-- Quotient digits of DDIV and DREM (Table 2.7): min(63, 64 − d + s). -/
def quotDigits (len s : Nat) : Nat := min 63 (64 - (2 * len - 1) + s)

/-- Count of the digit steps of DMUL (2 cc each) or DDIV and DREM (4 cc each). -/
def digitCycles (div : Bool) (len s : Nat) : Nat := if div then 4 * quotDigits len s else 2 * (2 * len - 1)

/-- Bytes loaded by an instruction whose count already holds a cycle for each near chunk (06 R149): those cycles have passed where a later part
is denied (06 Table 6.3), and are not counted twice where none is. -/
def loadHeld (c va n : Nat) : X (List Byte) := do
  let ps := vparts va n
  let bs ← loadParts c 1 8 ps
  onCore c (fun y => { y with spent := y.spent - (ps.map (fun p => chunks p.1 p.2.1)).sum })
  return bs

/-- Setup of DMUL, DDIV and DREM (R69): DACC, DSCALE, the operand and the rounding mode are read and checked. -/
def setupLong (opid : Nat) (div rem : Bool) (c : Nat) (i : Dec) : X Flight := do
  let x ← core c
  if rem && x.dscale + i.scale > 31 then specTrap
  let len := match i.s1 with
    | .imm _ _ _ => 2
    | _ => i.len
  let bs ← (match i.s1 with
    | .imm _ _ _ => do
      let b ← srcDec c i.s1 i.len
      onCore c (fun y => { y with spent := y.spent - 1 })
      pure b
    | _ => loadHeld c (eaOf x i.s1 i.len) i.len)
  tick c (if div then 15 else 9)
  match unpack x.dacc, unpack bs with
  | some _, some b =>
    if div && b.mag = 0 then
      tick c (digitCycles div len i.scale)
      raise 9
  | _, _ =>
    tick c (digitCycles div len i.scale)
    raise 7
  return { Flight.start opid with
    addr1 := BitVec.ofNat 32 (eaOf x i.s1 i.len), step1 := stepCode i.s1
    dphase := dphaseOf 0 (roundMode x i.rnd) x.dscale i.scale len
    latch := putLatch (putLatch [] 0 (latchOf x.dacc)) 4 (latchOf bs), fresh := false }

/-- The dividend or multiplicand and the operand that a continuation holds. -/
def heldPair (f : Flight) : SDec × SDec :=
  ((unpack (latchBytes f.latch 0)).getD ⟨false, 0⟩, (unpack (latchBytes f.latch 4)).getD ⟨false, 0⟩)

/-- The end of DMUL: the exact product at DSCALE + s, rounded to DSCALE (R60). -/
def finMul (c : Nat) (f : Flight) : X Ret := do
  let (a, b) := heldPair f
  let ds := dph f 2
  let p := SDec.ofInt (a.int * b.int)
  let (r, inx) := rescale (dph f 1) p (ds + dph f 3) ds
  let (w, st) ← fit c r 63
  writeDacc c w
  onCore c (fun y => y.setDscale ds)
  stick c (st ||| b2n inx)
  applySteps c [stepFrom f.step1 f.addr1 (dph f 4)]
  return {}

/-- The end of DDIV (R61). -/
def finDiv (c : Nat) (f : Flight) : X Ret := do
  let (a, b) := heldPair f
  let ds := dph f 2
  let s := dph f 3
  let q := quotDigits (dph f 4) s
  let neg := a.neg != b.neg
  let num := a.mag * 10 ^ s
  let (m, inx) := roundMag (dph f 1) neg num b.mag
  let x ← core c
  match fitDec x.csw.sat x.csw.dovt ⟨neg, m⟩ 63 q (num / b.mag ≥ 10 ^ q || m ≥ 10 ^ 63) with
  | .error e => throw e
  | .ok (w, st) =>
    writeDacc c w
    onCore c (fun y => y.setDscale ds)
    stick c (st ||| b2n inx)
    applySteps c [stepFrom f.step1 f.addr1 (dph f 4)]
    return {}

/-- The end of DREM (R62). -/
def finRem (c : Nat) (f : Flight) : X Ret := do
  let (a, b) := heldPair f
  let ds := dph f 2
  let s := dph f 3
  let q := quotDigits (dph f 4) s
  let num := a.mag * 10 ^ s
  let x ← core c
  if num / b.mag ≥ 10 ^ q then
    if x.csw.dovt then raise 8
    stick c 4
  else
    writeDacc c ⟨a.neg, num % b.mag⟩
    onCore c (fun y => y.setDscale (ds + s))
  applySteps c [stepFrom f.step1 f.addr1 (dph f 4)]
  return {}

/-- A run of DMUL: up to 16 multiplier digits of 2 cc (R60). -/
def stepMul (c : Nat) (_ : Dec) (f : Flight) : X StepEnd := do
  let d := 2 * dph f 4 - 1
  let left := d - 16 * dph f 0
  tick c (2 * min 16 left)
  if left > 16 then return .more (nextRun f 1)
  return .fin (← finMul c f)

/-- A run of DDIV or DREM: up to 8 quotient digits of 4 cc (R61, R62). -/
def stepDiv (rem : Bool) (c : Nat) (_ : Dec) (f : Flight) : X StepEnd := do
  let q := quotDigits (dph f 4) (dph f 3)
  let left := q - 8 * dph f 0
  tick c (4 * min 8 left)
  if left ≥ 8 then return .more (nextRun f 1)
  return .fin (← if rem then finRem c f else finDiv c f)

/-! ### DADDM and DSUBM -/

/-- A part known by its physical address, to be read under a check made before (10 R261). -/
def heldPart (c : Nat) (va n pa : Nat) (second : Bool) : Part :=
  ⟨va, n, second, pa, if frondBase 0 ≤ pa ∧ pa < workBase 0 then .frond (frondOf c) else .working c, 0, none, true, 0⟩

/-- The held parts of an operand: its virtual parts with the physical addresses latched at `i`. -/
def heldParts (c : Nat) (m : SMap W64) (i va n : Nat) : List Part :=
  (vparts va n).mapIdx (fun j e => heldPart c e.1 e.2.1 (SMap.get 0 m (i + j)).toNat e.2.2)

/-- Parts of an operand translated and checked for read in turn. -/
def checkReadParts (c : Nat) : List (Nat × Nat × Bool) → X (List Part)
  | [] => return []
  | (va, n, s) :: t => do
    let p ← xlatPart c .read va n s
    protPart c .read p
    let ps ← checkReadParts c t
    return p :: ps

/-- Parts read with their cycles. -/
def readHeld (c : Nat) (ps : List Part) : X (List Byte) := do
  for p in ps do tickPart c 1 8 p
  readAll c ps

/-- Setup of DADDM and DSUBM: the read checks of the destination, then of the source, and phase 1 (R68). -/
def setupMm (opid c : Nat) (i : Dec) : X Flight := do
  let x ← core c
  let a1 := eaOf x i.s1 i.len
  let a2 := eaOf x i.s2 i.len2
  let isImm := match i.s2 with
    | .imm _ _ _ => true
    | _ => false
  let dps ← checkReadParts c (vparts a1 i.len)
  let sps ← (if isImm then pure [] else checkReadParts c (vparts a2 i.len2))
  tick c 7
  let src ← (if isImm then srcDec c i.s2 i.len2 else readHeld c sps)
  let held := putLatch (putLatch (putLatch [] 0 (latchOf src)) 8 (sps.map (fun p => BitVec.ofNat 64 p.pa))) 10 (dps.map (fun p => BitVec.ofNat 64 p.pa))
  return { Flight.start opid with
    addr1 := BitVec.ofNat 32 a1, addr2 := BitVec.ofNat 32 a2, step1 := stepCode i.s1, step2 := stepCode i.s2
    dphase := dphaseOf 1 0 0 0 0, latch := held, fresh := false }

/-- Phases 2 to 4 of DADDM and DSUBM (R67, R68): read the destination; add and check the sources, 1 cc a destination
byte; fit and store. -/
def stepMm (neg : Bool) (c : Nat) (i : Dec) (f : Flight) : X StepEnd := do
  match dph f 0 with
  | 1 =>
    let dst ← readHeld c (heldParts c f.latch 10 f.addr1.toNat i.len)
    return .more (nextRun { f with latch := putLatch f.latch 4 (latchOf dst) } 1)
  | 2 =>
    tick c i.len
    let d ← needValid (unpack ((latchBytes f.latch 4).drop (32 - i.len)))
    let s ← needValid (unpack ((latchBytes f.latch 0).drop (32 - (match i.s2 with
      | .imm _ _ _ => 2
      | _ => i.len2))))
    let sum := d.int + if neg then -s.int else s.int
    let held := putLatch (putLatch f.latch 12 [BitVec.ofNat 64 (b2n (sum < 0))]) 4 (latchOf (toBytes 32 sum.natAbs))
    return .more (nextRun { f with latch := held } 1)
  | _ =>
    let sum : SDec := ⟨(SMap.get 0 f.latch 12) != 0, ofBytes (latchBytes f.latch 4)⟩
    let (w, st) ← fit c sum (2 * i.len - 1)
    store c f.addr1.toNat (pack i.len w)
    stick c st
    applySteps c [stepFrom f.step1 f.addr1 i.len, stepFrom f.step2 f.addr2 i.len2]
    return .fin {}

end Sys2Proof.Machine
end

