-- ==== Sys2Proof/Machine/BinInt.lean ====
section
/-!
DEFINITION. Binary integer arithmetic (04 R98 to R106): the ACC major and NEG on BACC, and the RRI, RI and RM majors of
REGISTER mode. Checks in the order of 04 Table 4.4.
-/
namespace Sys2Proof.Machine

/-- What an operation gives: the wrapped result and whether it makes an overflow event (04 Tables 4.1 to 4.3); none: a
zero divisor (R103). -/
abbrev AluRes := Option (W64 × Bool)

/-- A result that never makes an overflow event. -/
def plain (v : W64) : AluRes := some (v, false)

/-- A signed result, with its overflow event when it lies outside 64 bits. -/
def signedRes (i : Int) : AluRes := some (BitVec.ofInt 64 i, !(-(2 ^ 63) ≤ i && i < 2 ^ 63))

/-- Addition. -/
def aluAdd (a b : W64) : AluRes := signedRes (a.toInt + b.toInt)
/-- Subtraction. -/
def aluSub (a b : W64) : AluRes := signedRes (a.toInt - b.toInt)
/-- Low half of the signed product. -/
def aluMul (a b : W64) : AluRes := signedRes (a.toInt * b.toInt)
/-- High half of the signed product. -/
def aluMulhs (a b : W64) : AluRes := plain (BitVec.ofInt 64 (a.toInt * b.toInt / 2 ^ 64))
/-- High half of the unsigned product. -/
def aluMulhu (a b : W64) : AluRes := plain (BitVec.ofNat 64 (a.toNat * b.toNat / 2 ^ 64))
/-- Signed quotient, truncated toward zero. -/
def aluDiv (a b : W64) : AluRes := if b = 0 then none else signedRes (a.toInt.tdiv b.toInt)
/-- Signed remainder, with the dividend's sign. -/
def aluRem (a b : W64) : AluRes := if b = 0 then none else plain (BitVec.ofInt 64 (a.toInt.tmod b.toInt))
/-- Unsigned quotient. -/
def aluDivu (a b : W64) : AluRes := if b = 0 then none else plain (BitVec.ofNat 64 (a.toNat / b.toNat))
/-- Unsigned remainder. -/
def aluRemu (a b : W64) : AluRes := if b = 0 then none else plain (BitVec.ofNat 64 (a.toNat % b.toNat))
/-- Bitwise and. -/
def aluAnd (a b : W64) : AluRes := plain (a &&& b)
/-- Bitwise or. -/
def aluOr (a b : W64) : AluRes := plain (a ||| b)
/-- Bitwise exclusive or. -/
def aluXor (a b : W64) : AluRes := plain (a ^^^ b)
/-- a and not b. -/
def aluAndn (a b : W64) : AluRes := plain (a &&& ~~~b)
/-- Left shift by bits 6:0 of the count. -/
def aluShl (a b : W64) : AluRes := plain (a <<< (b.toNat % 128))
/-- Logical right shift by bits 6:0 of the count. -/
def aluShr (a b : W64) : AluRes := plain (a >>> (b.toNat % 128))
/-- Arithmetic right shift by bits 6:0 of the count. -/
def aluSar (a b : W64) : AluRes := plain (a.sshiftRight (b.toNat % 128))
/-- Left rotation by bits 5:0 of the count. -/
def aluRol (a b : W64) : AluRes := plain (a.rotateLeft (b.toNat % 64))
/-- Right rotation by bits 5:0 of the count. -/
def aluRor (a b : W64) : AluRes := plain (a.rotateRight (b.toNat % 64))
/-- 0 − b. -/
def aluNeg (b : W64) : AluRes := signedRes (-b.toInt)
/-- 1 if a < b, signed. -/
def aluSlt (a b : W64) : AluRes := plain (if a.slt b then 1 else 0)
/-- 1 if a < b, unsigned. -/
def aluSltu (a b : W64) : AluRes := plain (if a.ult b then 1 else 0)

/-- A result taken: divide check (11), then binary overflow (10) with CSW.BOVT 1 (R103, R104). -/
def aluTake (c : Nat) (r : AluRes) : X W64 := do
  match r with
  | none => raise 11
  | some (v, ov) =>
    if ov && (← core c).csw.bovt then raise 10
    return v

/-- Key and gate checks of translated parts, each part read in its turn. -/
def protRead (c : Nat) : List Part → X (List Byte)
  | [] => return []
  | p :: t => do
    protPart c .read p
    tickPart c 1 8 p
    let bs ← readPart c p
    let bs' ← protRead c t
    return bs ++ bs'

/-- Bytes read in the order of Table 4.4: every part translated, the far-chunk limit of R99 if there is one, then key and
gate part by part. -/
def loadAll (c va n : Nat) (limit : Bool) : X (List Byte) := do
  let ps ← xlatAll c .read (vparts va n)
  if limit && farChunks ps > 1 then specTrap
  protRead c ps

/-- The operand of an ACC instruction. -/
def accSrc (c : Nat) (s : Spec) (len : Nat) (limit : Bool) : X W64 := do
  match s with
  | .imm v _ _ => tick c 1; return v
  | _ => return BitVec.ofNat 64 (ofBytes (← loadAll c (eaOf (← core c) s len) len limit))

/-- An ACC operation BACC := f BACC operand, n cc besides its chunks (Table 4.1). -/
def semAcc (n len : Nat) (limit : Bool) (f : W64 → W64 → AluRes) (c : Nat) (i : Dec) : X Ret := do
  let x ← core c
  let v ← accSrc c i.s1 len limit
  tick c (n - 1)
  let r ← aluTake c (f (x.g 4) v)
  setG c 4 r
  applySteps c [stepOf x i.s1 len]
  return {}

/-- LD. -/
def semLd (c : Nat) (i : Dec) : X Ret := semAcc 2 8 false (fun _ v => plain v) c i
/-- LDB. DESIGN CHOICE (log entry 65): of a mode-6 immediate it loads the low 8 bits. -/
def semLdb (c : Nat) (i : Dec) : X Ret := semAcc 2 1 false (fun _ v => plain (v &&& (match i.s1 with
  | .imm _ _ _ => 0xFF
  | _ => -1))) c i
/-- ADD. -/
def semAdd (c : Nat) (i : Dec) : X Ret := semAcc 2 8 false aluAdd c i
/-- SUB. -/
def semSub (c : Nat) (i : Dec) : X Ret := semAcc 2 8 false aluSub c i
/-- MUL. -/
def semMul (c : Nat) (i : Dec) : X Ret := semAcc 4 8 false aluMul c i
/-- DIV (R99: its far-chunk limit). -/
def semDiv (c : Nat) (i : Dec) : X Ret := semAcc 34 8 true aluDiv c i
/-- REM. -/
def semRem (c : Nat) (i : Dec) : X Ret := semAcc 34 8 true aluRem c i
/-- DIVU. -/
def semDivu (c : Nat) (i : Dec) : X Ret := semAcc 34 8 true aluDivu c i
/-- REMU. -/
def semRemu (c : Nat) (i : Dec) : X Ret := semAcc 34 8 true aluRemu c i
/-- AND. -/
def semAnd (c : Nat) (i : Dec) : X Ret := semAcc 2 8 false aluAnd c i
/-- OR. -/
def semOr (c : Nat) (i : Dec) : X Ret := semAcc 2 8 false aluOr c i
/-- XOR. -/
def semXor (c : Nat) (i : Dec) : X Ret := semAcc 2 8 false aluXor c i
/-- SHL. -/
def semShl (c : Nat) (i : Dec) : X Ret := semAcc 2 8 false aluShl c i
/-- SHR. -/
def semShr (c : Nat) (i : Dec) : X Ret := semAcc 2 8 false aluShr c i
/-- SAR. -/
def semSar (c : Nat) (i : Dec) : X Ret := semAcc 2 8 false aluSar c i
/-- ROL. -/
def semRol (c : Nat) (i : Dec) : X Ret := semAcc 2 8 false aluRol c i
/-- ROR. -/
def semRor (c : Nat) (i : Dec) : X Ret := semAcc 2 8 false aluRor c i

/-- A register stored at the operand, its low `len` bytes. -/
def semStoreReg (n len : Nat) (c : Nat) (i : Dec) : X Ret := do
  let x ← core c
  tick c 1
  store c (eaOf x i.s1 len) (toBytes len (x.g n).toNat)
  applySteps c [stepOf x i.s1 len]
  return {}

/-- ST. -/
def semSt (c : Nat) (i : Dec) : X Ret := semStoreReg 4 8 c i
/-- STB. -/
def semStb (c : Nat) (i : Dec) : X Ret := semStoreReg 4 1 c i

/-- A register receives the effective address; 3 cc (LDA, LAX1, LAX2, LASP). -/
def semLoadAddr (n : Nat) (c : Nat) (i : Dec) : X Ret := do
  let x ← core c
  tick c 2
  let r := BitVec.ofNat 64 (eaOf x i.s1 8)
  applySteps c [stepOf x i.s1 8]
  setG c n r
  return {}

/-- LDA. -/
def semLda (c : Nat) (i : Dec) : X Ret := semLoadAddr 4 c i

/-- NEG of LEDGER mode; 2 cc. -/
def semNeg (c : Nat) (_ : Dec) : X Ret := do
  tick c 1
  let r ← aluTake c (aluNeg ((← core c).g 4))
  setG c 4 r
  return {}

/-! ### REGISTER mode (R100) -/

/-- Gd := f Ga Gb in n cc. -/
def semRri (n : Nat) (f : W64 → W64 → AluRes) (c : Nat) (i : Dec) : X Ret := do
  let x ← core c
  tick c (n - 1)
  let r ← aluTake c (f (x.g i.ga) (x.g i.gb))
  setG c i.gd r
  return {}

/-- Gd := f Ga sext(imm) in n cc. -/
def semRi (n : Nat) (f : W64 → W64 → AluRes) (c : Nat) (i : Dec) : X Ret := do
  let x ← core c
  tick c (n - 1)
  let r ← aluTake c (f (x.g i.ga) (sext64 23 i.imm))
  setG c i.gd r
  return {}

/-- LDHI: (Ga shifted left 23) or zext(imm). -/
def ldhiOf (imm : Nat) (a _ : W64) : AluRes := plain ((a <<< 23) ||| BitVec.ofNat 64 imm)

/-- Address of an RM access: Gb bits 31:0 plus the signed displacement, modulo 2^32. -/
def rmAddr (x : Core) (i : Dec) : Nat := (x.idx i.gb + (sext64 9 i.imm).toNat % 2 ^ 32) % 2 ^ 32

/-- An RM load of `n` bytes; Gd is written under the load-delay rule (R101). -/
def semRmLoad (n : Nat) (signed : Bool) (c : Nat) (i : Dec) : X Ret := do
  let x ← core c
  let bs ← loadAll c (rmAddr x i) n false
  tick c 1
  let v := ofBytes bs
  return { ld := some (i.gd, if signed then sext64 (8 * n) v else BitVec.ofNat 64 v) }

/-- An RM store of the low `n` bytes of Gs. -/
def semRmStore (n : Nat) (c : Nat) (i : Dec) : X Ret := do
  let x ← core c
  tick c 1
  store c (rmAddr x i) (toBytes n (x.g i.gd).toNat)
  return {}

end Sys2Proof.Machine
end

