-- ==== Sys2Proof/Machine/Float.lean ====
section
/-!
DEFINITION. Floating point (04 R107 to R113): binary32 and binary64 as IEEE 754-2019, each result rounded once from the
exact value, flags and traps as R109 to R112 give.
-/
namespace Sys2Proof.Machine

/-- A format: its precision, and its exponent field width. -/
structure Fmt where
  p : Nat
  ew : Nat
  deriving DecidableEq, Repr

/-- binary32. -/
def fmtS : Fmt := ⟨24, 8⟩
/-- binary64. -/
def fmtD : Fmt := ⟨53, 11⟩

/-- Exponent bias, the largest exponent. -/
def Fmt.bias (f : Fmt) : Nat := 2 ^ (f.ew - 1) - 1

/-- A floating-point datum: a finite one is ± m × 2^e. -/
inductive FVal where
  | nan (signalling : Bool)
  | inf (neg : Bool)
  | fin (neg : Bool) (m : Nat) (e : Int)
  deriving DecidableEq, Repr

/-- The datum that a register holds (R107). -/
def fdec (f : Fmt) (w : W64) : FVal :=
  let frac := fld w 0 (f.p - 1)
  let ex := fld w (f.p - 1) f.ew
  let neg := bit w (f.p - 1 + f.ew)
  if ex = 2 ^ f.ew - 1 then (if frac = 0 then .inf neg else .nan (frac < 2 ^ (f.p - 2)))
  else if ex = 0 then .fin neg frac (1 - (f.bias : Int) - (f.p - 1 : Nat))
  else .fin neg (frac + 2 ^ (f.p - 1)) ((ex : Int) - f.bias - (f.p - 1 : Nat))

/-- A word of the format from its sign, exponent field and fraction. -/
def fword (f : Fmt) (neg : Bool) (ex frac : Nat) : W64 :=
  BitVec.ofNat 64 (b2n neg * 2 ^ (f.p - 1 + f.ew) + ex * 2 ^ (f.p - 1) + frac)

/-- The canonical quiet NaN (R109). -/
def fnan (f : Fmt) : W64 := fword f false (2 ^ f.ew - 1) (2 ^ (f.p - 2))
/-- An infinity. -/
def finf (f : Fmt) (neg : Bool) : W64 := fword f neg (2 ^ f.ew - 1) 0
/-- A zero. -/
def fzero (f : Fmt) (neg : Bool) : W64 := fword f neg 0 0

/-- Flags, in the bit order of FCSW 4:0. -/
def flNV : Nat := 16
/-- Division by zero. -/
def flDZ : Nat := 8
/-- Overflow and inexact. -/
def flOF : Nat := 5
/-- Underflow. -/
def flUF : Nat := 2
/-- Inexact. -/
def flNX : Nat := 1

/-- A magnitude m × 2^−sh rounded to an integer in FRM's mode, and whether it was inexact. DESIGN CHOICE (log
entry 65): the reserved codes 5 to 7, which only a save area can bring in, round as roundTiesToAway. -/
def froundMag (frm : Nat) (neg : Bool) (m sh : Nat) : Nat × Bool :=
  let q := m / 2 ^ sh
  let r := m % 2 ^ sh
  let two := 2 * r
  let up := match frm with
    | 0 => decide (two > 2 ^ sh) || (two == 2 ^ sh && q % 2 == 1)
    | 1 => false
    | 2 => r != 0 && !neg
    | 3 => r != 0 && neg
    | _ => decide (two ≥ 2 ^ sh)
  (if up && r != 0 then q + 1 else q, r != 0)

/-- Whether FRM's mode sends an overflow of this sign to infinity. -/
def overToInf (frm : Nat) (neg : Bool) : Bool :=
  match frm with
  | 1 => false
  | 2 => !neg
  | 3 => neg
  | _ => true

/-- m × 2^e, m not 0, rounded into the format: the word and its flags (R108, R111). `ufe`: FCSW.UFE. A value known only
to lie between two neighbours is passed with its lowest bit set as a sticky bit. -/
def fround (f : Fmt) (frm : Nat) (ufe neg : Bool) (m : Nat) (e : Int) : W64 × Nat :=
  let top : Int := e + (Nat.log2 m : Nat)
  let emin : Int := 1 - (f.bias : Int)
  let at_ (q : Int) : Nat × Bool := if q ≤ e then (m * 2 ^ (e - q).toNat, false) else froundMag frm neg m (q - e).toNat
  let qu : Int := top - (f.p - 1 : Nat)
  let un := at_ qu
  let topU : Int := if un.1 = 2 ^ f.p then top + 1 else top
  if topU > f.bias then
    (if overToInf frm neg then finf f neg else fword f neg (2 ^ f.ew - 2) (2 ^ (f.p - 1) - 1), flOF)
  else
    let qb : Int := max qu (emin - (f.p - 1 : Nat))
    let r := at_ qb
    let tiny := topU < emin
    let fl := b2n r.2 * flNX + (if tiny && (r.2 || ufe) then flUF else 0)
    let ex : Nat := (qb - (emin - (f.p - 1 : Nat))).toNat
    -- a mantissa of p bits adds 1 to the exponent field by its hidden bit
    (BitVec.ofNat 64 (b2n neg * 2 ^ (f.p - 1 + f.ew) + ex * 2 ^ (f.p - 1) + r.1), fl)

/-- NV when an operand is a signalling NaN. -/
def snan (a : FVal) : Bool := match a with
  | .nan s => s
  | _ => false

/-- Whether an operand is a NaN. -/
def isNan (a : FVal) : Bool := match a with
  | .nan _ => true
  | _ => false

/-- The canonical NaN, with NV when an operand is signalling. -/
def nanRes (f : Fmt) (a b : FVal) : W64 × Nat := (fnan f, if snan a || snan b then flNV else 0)

/-- A signed integer multiple of 2^e rounded; a zero takes the sign given. -/
def froundInt (f : Fmt) (frm : Nat) (ufe : Bool) (i : Int) (e : Int) (zneg : Bool) : W64 × Nat :=
  if i = 0 then (fzero f zneg, 0) else fround f frm ufe (i < 0) i.natAbs e

/-- Sum of two data. -/
def fadd (f : Fmt) (frm : Nat) (ufe : Bool) (a b : FVal) : W64 × Nat :=
  match a, b with
  | .fin s m e, .fin t n g =>
    let l := min e g
    let i : Int := (m * 2 ^ (e - l).toNat : Nat)
    let j : Int := (n * 2 ^ (g - l).toNat : Nat)
    froundInt f frm ufe ((if s then -i else i) + (if t then -j else j)) l (if m = 0 && n = 0 && s == t then s else frm == 3)
  | .inf s, .inf t => if s == t then (finf f s, 0) else (fnan f, flNV)
  | .inf s, .fin _ _ _ => (finf f s, 0)
  | .fin _ _ _, .inf t => (finf f t, 0)
  | a, b => nanRes f a b

/-- A datum with its sign turned. -/
def fneg (a : FVal) : FVal := match a with
  | .nan s => .nan s
  | .inf n => .inf (!n)
  | .fin n m e => .fin (!n) m e

/-- Difference. -/
def fsub (f : Fmt) (frm : Nat) (ufe : Bool) (a b : FVal) : W64 × Nat := fadd f frm ufe a (fneg b)

/-- Product. -/
def fmul (f : Fmt) (frm : Nat) (ufe : Bool) (a b : FVal) : W64 × Nat :=
  match a, b with
  | .fin s m e, .fin t n g => if m * n = 0 then (fzero f (s != t), 0) else fround f frm ufe (s != t) (m * n) (e + g)
  | .inf s, .inf t => (finf f (s != t), 0)
  | .inf s, .fin t n _ => if n = 0 then (fnan f, flNV) else (finf f (s != t), 0)
  | .fin s m _, .inf t => if m = 0 then (fnan f, flNV) else (finf f (s != t), 0)
  | a, b => nanRes f a b

/-- Quotient. -/
def fdiv (f : Fmt) (frm : Nat) (ufe : Bool) (a b : FVal) : W64 × Nat :=
  match a, b with
  | .fin s m e, .fin t n g =>
    if n = 0 then (if m = 0 then (fnan f, flNV) else (finf f (s != t), flDZ))
    else if m = 0 then (fzero f (s != t), 0)
    else
      let k := 2 * f.p + 4
      let q := m * 2 ^ k / n
      fround f frm ufe (s != t) (2 * q + b2n (m * 2 ^ k % n != 0)) (e - g - k - 1)
  | .inf _, .inf _ => (fnan f, flNV)
  | .inf s, .fin t _ _ => (finf f (s != t), 0)
  | .fin s _ _, .inf t => (fzero f (s != t), 0)
  | a, b => nanRes f a b

/-- Integer square root, bit by bit from bit 95 down. -/
def isqrt (n : Nat) : Nat := (List.range 96).foldl (fun r i => let s := r + 2 ^ (95 - i); if s * s ≤ n then s else r) 0

/-- Square root. -/
def fsqrt (f : Fmt) (frm : Nat) (ufe : Bool) (a : FVal) : W64 × Nat :=
  match a with
  | .fin s m e =>
    if m = 0 then (fzero f s, 0)
    else if s then (fnan f, flNV)
    else
      let k : Nat := 2 * f.p + (e % 2).toNat
      let n := m * 2 ^ k
      let r := isqrt n
      fround f frm ufe false (2 * r + b2n (r * r != n)) ((e - k) / 2 - 1)
  | .inf s => if s then (fnan f, flNV) else (finf f false, 0)
  | a => nanRes f a a

/-- Order of two data that are not NaNs: a < b; zeros are equal. -/
def fless (a b : FVal) : Bool :=
  match a, b with
  | .fin s m e, .fin t n g =>
    let l := min e g
    let i : Int := (m * 2 ^ (e - l).toNat : Nat)
    let j : Int := (n * 2 ^ (g - l).toNat : Nat)
    decide ((if s then -i else i) < (if t then -j else j))
  | .inf s, .inf t => s && !t
  | .inf s, .fin _ _ _ => s
  | .fin _ _ _, .inf t => !t
  | _, _ => false

/-- Sign of a datum that is not a NaN. -/
def fsign (a : FVal) : Bool := match a with
  | .nan _ => false
  | .inf s => s
  | .fin s _ _ => s

/-- A binary32 result has zeros above; a binary64 result is the whole register. -/
def fmask (f : Fmt) (w : W64) : W64 := if f.p = 24 then w &&& 0xFFFF_FFFF else w

/-- UF of a result that is one of the operands: tiny when it is subnormal, and exact, so raised only under UFE (R111). -/
def tinyFl (f : Fmt) (ufe : Bool) (w : W64) : Nat :=
  let m := w.toNat % 2 ^ (f.p - 1 + f.ew)
  if ufe && m ≠ 0 && m < 2 ^ (f.p - 1) then flUF else 0

/-- minimumNumber or maximumNumber (Table 4.6). DEDUCED (log entry 64): R111's rule for UF under UFE holds for these operations
too. -/
def fminmax (isMax : Bool) (f : Fmt) (_ : Nat) (ufe : Bool) (wa wb : W64) : W64 × Nat :=
  let a := fdec f wa
  let b := fdec f wb
  let nv := if snan a || snan b then flNV else 0
  if isNan a && isNan b then (fnan f, nv)
  else if isNan a then (fmask f wb, nv + tinyFl f ufe wb)
  else if isNan b then (fmask f wa, nv + tinyFl f ufe wa)
  else
    let aFirst := fless a b || (!fless b a && fsign a)
    let w := if aFirst != isMax then wa else wb
    (fmask f w, tinyFl f ufe w)

/-- FEQ. -/
def feq (a b : FVal) : W64 × Nat :=
  if isNan a || isNan b then (0, if snan a || snan b then flNV else 0)
  else (if !fless a b && !fless b a then 1 else 0, 0)

/-- FLT. -/
def flt (a b : FVal) : W64 × Nat := if isNan a || isNan b then (0, flNV) else (if fless a b then 1 else 0, 0)

/-- FLE. -/
def fle (a b : FVal) : W64 × Nat := if isNan a || isNan b then (0, flNV) else (if !fless b a then 1 else 0, 0)

/-- Conversion to another format. -/
def fcvtF (dst : Fmt) (frm : Nat) (ufe : Bool) (a : FVal) : W64 × Nat :=
  match a with
  | .fin s m e => if m = 0 then (fzero dst s, 0) else fround dst frm ufe s m e
  | .inf s => (finf dst s, 0)
  | a => nanRes dst a a

/-- Conversion of a signed 64-bit integer. -/
def fcvtI (dst : Fmt) (frm : Nat) (ufe : Bool) (v : W64) : W64 × Nat := froundInt dst frm ufe v.toInt 0 false

/-- Conversion to a signed 64-bit integer (Table 4.6). -/
def fcvtL (frm : Nat) (a : FVal) : W64 × Nat :=
  match a with
  | .nan _ => (BitVec.ofNat 64 (2 ^ 63), flNV)
  | .inf s => (BitVec.ofNat 64 (if s then 2 ^ 63 else 2 ^ 63 - 1), flNV)
  | .fin s m e =>
    let r := if e ≥ 0 then (m * 2 ^ e.toNat, false) else froundMag frm s m (-e).toNat
    let i : Int := if s then -(r.1 : Int) else r.1
    if i < -(2 ^ 63) then (BitVec.ofNat 64 (2 ^ 63), flNV)
    else if i ≥ 2 ^ 63 then (BitVec.ofNat 64 (2 ^ 63 - 1), flNV)
    else (BitVec.ofInt 64 i, b2n r.2 * flNX)

/-- An RRF operation of n cc: the floating-point trap with every flag raised when an enabled one is (R112), else the flags
ORed into FCSW and Gd written (R111). -/
def semRrf (n : Nat) (op : (frm : Nat) → (ufe : Bool) → W64 → W64 → W64 × Nat) (c : Nat) (i : Dec) : X Ret := do
  let x ← core c
  tick c (n - 1)
  let w := x.cb.fcsw
  let (r, fl) := op w.frm.toNat (bit w.en 1) (x.g i.ga) (x.g i.gb)
  if fl &&& w.en.toNat ≠ 0 then raise 12 0 0 fl
  if fl ≠ 0 then onCore c (fun y => y.ctl (fun b => { b with fcsw := { w with fl := w.fl ||| BitVec.ofNat 5 fl } }))
  setG c i.gd r
  return {}

/-- An operation on two data of a format. -/
def fop2 (f : Fmt) (op : Fmt → Nat → Bool → FVal → FVal → W64 × Nat) (frm : Nat) (ufe : Bool) (a b : W64) : W64 × Nat :=
  op f frm ufe (fdec f a) (fdec f b)

/-- A comparison of two data of a format. -/
def fcmp (f : Fmt) (op : FVal → FVal → W64 × Nat) (_ : Nat) (_ : Bool) (a b : W64) : W64 × Nat := op (fdec f a) (fdec f b)

end Sys2Proof.Machine
end

