-- ==== Sys2Proof/Machine/Strings.lean ====
section
/-!
DEFINITION. The string instructions (03 R74 to R89): PACKZ and UNPKZ, and the setups and steps of MVS, CLS, TRS, SCN,
EDIT and EDMK, with the setups of their continuations (R81, R82, R157).
-/
namespace Sys2Proof.Machine

/-! ### PACKZ and UNPKZ (R87, R88, Table 3.5) -/

/-- Translated parts checked for write and stored in turn, with their cycles. -/
def protWrite (c : Nat) : List Part → List Byte → X Unit
  | [], _ => return ()
  | p :: t, bs => do
    protPart c .write p
    tickPart c 1 8 p
    writePart c p (bs.take p.n)
    protWrite c t (bs.drop p.n)

/-- Cycles of a part at one cycle a near chunk and 8 more a far one (06 R149). -/
def partCost (p : Part) : Nat := chunks p.va p.n * (1 + if p.far then 8 else 0)

/-- Destination parts translated in turn; a fault has taken the full count less the cycles of its part and of those above it (06 Table 6.3):
`before` cycles and those of the parts below. -/
def xlatDest (c : Nat) : Nat → List (Nat × Nat × Bool) → X (List Part)
  | _, [] => return []
  | before, (va, n, s) :: t => do
    let p ← tryCatch (xlatPart c .write va n s) (fun e => do
      match e with
      | .trap _ _ _ _ _ => tick c before
      | _ => pure ()
      throw e)
    let ps ← xlatDest c (before + partCost p) t
    return p :: ps

/-- A conversion between zoned and packed: `rd` reads the source's value, `digits` is what the destination holds, `wr`
writes it; 6 + ks + kd cc. -/
def semConvert (rd : List Byte → Option SDec) (digits : Nat → Nat) (wr : Nat → SDec → List Byte) (c : Nat) (i : Dec) : X Ret := do
  let x ← core c
  let sp ← xlatAll c .read (vparts (eaOf x i.s2 i.len2) i.len2)
  let dp ← xlatDest c (5 + (sp.map partCost).sum) (vparts (eaOf x i.s1 i.len) i.len)
  if farChunks sp + farChunks dp > 4 then specTrap
  let bs ← protRead c sp
  tick c 5
  let v ← needValid (rd bs)
  let (w, st) ← fit c v (digits i.len)
  protWrite c dp (wr i.len w)
  stick c st
  applySteps c [stepOf x i.s1 i.len, stepOf x i.s2 i.len2]
  return {}

/-- PACKZ. -/
def semPackz (c : Nat) (i : Dec) : X Ret := semConvert unzone (fun n => 2 * n - 1) pack c i
/-- UNPKZ. -/
def semUnpkz (c : Nat) (i : Dec) : X Ret := semConvert unpack (fun n => n) zone c i

/-! ### What the steps share -/

/-- Parts of an access translated and checked in turn (R77). -/
def checkParts (c : Nat) (a : Acc) : List (Nat × Nat × Bool) → X (List Part)
  | [] => return []
  | (va, n, s) :: t => do
    let p ← xlatPart c a va n s
    protPart c a p
    let ps ← checkParts c a t
    return p :: ps

/-- Far chunks of parts other than the chunk that the step before touched. -/
def newFar (ps : List Part) (shared : Option Nat) : Nat :=
  (ps.map (fun p => if p.far then ((List.range (chunks p.va p.n)).filter (fun j => some (p.va / 16 + j) != shared)).length else 0)).sum

/-- The byte next to a step on the side of the step before it, as a chunk; none when every chunk is charged. -/
def sharedChunk (f : Flight) (addr off n : Nat) : Option Nat :=
  if f.fresh || f.doneN = 0 then none
  else if f.dir then some ((addr + off + n) % 2 ^ 32 / 16)
  else some ((addr + off + 2 ^ 32 - 1) % 2 ^ 32 / 16)

/-- Offset and width of the next step of up to `w` bytes, counted in the direction of DIR (R78). DIR means nothing to CLS and
SCN: `Flight.used` takes it as 0 there (log entry 65). -/
def stepSpan (f : Flight) (w : Nat) : Nat × Nat :=
  let n := min w (f.len.toNat - f.doneN.toNat)
  (if f.dir then f.len.toNat - f.doneN.toNat - n else f.doneN.toNat, n)

/-- The continuation after a step of `n` bytes. -/
def Flight.did (f : Flight) (n : Nat) : Flight := { f with doneN := f.doneN + BitVec.ofNat 16 n, fresh := false }

/-- The start of a string instruction: addresses, steps and length taken (R74). `l2`: the length by which the second
specifier's address is formed. -/
def startStr (opid c : Nat) (i : Dec) (l2 : Nat) : X Flight := do
  let x ← core c
  return { Flight.start opid with
    addr1 := BitVec.ofNat 32 (eaOf x i.s1 i.len), addr2 := BitVec.ofNat 32 (eaOf x i.s2 l2), step1 := stepCode i.s1
    step2 := stepCode i.s2, len := BitVec.ofNat 16 i.len }

/-- Whether a move descends (R78). -/
def descends (f : Flight) : Bool :=
  let k := (f.addr1 - f.addr2).toNat
  0 < k && k < f.len.toNat

/-- The specifier steps at completion (Table 3.6). -/
def endSteps (c : Nat) (f : Flight) (l2 : Nat) : X Unit :=
  applySteps c [stepFrom f.step1 f.addr1 f.len.toNat, stepFrom f.step2 f.addr2 l2]

/-- Address of an operand's byte. -/
def byteVa (a : BitVec 32) (off : Nat) : Nat := (a.toNat + off) % 2 ^ 32

/-! ### MVS (R78, R79) -/

/-- Setup of MVS. -/
def setupMvs (c : Nat) (i : Dec) : X Flight := do
  tick c 5
  let f ← startStr 1 c i i.len
  return { f with dir := descends f }

/-- A step of MVS, or its completion. -/
def stepMvs (c : Nat) (_ : Dec) (f : Flight) : X StepEnd := do
  if f.doneN = f.len then
    endSteps c f f.len.toNat
    return .fin {}
  let (off, n) := stepSpan f 16
  let sp ← checkParts c .read (vparts (byteVa f.addr2 off) n)
  let dp ← checkParts c .write (vparts (byteVa f.addr1 off) n)
  tick c (1 + 8 * (newFar sp (sharedChunk f f.addr2.toNat off n) + newFar dp (sharedChunk f f.addr1.toNat off n)))
  let bs ← readAll c sp
  writeAll c dp bs
  return .more (f.did n)

/-! ### CLS (R80) -/

/-- Setup of CLS. -/
def setupCls (c : Nat) (i : Dec) : X Flight := do
  tick c 5
  startStr 2 c i i.len

/-- The first unequal pair of two strings: whether the first byte is lower. -/
def firstDiff : List Byte → List Byte → Option Bool
  | a :: s, b :: t => if a = b then firstDiff s t else some (a.ult b)
  | _, _ => none

/-- A step of CLS, or its completion. DESIGN CHOICE (log entry 65): every check of the first operand comes before the second's. -/
def stepCls (c : Nat) (i : Dec) (f : Flight) : X StepEnd := do
  if f.doneN = f.len then
    let x ← core c
    endSteps c f f.len.toNat
    let taken := condCls i.cond (bit f.flags 2) (bit f.flags 1)
    return .fin { pc := if taken then some ((x.cb.pc.toNat + i.tgt) % 65536) else none }
  let (off, n) := stepSpan f 16
  let p1 ← checkParts c .read (vparts (byteVa f.addr1 off) n)
  let p2 ← checkParts c .read (vparts (byteVa f.addr2 off) n)
  tick c (1 + 8 * (newFar p1 (sharedChunk f f.addr1.toNat off n) + newFar p2 (sharedChunk f f.addr2.toNat off n)))
  let a ← readAll c p1
  let b ← readAll c p2
  let fl := if bit f.flags 2 then f.flags else match firstDiff a b with
    | none => f.flags
    | some lower => if lower then 6 else 4
  return .more { f.did n with flags := fl }

/-! ### TRS (R81) -/

/-- The table checked for read; its physical addresses are held. -/
def checkTable (c : Nat) (f : Flight) : X Flight := do
  if f.len = 0 then return f
  let ps ← checkParts c .read (vparts f.addr3.toNat 256)
  return { f with latch := putLatch [] 0 (ps.map (fun p => BitVec.ofNat 64 p.pa)) }

/-- Setup of TRS. -/
def setupTrs (c : Nat) (i : Dec) : X Flight := do
  let x ← core c
  let f ← startStr 3 c i i.len
  let g ← checkTable c { f with dir := descends f, addr3 := BitVec.ofNat 32 (x.idx 6) }
  tick c 5
  return g

/-- The table's parts as the setup translated them. -/
def tableParts (c : Nat) (f : Flight) : List Part := heldParts c f.latch 0 f.addr3.toNat 256

/-- One byte looked up in the table. -/
def lookup (c : Nat) (f : Flight) (b : Byte) : X Byte := do
  let va := byteVa f.addr3 b.toNat
  match (tableParts c f).find? (fun p => p.va ≤ va && va < p.va + p.n) with
  | none => return 0
  | some p =>
    let bs ← readPart c { p with va := va, n := 1, pa := p.pa + (va - p.va) }
    return bs.getD 0 0

/-- A step of TRS, or its completion. The table is far for every byte when any part of it is, so that no count depends on a byte's value
(06 R147; log 61). -/
def stepTrs (c : Nat) (_ : Dec) (f : Flight) : X StepEnd := do
  if f.doneN = f.len then
    endSteps c f f.len.toNat
    return .fin {}
  let (off, n) := stepSpan f 1
  let sp ← checkParts c .read (vparts (byteVa f.addr2 off) n)
  let dp ← checkParts c .write (vparts (byteVa f.addr1 off) n)
  let bs ← readAll c sp
  let v ← lookup c f (bs.getD 0 0)
  tick c (1 + 8 * (newFar sp (sharedChunk f f.addr2.toNat off n) + newFar dp (sharedChunk f f.addr1.toNat off n) +
    b2n ((tableParts c f).any Part.far)))
  writeAll c dp [v]
  return .more (f.did n)

/-! ### SCN (R82) -/

/-- The class map checked and read, each far chunk charged. -/
def readMap (c : Nat) (f : Flight) : X Flight := do
  if f.len = 0 then return f
  let ps ← checkParts c .read (vparts f.addr2.toNat 32)
  tick c (8 * farChunks ps)
  let bs ← readAll c ps
  return { f with latch := putLatch [] 0 (latchOf bs) }

/-- Setup of SCN. -/
def setupScn (c : Nat) (i : Dec) : X Flight := do
  let f ← readMap c (← startStr 4 c i (if i.len = 0 then 0 else 32))
  tick c 7
  return f

/-- Whether a byte value is in the class of a held map. -/
def inClass (m : SMap W64) (b : Byte) : Bool :=
  bit ((latchBytes m 0).getD (b.toNat / 8) 0) (7 - b.toNat % 8)

/-- A step of SCN, or its completion. -/
def stepScn (c : Nat) (_ : Dec) (f : Flight) : X StepEnd := do
  if f.doneN = f.len then
    endSteps c f (if f.len = 0 then 0 else 32)
    if bit f.flags 2 then
      setG c 5 (BitVec.ofNat 64 f.addr3.toNat)
      setG c 4 (BitVec.ofNat 64 (f.len.toNat - (f.addr3 - f.addr1).toNat))
    else
      setG c 5 (BitVec.ofNat 64 (byteVa f.addr1 f.len.toNat))
      setG c 4 0
    return .fin {}
  let (off, n) := stepSpan f 4
  let ps ← checkParts c .read (vparts (byteVa f.addr1 off) n)
  tick c (1 + 8 * newFar ps (sharedChunk f f.addr1.toNat off n))
  let bs ← readAll c ps
  let g := f.did n
  if bit f.flags 2 then return .more g
  match bs.findIdx? (inClass f.latch) with
  | none => return .more g
  | some j => return .more { g with flags := 4, addr3 := BitVec.ofNat 32 (byteVa f.addr1 (off + j)) }

/-! ### EDIT and EDMK (R83 to R86) -/

/-- Tier of one part of the source bound: true when it translates into frond store; a failed translation counts as near
(R75). -/
def boundFar (c va : Nat) : X Bool := do
  let x ← core c
  let farOf (r : BlockReg) : Bool := frondBase 0 ≤ descPbase r.d1 && descPbase r.d1 < workBase 0
  match x.brHit va with
  | some n =>
    onCore c (fun y => { y with brRank := touchRank y.brRank n })
    return farOf (x.brAt n)
  | none =>
    match ← timedWalk c va with
    | .filled _ r => return farOf r
    | .fault _ _ => return false

/-- Frames of the bound that are far, held in the latch by frame number. -/
def boundTiers (c : Nat) : List (Nat × Nat × Bool) → SMap W64 → X (SMap W64)
  | [], m => return m
  | (va, _, _) :: t, m => do
    let far ← boundFar c va
    boundTiers c t (if far then SMap.put m (va / 4096) 1 else m)

/-- Tiers of the source bytes from byte `k` of the bound up (R75). -/
def fixTiers (c : Nat) (f : Flight) (k : Nat) : X Flight := do
  let m ← boundTiers c (vparts (byteVa f.addr2 k) (f.len.toNat - 1 - k)) []
  return { f with latch := m }

/-- Setup of EDIT and EDMK: the fill byte read, and the tiers of the source bound fixed. -/
def setupEdit (opid c : Nat) (i : Dec) : X Flight := do
  let f ← startStr opid c i (i.len - 1)
  if f.len = 0 then
    tick c 7
    return f
  let ps ← checkParts c .read (vparts f.addr1.toNat 1)
  let g ← fixTiers c f 0
  tick c (8 + 16 * farChunks ps)
  let bs ← readAll c ps
  return { g with fill := bs.getD 0 0, doneN := 1, fresh := false }

/-- What one pattern byte does to the editing state (R83's pseudocode): the byte written and the state after, with
FLAGS and ESTATE as 03 gives them. `x`: the digit taken and the sign nibble that followed it. -/
def editByte (mk : Bool) (f : Flight) (va : Nat) (p : Byte) (x : Nat) (sgn : Option Bool) : Byte × Flight :=
  let lit := bit f.flags 2
  let signRead := bit f.estate 2
  let minus := bit f.estate 1
  let run := bit f.estate 0
  let est (a b r : Bool) : BitVec 3 := BitVec.ofNat 3 (b2n a * 4 + b2n b * 2 + b2n r)
  let showMinus := signRead && minus
  if p = 0x1A || p = 0x1B then
    let force := p == 0x1B
    let lights := !lit && (x != 0 || force)
    let written := x != 0 || lit || force
    let g := if mk && lights then { f with flags := f.flags ||| 1, addr3 := BitVec.ofNat 32 va } else f
    let (a, b) := match sgn with
      | some m => (true, m)
      | none => (signRead, minus)
    (if written then BitVec.ofNat 8 (0x30 + x) else f.fill, { g with flags := if written then g.flags ||| 4 else g.flags, estate := est a b false })
  else if p = 0x1C then (f.fill, { f with flags := f.flags &&& 3, estate := 0 })
  else if p = 0x1D then (if showMinus then 0x2D else f.fill, { f with estate := est signRead minus false })
  else if p = 0x1E then (f.fill, { f with estate := est signRead minus true })
  else if run then (if showMinus then p else f.fill, f)
  else (if lit then p else f.fill, f)

/-- A step of EDIT or EDMK, or its completion. DESIGN CHOICE (log entry 65): continued from a CONT with DONE 0 it takes pattern
byte 0 as a control; SBYTE keeps the last source byte read while no digit is held. -/
def stepEdit (mk : Bool) (c : Nat) (_ : Dec) (f : Flight) : X StepEnd := do
  if f.doneN = f.len then
    endSteps c f f.soff.toNat
    if mk && bit f.flags 0 then setG c 5 (BitVec.ofNat 64 f.addr3.toNat)
    return .fin {}
  let k := f.doneN.toNat
  let va := byteVa f.addr1 k
  let pp ← checkParts c .rw (vparts va 1)
  let pat ← (match pp with
    | p :: _ => readPart c p
    | [] => pure [])
  let ch := pat.getD 0 0
  let digit := ch == 0x1A || ch == 0x1B
  -- the source byte held after this step, the digit taken, the sign noted, and whether a low nibble is left
  let (sb, x, sgn, low, soff) ← (do
    if !digit then return (f.sbyte, 0, none, bit f.flags 1, f.soff)
    if bit f.flags 1 then return (f.sbyte, f.sbyte.toNat % 16, none, false, f.soff)
    let sp ← checkParts c .read (vparts (byteVa f.addr2 f.soff.toNat) 1)
    let bs ← readAll c sp
    let b := bs.getD 0 0
    if b.toNat / 16 > 9 then raise 7
    let lo := b.toNat % 16
    return (b, b.toNat / 16, if lo > 9 then some (signNeg lo) else none, decide (lo ≤ 9), f.soff + 1) : X (Byte × Nat × Option Bool × Bool × BitVec 16))
  let newPat := f.fresh || va / 16 != byteVa f.addr1 (k - 1) / 16
  let sva := byteVa f.addr2 (k - 1)
  let newSrc := f.fresh || k = 1 || sva / 16 != byteVa f.addr2 (k - 2) / 16
  tick c (1 + (if newPat then 16 * farChunks pp else 0) + (if newSrc && SMap.get 0 f.latch (sva / 4096) != 0 then 8 else 0))
  let (out, g) := editByte mk f va ch x sgn
  for p in pp do
    modify (fun d => d.markKey p.pa .rw)
  writeAll c pp [out]
  return .more { g.did 1 with sbyte := sb, soff := soff, flags := setBit g.flags 1 low }

/-! ### Setup of a continuation -/

/-- The 4 cc of resume setup, with the checks and reads that TRS, SCN, EDIT and EDMK make again (R75, R81, R82, R157). -/
def resumeSetup (c : Nat) (f : Flight) : X Flight := do
  tick c 4
  match f.opid.toNat with
  | 3 => checkTable c f
  | 4 => readMap c f
  | 5 | 6 => if f.len = 0 then return f else fixTiers c f (f.doneN.toNat - 1)
  | _ => return f

end Sys2Proof.Machine
end

