-- ==== Sys2Proof/Machine/Flow.lean ====
section
/-!
DEFINITION. Index registers, branches, calls and returns, and the cores' housekeeping (05 R115 to R120, R139 to R145; 10
R272; 01 R16).
-/
namespace Sys2Proof.Machine

/-- Bits 31:0 of a value, as an index register receives it (01 R16). -/
def low32 (v : W64) : W64 := BitVec.ofNat 64 (v.toNat % 2 ^ 32)

/-! ### Index registers -/

/-- LDX1, LDX2 (R139): in LEDGER mode the register is written at the end of the next instruction, in FORERUNNER mode at
completion; 2 + k cc. -/
def semLdx (n : Nat) (c : Nat) (i : Dec) : X Ret := do
  let x ← core c
  let v ← srcBin c i.s1 8
  tick c 1
  applySteps c [stepOf x i.s1 8]
  if x.csw.mode = 0 then return { ld := some (n, low32 v) }
  setG c n (low32 v)
  return {}

/-- LDSP: SP is written at completion. -/
def semLdsp (c : Nat) (i : Dec) : X Ret := do
  let x ← core c
  let v ← srcBin c i.s1 8
  tick c 1
  applySteps c [stepOf x i.s1 8]
  setG c 7 (low32 v)
  return {}

/-- ADX1, ADX2, ADSP: the register plus the operand, modulo 2^32. -/
def semAdx (n : Nat) (c : Nat) (i : Dec) : X Ret := do
  let x ← core c
  let v ← srcBin c i.s1 8
  tick c 1
  applySteps c [stepOf x i.s1 8]
  setG c n (low32 (x.g n + v))
  return {}

/-- STX1, STX2, STSP. -/
def semStx (n : Nat) (c : Nat) (i : Dec) : X Ret := semStoreReg n 8 c i

/-! ### Branches and jumps (R115, R116) -/

/-- Right operand of BCMP and BCMPL. -/
def rightOf (x : Core) (i : Dec) : W64 := if i.r then x.g 4 else 0

/-- BCMP; 3 cc. -/
def semBcmp (c : Nat) (i : Dec) : X Ret := do
  let x ← core c
  tick c 2
  return { pc := if cond64 i.cond (x.g i.ga) (rightOf x i) then some ((x.cb.pc.toNat + i.tgt) % 65536) else none }

/-- BCMPL; 3 cc. -/
def semBcmpl (c : Nat) (i : Dec) : X Ret := do
  let x ← core c
  tick c 2
  return { pc := if cond64 i.cond (x.g i.ga) (rightOf x i) then some i.tgt else none }

/-- JMP; 3 cc. -/
def semJmp (c : Nat) (i : Dec) : X Ret := do
  tick c 2
  return { pc := some i.tgt }

/-- JMPR; 2 + k cc. -/
def semJmpr (c : Nat) (i : Dec) : X Ret := do
  let x ← core c
  let v ← srcBin c i.s1 8
  tick c 1
  applySteps c [stepOf x i.s1 8]
  return { pc := some (v.toNat % 65536) }

/-! ### Calls and returns (R118 to R120) -/

/-- Word after the instruction. -/
def retAddr (x : Core) (i : Dec) : Nat := (x.cb.pc.toNat + i.n) % 65536

/-- A push on the return stack of FORERUNNER (R120). -/
def pushRstk (c ret : Nat) : X Unit := do
  let b := (← core c).cb
  if b.rsD = 8 && b.csw.rstrap then raise 14 0 1
  onCore c (fun x => x.ctl (fun y =>
    let p := y.rsP + 1
    { y with rsP := p, rstk := SMap.put y.rstk p.toNat (BitVec.ofNat 16 ret), rsD := BitVec.ofNat 4 (min (y.rsD.toNat + 1) 8) }))

/-- A push on the memory stack (R118): the 8-byte return address at SP − 8; SP is written at completion. -/
def pushMem (c ret : Nat) : X Unit := do
  let x ← core c
  let sp := (x.idx 7 + 2 ^ 32 - 8) % 2 ^ 32
  store c sp (toBytes 8 ret)
  setG c 7 (BitVec.ofNat 64 sp)

/-- CALL; 4 + k cc, 5 in FORERUNNER. -/
def semCall (c : Nat) (i : Dec) : X Ret := do
  let x ← core c
  if x.csw.mode = 2 then
    tick c 4
    pushRstk c (retAddr x i)
  else
    tick c 3
    pushMem c (retAddr x i)
  return { pc := some i.tgt }

/-- CALLR; 3 + k cc, 4 + k in FORERUNNER. -/
def semCallr (c : Nat) (i : Dec) : X Ret := do
  let x ← core c
  let v ← srcBin c i.s1 8
  if x.csw.mode = 2 then
    tick c 3
    pushRstk c (retAddr x i)
  else
    tick c 2
    pushMem c (retAddr x i)
  applySteps c [stepOf x i.s1 8]
  return { pc := some (v.toNat % 65536) }

/-- RET; 4 + k cc, 5 in FORERUNNER. -/
def semRet (c : Nat) (_ : Dec) : X Ret := do
  let x ← core c
  if x.csw.mode = 2 then
    tick c 4
    let b := x.cb
    if b.rsD = 0 && b.csw.rstrap then raise 14 0 2
    onCore c (fun y => y.ctl (fun z => { z with rsP := z.rsP - 1, rsD := if z.rsD = 0 then 0 else z.rsD - 1 }))
    return { pc := some (SMap.get 0 b.rstk b.rsP.toNat).toNat }
  else
    let bs ← load c (x.idx 7) 8
    tick c 3
    let v := ofBytes bs
    if v ≥ 65536 then specTrap
    setG c 7 (BitVec.ofNat 64 ((x.idx 7 + 8) % 2 ^ 32))
    return { pc := some v }

/-! ### NOP, SYNC, FENCE, WAIT -/

/-- NOP; 1 cc. -/
def semNop (_ : Nat) (_ : Dec) : X Ret := return {}

/-- SYNC (R141); 4 cc. -/
def semSync (c : Nat) (_ : Dec) : X Ret := do
  tick c 3
  modify (syncCore c)
  return {}

/-- FENCE (R145); 34 cc. -/
def semFence (c : Nat) (_ : Dec) : X Ret := do
  tick c 33
  modify (drainAll c)
  return {}

/-- WAIT (R128); 2 cc, then the core waits. -/
def semWait (c : Nat) (_ : Dec) : X Ret := do
  let x ← core c
  tick c 1
  if x.csw.imask = 15 then specTrap
  onCore c (fun y => { y with run := .inWait })
  return {}

/-! ### Invalidation (10 R272) -/

/-- Block registers invalidated and any prefetch ended. -/
def invalWhere (c : Nat) (p : BlockReg → Bool) : X Unit := onCore c (fun x => { x.invalidate p with prefetch := none })

/-- INVA; 5 cc. -/
def semInva (c : Nat) (i : Dec) : X Ret := do
  let x ← core c
  let a := eaOf x i.s1 8
  tick c 4
  applySteps c [stepOf x i.s1 8]
  invalWhere c (fun r => r.tag == x.csw.ctag && descHolds r.d0 a)
  return {}

/-- INVT; 3 + k cc. -/
def semInvt (c : Nat) (i : Dec) : X Ret := do
  let x ← core c
  let v ← srcBin c i.s1 8
  tick c 2
  if v.toNat ≥ 256 then specTrap
  applySteps c [stepOf x i.s1 8]
  invalWhere c (fun r => r.tag.toNat == v.toNat)
  return {}

/-- INVALL; 4 cc. -/
def semInvall (c : Nat) (_ : Dec) : X Ret := do
  tick c 3
  invalWhere c (fun _ => true)
  return {}

end Sys2Proof.Machine
end

