-- ==== Sys2Proof/Machine/System.lean ====
section
/-!
DEFINITION. Control registers (01 R20 to R23, R41, R410), bank registers (05 R131 to R133), and the program store's LDPW and
STPW (01 Program store; 05 R142; 10 R281).
-/
namespace Sys2Proof.Machine

/-! ### Control registers -/

/-- LEGEND[0] to LEGEND[7] of a core (01 Table 1.10). -/
def legend (x : Core) (c n : Nat) : Nat :=
  match n with
  | 0 => 0x0300_0007
  | 1 => 0x1002_0400
  | 2 => c * 2 ^ 16 + frondOf c * 2 ^ 8 + thallusOf c
  | 3 => 0x1210_1518
  | 4 => 0x2209_1008
  | 5 => Config.ucRev.toNat * 2 ^ 16 + x.patchLevel.toNat
  | 6 => legend6
  | _ => Config.stepMajor.toNat * 2 ^ 8 + Config.stepMinor.toNat

/-- What MFCR of control register n reads (R20, R141: pending values). -/
def readCr (x : Core) (c n : Nat) : Nat :=
  match n with
  | 0 => (x.cswPending.pack x.cur).toNat
  | 1 => x.cb.fcsw.pack.toNat
  | 2 => x.cb.dsticky.toNat
  | 3 => (x.pendTvb.getD x.tvb).toNat * 256
  | 4 => (x.pendBwin.getD x.bwin).pack.toNat
  | 5 => x.budget.toNat
  | 6 => x.ctimer.toNat
  | 7 => x.dscale
  | n => legend x c (n - 8)

/-- Supervisor-only control registers for MFCR. -/
def crPrivRead (n : Nat) : Bool := n == 3 || n == 4

/-- Supervisor-only control registers for MTCR. -/
def crPrivWrite (n : Nat) : Bool := n == 3 || n == 4 || n == 6

/-- Read-only control registers. -/
def crReadOnly (n : Nat) : Bool := n == 5 || n ≥ 8

/-- MFCR: checks of R410, then the operand written; 2 + k cc. In FORERUNNER the operand is BACC (01 R38). -/
def semMfcr (c : Nat) (i : Dec) : X Ret := do
  let x ← core c
  if crPrivRead i.cr && !x.csw.priv then raise 3
  let v := readCr x c i.cr
  if x.csw.mode = 2 then
    tick c 2
    setG c 4 (BitVec.ofNat 64 v)
    return {}
  tick c 1
  store c (eaOf x i.s1 8) (toBytes 8 v)
  applySteps c [stepOf x i.s1 8]
  return {}

/-- Whether FCSW may hold a value: no reserved bit or encoding. -/
def fcswOk (v : Nat) : Bool := v < 2 ^ 13 && v / 2 ^ 10 < 5

/-- Whether CSW or TCSW may hold a 32-bit value. -/
def cswOk (v : Nat) : Bool := v < 2 ^ 32 && v % 2 == 0 && v / 2 ^ 16 % 4 != 3

/-- Whether control register n may hold a value (R20). -/
def crOk (n v : Nat) : Bool :=
  match n with
  | 0 => cswOk v
  | 1 => fcswOk v
  | 2 => v < 8
  | 3 => v < 65536 && v % 256 == 0
  | 4 => v < 65536 && v / 2 ^ 14 % 2 == 0 && v / 16 % 16 == 0 && v % 16 ≤ 8
  | 6 => v < 2 ^ 32
  | _ => v < 32

/-- Whether two CSW values differ only where a user may write (R22). -/
def userMayWrite (a b : CSW) : Bool :=
  { a with rmode := 0, sat := false, dovt := false, bovt := false } == { b with rmode := 0, sat := false, dovt := false, bovt := false }

/-- An MTCR's effect: KEY, CTAG, MODE, TVB and BWIN become pending (R141), the rest governs at once (R21). CTIMER is written
after the cycles of the MTCR itself have been counted. -/
def Core.writeCr (x : Core) (n : Nat) (v : W64) : Core :=
  let w := CSW.unpack (BitVec.ofNat 32 v.toNat)
  match n with
  | 0 => { x.ctl (fun b => { b with csw := { w with key := b.csw.key, ctag := b.csw.ctag, mode := b.csw.mode } }) with
             pendKey := some w.key, pendCtag := some w.ctag, pendMode := some w.mode }
  | 1 => x.ctl (fun b => { b with fcsw := FCSW.unpack (BitVec.ofNat 32 v.toNat) })
  | 2 => x.ctl (fun b => { b with dsticky := BitVec.ofNat 3 v.toNat })
  | 3 => { x with pendTvb := some (BitVec.ofNat 8 (v.toNat / 256)) }
  | 4 => { x with pendBwin := some (BWin.unpack (BitVec.ofNat 32 v.toNat)) }
  | 6 => { x.account with ctimer := BitVec.ofNat 32 v.toNat, pendTimer := false }
  | _ => x.setDscale (v.toNat % 32)

/-- MTCR; 2 + k cc. -/
def semMtcr (c : Nat) (i : Dec) : X Ret := do
  let x ← core c
  if crPrivWrite i.cr && !x.csw.priv then raise 3
  if crReadOnly i.cr then specTrap
  let fore := x.csw.mode == 2
  let v ← (if fore then do tick c 1; return x.g 4 else srcBin c i.s1 8 : X W64)
  if !crOk i.cr v.toNat then specTrap
  tick c 1
  if i.cr = 0 && !x.csw.priv && !userMayWrite (CSW.unpack (BitVec.ofNat 32 v.toNat)) x.cswPending then raise 3
  if !fore then applySteps c [stepOf x i.s1 8]
  onCore c (fun y => y.writeCr i.cr v)
  return {}

/-! ### Bank registers (05 Table 5.4) -/

/-- Four 16-bit return-stack entries from `i` up. -/
def rstkWord (b : Bank) (i : Nat) : Nat :=
  (SMap.get 0 b.rstk i).toNat * 2 ^ 48 + (SMap.get 0 b.rstk (i + 1)).toNat * 2 ^ 32 + (SMap.get 0 b.rstk (i + 2)).toNat * 2 ^ 16 +
    (SMap.get 0 b.rstk (i + 3)).toNat

/-- Whether a bank's digit latch group is held (R131). -/
def Bank.latchHeld (b : Bank) : Bool :=
  let o := fld b.cont0 45 5
  8 ≤ o && o ≤ 12

/-- BSTAT of bank n. -/
def bstat (b : Bank) (n : Nat) : Nat :=
  (if n = 8 then 2 ^ 63 + 0xFFFF * 2 ^ 32 else b2n b.res * 2 ^ 63 + b.ctx.toNat * 2 ^ 32 + b.age.toNat * 2 ^ 8) + b2n b.latchHeld * 32 +
    b.dirty.toNat

/-- What MFB reads at index r of bank n (R132). -/
def Bank.readIdx (b : Bank) (n r : Nat) : W64 :=
  if r < 32 then b.rd r
  else BitVec.ofNat 64 (match r with
    | 32 => b.pc.toNat
    | 33 => (b.csw.pack n).toNat
    | 34 => b.fcsw.pack.toNat
    | 35 => b.dsticky.toNat
    | 36 => b.dscale.toNat
    | 37 => b.tpc.toNat
    | 38 => (b.tcsw.pack b.tcswBank.toNat).toNat
    | 39 => b.tcause.toNat
    | 40 => b.taddr.toNat
    | 41 => rstkWord b 0
    | 42 => rstkWord b 4
    | 43 => b.rsD.toNat * 16 + b.rsP.toNat
    | 44 => b.cont0.toNat
    | 45 => b.cont1.toNat
    | 46 => b.cont2.toNat
    | 47 => b.cont3.toNat
    | 48 => bstat b n
    | _ => b.bsave.toNat)

/-- Return-stack entries `i` to `i + 3` from a 64-bit value. -/
def putRstk (m : SMap (BitVec 16)) (i v : Nat) : SMap (BitVec 16) :=
  (List.range 4).foldl (fun a j => SMap.put a (i + j) (BitVec.ofNat 16 (v / 2 ^ (48 - 16 * j)))) m

/-- The bank with index r written by MTB; BANK fields are ignored. -/
def Bank.writeIdx (b : Bank) (r : Nat) (v : W64) : Bank :=
  if r < 32 then b.wr r v
  else
    let n := v.toNat
    let y : Bank := match r with
      | 32 => { b with pc := BitVec.ofNat 16 n }
      | 33 => { b with csw := CSW.unpack (BitVec.ofNat 32 n) }
      | 34 => { b with fcsw := FCSW.unpack (BitVec.ofNat 32 n) }
      | 35 => { b with dsticky := BitVec.ofNat 3 n }
      | 36 => { b with dscale := BitVec.ofNat 5 n }
      | 37 => { b with tpc := BitVec.ofNat 16 n }
      | 38 => { b with tcsw := CSW.unpack (BitVec.ofNat 32 n) }
      | 39 => { b with tcause := BitVec.ofNat 32 n }
      | 40 => { b with taddr := v }
      | 41 => { b with rstk := putRstk b.rstk 0 n }
      | 42 => { b with rstk := putRstk b.rstk 4 n }
      | 43 => { b with rsD := BitVec.ofNat 4 (n / 16), rsP := BitVec.ofNat 3 n }
      | 44 => { b with cont0 := v }
      | 45 => { b with cont1 := v }
      | 46 => { b with cont2 := v }
      | 47 => { b with cont3 := v }
      | _ => b
    y.ctlDirty

/-- Whether bank register r may hold a value (R133). -/
def bankValueOk (r v : Nat) : Bool :=
  match r with
  | 32 => v < 65536
  | 33 => cswOk v
  | 34 => fcswOk v
  | 35 => v < 8
  | 36 => v < 32
  | 37 => v < 65536
  | 38 => cswOk v
  | 39 => v < 2 ^ 32 && v / 2 ^ 24 % 8 < 4
  | 40 => v / 2 ^ 40 % 2 ^ 23 == 0
  | 43 => v < 256 && v / 8 % 2 == 0 && v / 16 ≤ 8
  | _ => true

/-- BWIN.REG stepped after an MFB or MTB when INC is 1 (R132). -/
def Core.stepBwin (x : Core) : Core := if x.bwin.inc then { x with bwin := { x.bwin with reg := x.bwin.reg + 1 } } else x

/-- That step made by the running core. -/
def stepBwin (c : Nat) : X Unit := onCore c Core.stepBwin

/-- Whether a bank is resident; BF always is. -/
def Core.resident (x : Core) (b : Nat) : Bool := b == 8 || (x.bank b).res

/-- MFB; 3 + k cc. -/
def semMfb (c : Nat) (i : Dec) : X Ret := do
  let x ← core c
  let b := x.bwin.bank.toNat
  let r := x.bwin.reg.toNat
  if r ≥ 50 then specTrap
  let v := if x.resident b then (x.bank b).readIdx b r else 0
  tick c 2
  store c (eaOf x i.s1 8) (toBytes 8 v.toNat)
  applySteps c [stepOf x i.s1 8]
  stepBwin c
  return {}

/-- Whether a specifier steps register r. -/
def Spec.stepsReg (s : Spec) (r : Nat) : Bool := s.steps != 0 && r == 4 + s.steps

/-- Whether the specifier of an MTB steps the register of the current bank that BWIN names (01 R29). -/
def Core.mtbSteps (x : Core) (i : Dec) : Bool := x.bwin.bank.toNat = x.cur && i.s1.stepsReg x.bwin.reg.toNat

/-- MTB; 3 + k cc. A specifier that steps the register of the current bank that BWIN names is a specification fault (01 R29). -/
def semMtb (c : Nat) (i : Dec) : X Ret := do
  let x ← core c
  let b := x.bwin.bank.toNat
  let r := x.bwin.reg.toNat
  if x.mtbSteps i || r ≥ 48 || (b = x.cur && (r = 32 || r = 33)) || !x.resident b then specTrap
  let v ← srcBin c i.s1 8
  if !bankValueOk r v.toNat then specTrap
  tick c 2
  applySteps c [stepOf x i.s1 8]
  onCore c (fun y => y.setBank b ((y.bank b).writeIdx r v))
  stepBwin c
  return {}

/-! ### The program store -/

/-- Physical address of program word w of core c. -/
def pstoreAt (c w : Nat) : Nat := (Tier.prog c).base + 2 * w

/-- The check of parts of one memory at supervisor privilege, in ascending order: with `key`, the key check with CSW's key and then the
gate's (10 R281), else the gate's alone at key 0 (05 R134). -/
def gateProt (c : Nat) (key : Bool) (t : Tier) (a : Acc) : List (Nat × Nat) → Bool → X Unit
  | [], _ => return ()
  | (pa, _) :: ps, second => do
    let x ← core c
    match (← get).checkPart ⟨c, .core, if key then x.csw.key.toNat else 0, true⟩ key t pa a with
    | (d, none) =>
      set d
      gateProt c key t a ps true
    | (d, some den) =>
      set d
      raise (if den = .key then 4 else 6) (accCode a) 0 (b2n second) (physTaddr pa)

/-- Key and gate check of program word w of core c (10 R281). -/
def pstoreProt (c w : Nat) (a : Acc) : X Unit := gateProt c true (.prog c) a [(pstoreAt c w, 2)] false

/-- The check of a program word that is then read or written, with its marks (10 R278). -/
def pstoreCheck (c w : Nat) (a : Acc) : X Unit := do
  pstoreProt c w a
  modify (fun d => d.markKey (pstoreAt c w) a)

/-- LDPW (01 R35, R25): the operand's word number read, the word and its check bits as stored written beside it; 4 + k
cc. A denial of the program word comes after 1 cc and the operand's cycles (06 Table 6.3). DESIGN CHOICE (log entry 72): both parts of an operand
that straddles are checked before either is read. -/
def semLdpw (c : Nat) (i : Dec) : X Ret := do
  let x ← core c
  let ps ← checkParts c .rw (vparts (eaOf x i.s1 8) 8)
  for p in ps do tickPart c 1 8 p
  let bs ← readAll c ps
  let w := beAt bs 6 2
  pstoreCheck c w .read
  tick c 3
  let p := (← get).pword c w
  writeAll c ps (toBytes 8 (p.toNat * 65536 + w))
  applySteps c [stepOf x i.s1 8]
  return {}

/-- STPW (05 R142): one program word and its check bits, written after the next instruction's words have been fetched; 4 +
k cc. -/
def semStpw (c : Nat) (i : Dec) : X Ret := do
  let x ← core c
  let v ← srcBin c i.s1 8
  tick c 3
  if v.toNat ≥ 2 ^ 30 then specTrap
  let w := v.toNat % 65536
  pstoreCheck c w .exec
  applySteps c [stepOf x i.s1 8]
  return { pword := some (w, v.toNat / 65536) }

end Sys2Proof.Machine
end

