-- ==== Sys2Proof/Machine/Micro.lean ====
section
/-!
DEFINITION. The sequencer of a core (07 R161 to R170): the words it reads, its registers and conditions, and what one microword does. What
an instruction does on the unpatched ROM is what 01 to 06 and 08 give; an instruction whose ROM path a match register redirects is
run word by word.
-/
namespace Sys2Proof.Machine

/-! ### Reading the control store (R161, R170, R172) -/

/-- Where the word of a micro-address below 0x2200 is read: in ROM the patch RAM word of the lowest-numbered enabled match register
whose MATCH it is, if any. -/
def Core.microPlace (x : Core) (u : Nat) : Nat :=
  match (List.range 32).find? (fun n => let m := SMap.get 0 x.matchReg n; bit m 31 && decide (u < 0x2000) && fld m 18 13 == u) with
  | some n => 0x2000 + fld (SMap.get 0 x.matchReg n) 9 9
  | none => u

/-- The word of the control store at a place below 0x2200. -/
def Core.microRead (x : Core) (p : Nat) : BitVec 36 :=
  if p < 0x2000 then romWord (BitVec.ofNat 14 p) else SMap.get 0 x.patchRam (p - 0x2000)

/-- The microword that core x executes at a micro-address; none: outside the control store. -/
def microFetch (x : Core) (u : BitVec 14) : Option (BitVec 36) :=
  if u.toNat < 0x2200 then some (x.microRead (x.microPlace u.toNat)) else none

/-- The lowest-numbered match register that fails its parity (R172). -/
def Core.matchFail (x : Core) : Option Nat := (x.matchReg.find? (fun e => !matchRight e.2)).map (·.1)

/-- Whether an enabled match register redirects a ROM word at an address that `p` holds of. -/
def Core.redirects (x : Core) (p : BitVec 13 → Bool) : Bool :=
  x.matchReg.any (fun e => bit e.2 31 && p (BitVec.ofNat 13 (fld e.2 18 13)))

/-- Whether an enabled match register redirects a word on the ROM path of an instruction; core x then runs it word by word. -/
def Core.patched (x : Core) (o : Op) : Bool := x.redirects (romWordOf o)

/-- Whether the trap entry for a code is patched. -/
def Core.trapPatched (x : Core) (code : Nat) : Bool :=
  let k := BitVec.ofNat 5 code
  x.redirects (fun a => a == Config.romTrap k || Config.romTrapUses k a)

/-- Whether the bank overflow sequence is patched. -/
def Core.overflowPatched (x : Core) : Bool := x.redirects (fun a => a == Config.romOverflow || Config.romOverflowUses a)

/-! ### Registers of the sequencer (Table 7.3) -/

/-- The register that a select names, 64 bits zero-extended; MDR has 128. -/
def Core.microGet (x : Core) (sel : Nat) : BitVec 128 :=
  let m := x.micro
  if sel < 32 then (x.g sel).setWidth 128
  else if sel < 40 then (SMap.get 0 m.t (sel - 32)).setWidth 128
  else match sel with
    | 40 => x.cb.pc.setWidth 128
    | 41 => (x.csw.pack x.cur).setWidth 128
    | 42 => m.ir.setWidth 128
    | 43 => m.irx.setWidth 128
    | 44 | 45 | 46 => (SMap.get 0 m.ea (sel - 44)).setWidth 128
    | 47 => m.cnt.setWidth 128
    | 48 => m.mdr
    | 49 => m.len.setWidth 128
    | 50 | 51 | 52 | 53 => (x.cb.readIdx x.cur (sel - 6)).setWidth 128
    | 54 => x.budget.setWidth 128
    | _ => m.ltp.setWidth 128

/-- Gn written by a microword at once; what it held before the first such write is kept (R167). -/
def Core.microWrite (x : Core) (n : Nat) (v : W64) : Core :=
  { x.setG n v with micro := { x.micro with wrote := if (SMap.find? x.micro.wrote n).isSome then x.micro.wrote else SMap.put x.micro.wrote n (x.g n) } }

/-- Gn written by a microword; the register of a load with a load delay is written after the next instruction (05 R139). -/
def Core.microSetG (x : Core) (n : Nat) (v : W64) : Core :=
  match x.micro.delay with
  | some (k, _) => if k = n then { x with micro := { x.micro with delay := some (n, some v) } } else x.microWrite n v
  | none => x.microWrite n v

/-- The core with the register that a select names written: a register narrower than the value takes its low bits; of CSW, KEY,
CTAG and MODE become pending and BANK is ignored, as MTCR has it (05 R141). DESIGN CHOICE (log entry 60): EA1 to EA3, CNT and LEN are 64 bits
wide. -/
def Core.microPut (x : Core) (sel : Nat) (v : BitVec 128) : Core :=
  let m := x.micro
  let w : W64 := v.setWidth 64
  if sel < 32 then x.microSetG sel w
  else if sel < 40 then { x with micro := { m with t := SMap.put m.t (sel - 32) w } }
  else match sel with
    | 40 => { x.ctl (fun b => { b with pc := v.setWidth 16 }) with micro := { m with pcSet := true } }
    | 41 => x.writeCr 0 w
    | 42 => { x with micro := { m with ir := w } }
    | 43 => { x with micro := { m with irx := w } }
    | 44 | 45 | 46 => { x with micro := { m with ea := SMap.put m.ea (sel - 44) w } }
    | 47 => { x with micro := { m with cnt := w } }
    | 48 => { x with micro := { m with mdr := v } }
    | 49 => { x with micro := { m with len := w } }
    | 50 | 51 | 52 | 53 => x.modCb (fun b => b.writeIdx (sel - 6) w)
    | 54 => { x with budget := v.setWidth 32 }
    | _ => { x with micro := { m with ltp := v.setWidth 14 } }

/-- A register as a 64-bit operand. -/
def Core.microOperand (x : Core) (sel : Nat) : W64 := if sel = 48 then Config.mdrRead x.micro.mdr else (x.microGet sel).setWidth 64

/-- A register with a 64-bit result written. -/
def Core.microResult (x : Core) (sel : Nat) (v : W64) : Core :=
  x.microPut sel (if sel = 48 then Config.mdrWrite x.micro.mdr v else v.setWidth 128)

/-- The core with its conditions changed. -/
def Core.setConds (x : Core) (f : Conds → Conds) : Core := { x with micro := { x.micro with cond := f x.micro.cond } }

/-! ### ALU and literal (Table 7.2) -/

/-- Result, carry and signed overflow of an ALU function on the low `w` bits of its operands. -/
def aluFn (fn w : Nat) (a b : W64) (cin : Bool) : W64 × Bool × Bool :=
  let o := Config.aluOut fn w a b cin
  let m := 2 ^ w
  let x := a.toNat % m
  let y := b.toNat % m
  let neg (n : Nat) : Bool := decide (2 * (n % m) ≥ m)
  let val (v : Nat) : W64 × Bool × Bool := (BitVec.ofNat 64 (v % m), o.2.1, o.2.2)
  let add (k : Nat) : W64 × Bool × Bool :=
    (BitVec.ofNat 64 ((x + y + k) % m), decide (x + y + k ≥ m), neg x == neg y && neg (x + y + k) != neg x)
  match fn with
  | 0 => val x
  | 1 => add 0
  | 2 => (BitVec.ofNat 64 ((x + m - y) % m), o.2.1, neg x != neg y && neg (x + m - y) != neg x)
  | 3 => val (x &&& y)
  | 4 => val (x ||| y)
  | 5 => val (x ^^^ y)
  | 6 => val (x &&& (m - 1 - y))
  | 7 => if y < w then val (x * 2 ^ y) else o
  | 8 => if y < w then val (x / 2 ^ y) else o
  | 9 => if y < w then val (x / 2 ^ y + if neg x then m - 2 ^ (w - y) else 0) else o
  | 10 => if y < w then val (x * 2 ^ y + x / 2 ^ (w - y)) else o
  | 11 => if y < w then val (x / 2 ^ y + x * 2 ^ (w - y)) else o
  | 12 => add (b2n cin)
  | 15 => val (if x = 0 then w else w - 1 - Nat.log2 x)
  | _ => o

/-- An ALU microword. -/
def Core.microAlu (x : Core) (w : BitVec 36) : Core :=
  let n := 8 * 2 ^ fld w 4 2
  let dst := fld w 18 6
  let (r, c, v) := aluFn (fld w 24 5) n (x.microOperand (fld w 12 6)) (x.microOperand (fld w 6 6)) x.micro.cond.ac
  let low := r.toNat % 2 ^ n
  let full : W64 := if n = 64 then r else setFld (Config.aluUpper n (x.microOperand dst) r) 0 n low
  let y := x.microResult dst full
  if bit w 3 then y.setConds (fun k => { k with az := low == 0, an := decide (2 * low ≥ 2 ^ n), ac := c, av := v }) else y

/-- A literal microword. -/
def Core.microLit (x : Core) (w : BitVec 36) : Core :=
  let dst := fld w 23 6
  let old : W64 := if bit w 20 then x.microOperand dst else 0
  x.microResult dst (setFld old (16 * fld w 21 2) 16 (fld w 0 16))

/-! ### Digit-ALU (Table 7.2) -/

/-- A half-field: DACC, the digit latch group, MDR or zero. -/
def Core.half (x : Core) (n : Nat) : BitVec 128 :=
  if n < 2 then x.g (2 * n) ++ x.g (2 * n + 1)
  else if n < 10 then SMap.get 0 x.cb.latch (2 * (n - 2)) ++ SMap.get 0 x.cb.latch (2 * (n - 2) + 1)
  else if n = 10 then x.micro.mdr else 0

/-- A half-field written; the constant zero stays. -/
def Core.setHalf (x : Core) (n : Nat) (v : BitVec 128) : Core :=
  let hi : W64 := (v >>> 64).setWidth 64
  let lo : W64 := v.setWidth 64
  if n < 2 then (x.setG (2 * n) hi).setG (2 * n + 1) lo
  else if n < 10 then x.modCb (fun b => { b with latch := SMap.put (SMap.put b.latch (2 * (n - 2)) hi) (2 * (n - 2) + 1) lo })
  else if n = 10 then { x with micro := { x.micro with mdr := v } } else x

/-- The value of 32 digits; none: a digit above 9. -/
def digitsOf (v : BitVec 128) : Option Nat :=
  (List.range 32).foldl (fun a i => a.bind (fun n => let k := fld v (124 - 4 * i) 4; if k ≤ 9 then some (n * 10 + k) else none)) (some 0)

/-- `n` digits of a number, packed. -/
def bcdOf : Nat → Nat → Nat
  | 0, _ => 0
  | n + 1, v => v % 10 + 16 * bcdOf n (v / 10)

/-- Whether DVAL finds a bad digit or sign in half-field n (log entry 60): a high half holds 32 digits, a low half 31 and the sign; `free`:
what it finds in the last nibble of MDR and of zero, which may be either. -/
def dvalFails (n : Nat) (v : BitVec 128) (free : Bool) : Bool :=
  (List.range 31).any (fun i => decide (fld v (124 - 4 * i) 4 > 9)) ||
    (if n ≥ 10 then free else if n % 2 = 0 then decide (fld v 0 4 > 9) else decide (fld v 0 4 ≤ 9))

/-- A digit microword; `mode`: the effective rounding mode. -/
def Core.microDigit (x : Core) (w : BitVec 36) (mode : Nat) : Core :=
  let m := x.micro
  let fn := fld w 25 4
  let a := x.half (fld w 21 4)
  let b := x.half (fld w 17 4)
  let n := fld w 8 5
  let cin := bit w 7 && m.carry
  let o := Config.digitOut ⟨fn, a, b, x.half (fld w 13 4), n, cin, mode, m.gs⟩
  let both (f : Nat → Nat → Nat) : Option Nat := (digitsOf a).bind (fun p => (digitsOf b).map (f p))
  let sum : Option Nat := if fn = 1 then both (fun p q => p + q + b2n cin) else none
  let dif : Option Nat := if fn = 2 then both (fun p q => 2 * 10 ^ 32 + p - q - b2n cin) else none
  let v : BitVec 128 :=
    if bit w 5 then o.v
    else match fn with
      | 0 => a
      | 1 => (sum.map (fun s => BitVec.ofNat 128 (bcdOf 32 (s % 10 ^ 32)))).getD o.v
      | 2 => (dif.map (fun s => BitVec.ofNat 128 (bcdOf 32 (s % 10 ^ 32)))).getD o.v
      | 3 => a <<< (4 * n)
      | 4 => a >>> (4 * n)
      | _ => o.v
  let c := (sum.map (fun s => decide (s ≥ 10 ^ 32))).getD o.dc
  let y := x.setHalf (fld w 13 4) v
  let z := { y with micro := { y.micro with carry := (sum.map (fun s => decide (s ≥ 10 ^ 32))).getD o.carry, gs := o.gs } }
  let z1 := if bit w 5 then z.setConds (fun k => { k with rup := o.rup }) else z
  if bit w 6 then z1.setConds (fun k => { k with dc := c, dz := v == 0, dv := if fn = 5 then dvalFails (fld w 21 4) a o.dv else o.dv, ds := o.ds, ovr := o.ovr }) else z1

/-! ### Memory (Table 7.2, R162) -/

/-- Register of AREG: EA1 to EA3, SP, T0 to T3. -/
def aregSel (a : Nat) : Nat := if a < 3 then 44 + a else if a = 3 then 7 else 32 + (a - 4)

/-- What a register holds after a read of these bytes: all of them when they fill it. -/
def Core.microTake (x : Core) (sel : Nat) (bs : List Byte) : Core :=
  let full := if sel = 48 then bs.length == 16 else bs.length == 8
  x.microPut sel (if full then BitVec.ofNat 128 (ofBytes bs) else Config.microLoad sel (x.microGet sel) bs)

/-- `n` bytes of a register for a write. -/
def Core.microGive (x : Core) (sel n : Nat) : List Byte :=
  let v := x.microGet sel
  if (sel = 48 ∧ n = 16) ∨ (sel ≠ 48 ∧ n = 8) then toBytes n v.toNat else padTo n (Config.microStore sel v n)

/-- The access that CHK checks. -/
def chkAcc (k : Nat) : Acc := if k = 1 then .read else if k = 2 then .write else .rw

/-- The access that is checked in SPACE 1 and 2: CHK's, or with CHK 0 the one that KIND makes. -/
def microAcc (chk kind : Nat) : Acc := if chk ≠ 0 then chkAcc chk else if kind = 0 then .read else if kind = 3 then .rw else .write

/-- The read data handed over: a far chunk's are due in MDR in the eighth cycle after the request (R162). -/
def takeData (c sel : Nat) (far : Bool) (bs : List Byte) : X Unit :=
  onCore c (fun x => if far then { x with micro := { x.micro with due := x.micro.due ++ [(8, (x.microTake 48 bs).micro.mdr)] } } else x.microTake sel bs)

/-- Bytes stored in parts of one memory. -/
def Dev.storeAll (d : Dev) (t : Tier) (c : Nat) : List (Nat × Nat) → List Byte → Dev
  | [], _ => d
  | (a, n) :: ps, bs => (d.store t c a (bs.take n)).storeAll t c ps (bs.drop n)

/-- Bytes stored in parts of one of the core's own memories: in the frond store through the write buffer (05 R143). -/
def microStores (c : Nat) (t : Tier) (ps : List (Nat × Nat)) (bs : List Byte) (d : Dev) : Dev :=
  let d1 := ps.foldl (fun y p => y.markKey p.1 .write) d
  match t with
  | .frond _ => (ps.foldl (fun (y, l) p => (pushChunks c (p.2 + 1) p.1 (l.take p.2) y, l.drop p.2)) (d1, bs)).1
  | _ => d1.storeAll t c ps bs

/-- A frond-adder request on checked parts: the adder reads and writes the frond store itself, past the write buffer (02 R73); other memory
has no adder. The frames are marked as read before the read and as written after it (10 R278). -/
def adderRequest (c : Nat) (t : Tier) (ps : List (Nat × Nat)) (v : BitVec 128) : X Unit := do
  match t with
  | .frond _ =>
    match (ps.foldl (fun y p => y.markKey p.1 .read) (← get)).eccRead t (ps.flatMap (fun p => wordsOf p.1 p.2)) with
    | (d, some w) =>
      set (d.eccUncorr t 0 c w)
      throw .uncorr
    | (d, none) =>
      let old := ps.flatMap (fun p => d.bytes p.1 p.2)
      set ((ps.foldl (fun y p => y.markKey p.1 .write) (d.storeAll t c ps (padTo old.length (Config.frondAdder old v)))).modCore c
        (fun x => { x with stored := true }))
  | _ => specTrap

/-- The checks of a virtual access made; the cycles of its walks pass for the far chunk that is on its way, however they end (R162). -/
def landing (c : Nat) {α : Type} (m : X α) : X α := fun d =>
  let land (z : Dev) : Dev := z.modCore c (fun x => x.landDue (x.spent - (d.core c).spent))
  match m d with
  | .ok a z => .ok a (land z)
  | .error e z => .error e (land z)

/-- The accesses to the program store that are checked for an access of a microword: what writes program words executes them (10 Table
10.7), and what reads and writes needs both. -/
def progAccs : Acc → List Acc
  | .read => [.read]
  | .rw => [.read, .exec]
  | _ => [.exec]

/-- A memory microword: the checks of CHK, part by part, then the access of KIND in SPACE, of SIZE + 1 bytes. Keys are marked for what is read
or written (10 R278). DESIGN CHOICE (log entry 60): in SPACE 1 the gate is checked alone at supervisor privilege, as for R134's save-area
accesses, whatever CHK; in SPACE 2 AREG is a byte address of the program store's DMA view, and with CHK 0 the gate is checked alone; in SPACE 3
the low SIZE + 1 bytes of the bank register are moved. -/
def microMem (c : Nat) (w : BitVec 36) : X Unit := do
  let x ← core c
  let kind := fld w 27 2
  let chk := fld w 8 2
  let sel := fld w 16 6
  let n := fld w 12 4 + 1
  let a := (x.microGet (aregSel (fld w 22 3))).toNat
  match fld w 25 2 with
  | 0 =>
    let ps ← landing c (checkParts c (chkAcc chk) (vparts (a % 2 ^ 32) n))
    if kind = 0 then
      let bs ← readAll c ps
      takeData c sel (ps.any Part.far) bs
    else if kind = 1 then writeAll c ps (x.microGive sel n)
    else if kind = 3 then
      if ps.any (fun p => !p.far) then specTrap
      adderRequest c (.frond (frondOf c)) (ps.map (fun p => (p.pa, p.n))) (x.microGet sel)
      for p in ps do setDirty c p
    else return ()
  | 1 =>
    let pa := a % 2 ^ 40
    let t := if workBase c ≤ pa ∧ pa + n ≤ workBase c + 0x4_0000 then Tier.working c else Tier.frond (frondOf c)
    let ps := partsOf pa n
    let acc := microAcc chk kind
    if !(t.base ≤ pa && pa + n ≤ t.base + t.size) then raise 6 (accCode acc) 0 0 (physTaddr pa)
    if chk ≠ 0 || kind ≠ 2 then gateProt c false t acc ps false
    if kind = 0 then
      modify (fun d => ps.foldl (fun y p => y.markKey p.1 .read) d)
      let bs ← mergedRead c t pa n
      takeData c sel (t == .frond (frondOf c)) bs
    else if kind = 1 then modify (fun d => (microStores c t ps (x.microGive sel n) d).modCore c (fun z => { z with stored := true }))
    else if kind = 3 then adderRequest c t ps (x.microGet sel)
    else return ()
  | 2 =>
    let t := Tier.prog c
    let pa := t.base + a % 2 ^ 17
    let ps := partsOf pa n
    let acc := microAcc chk kind
    if pa + n > t.base + 2 ^ 17 then raise 6 (accCode acc) 0 0 (physTaddr pa)
    if chk ≠ 0 || kind ≠ 2 then
      for e in progAccs acc do gateProt c (chk != 0) t e ps false
    if kind = 0 then
      modify (fun d => ps.foldl (fun y p => y.markKey p.1 .read) d)
      takeData c sel false ((← get).bytes pa n)
    else if kind = 1 then modify (fun d => (microStores c t ps (x.microGive sel n) d).modCore c (fun z => { z with stored := true }))
    else if kind = 3 then specTrap
    else return ()
  | _ =>
    let b := x.bwin.bank.toNat
    let r := x.bwin.reg.toNat
    if kind = 0 then
      if r ≥ 50 then specTrap
      takeData c sel false (toBytes n (if x.resident b then (x.bank b).readIdx b r else 0).toNat)
    else if kind = 1 then
      let m := 2 ^ (8 * min n 8)
      let v := ((x.bank b).readIdx b r).toNat / m * m + ofBytes (x.microGive sel n) % m
      if r ≥ 48 || (b = x.cur && (r = 32 || r = 33)) || !x.resident b || !bankValueOk r v then specTrap
      onCore c (fun y => y.setBank b ((y.bank b).writeIdx r (BitVec.ofNat 64 v)))
    else if kind = 3 then specTrap
    else return ()

/-- AREG moved after the access when STEP is 1; SP wraps modulo 2^32 (01 R16). -/
def Core.microMove (x : Core) (w : BitVec 36) : Core :=
  if !bit w 11 then x
  else
    let sel := aregSel (fld w 22 3)
    let n := fld w 12 4 + 1
    let v := x.microOperand sel
    let r := if bit w 10 then v - BitVec.ofNat 64 n else v + BitVec.ofNat 64 n
    x.microResult sel (if sel = 7 then low32 r else r)

/-! ### Sequence (Tables 7.4 and 7.5) -/

/-- A condition of Table 7.4. -/
def microCond (d : Dev) (c k : Nat) : Bool :=
  let x := d.core c
  let m := x.micro.cond
  match k with
  | 1 => m.az
  | 2 => m.an
  | 3 => m.ac
  | 4 => m.av
  | 5 => m.dc
  | 6 => m.dz
  | 7 => m.dv
  | 8 => m.ds
  | 9 => x.micro.cnt == 0
  | 10 => (asyncDue (d.modCore c Core.account) c).isSome
  | 11 => m.acf
  | 12 => m.miss
  | 13 => m.rup
  | 14 => m.ovr
  | 15 => x.csw.sat
  | _ => false

/-- The next address of a BRANCH or CALL (R165). -/
def branchTo (d : Dev) (c : Nat) (w : BitVec 36) : Nat :=
  fld w 16 10 * 16 + b2n (microCond d c (fld w 12 4)) * 8 + b2n (microCond d c (fld w 8 4)) * 4 + b2n (microCond d c (fld w 4 4)) * 2 +
    b2n (microCond d c (fld w 0 4))

/-- What a microword leads to. -/
inductive MicroEnd where
  /-- the next micro-address -/
  | go (u : Nat)
  /-- RETIRE -/
  | retire
  /-- TRAPPT at its own address, with TGT x 16 -/
  | point (u tgt : Nat)
  /-- RAISE in the word at place p -/
  | raised (code sub p : Nat) (w : BitVec 36)
  /-- a machine check: SUB, match register, micro-address, the word as read -/
  | check (sub mreg u : Nat) (w : Option (BitVec 36))
  /-- the run ends in an access of the word at place p -/
  | stopped (s : Stop) (p : Nat) (w : BitVec 36)
  deriving DecidableEq, Repr

/-- One cycle of the sequencer begun: the cycle counted, a far chunk that is due written into MDR (R162). -/
def Core.microCycle (x : Core) : Core := { x.landDue 1 with spent := x.spent + 1 }

/-- A sequence microword at place p. -/
def microSeq (d : Dev) (c p : Nat) (w : BitVec 36) : MicroEnd × Dev :=
  let x := d.core c
  let st := x.micro.stack
  let put (l : List (BitVec 14)) : Dev := d.modCore c (fun y => { y with micro := { y.micro with stack := l } })
  match fld w 26 3 with
  | 0 => (.go (branchTo d c w), d)
  | 1 => if st.length ≥ 4 then (.check 7 0 p (some w), d) else (.go (branchTo d c w), put (BitVec.ofNat 14 (p + 1) :: st))
  | 2 => (match st with
    | [] => (.check 7 0 p (some w), d)
    | u :: t => (.go u.toNat, put t))
  | 3 => (.retire, d)
  | 4 => (.point p (fld w 16 10 * 16), d)
  | _ => (.raised (fld w 16 5) (fld w 8 8) p w, d)

/-- Whether an access at a virtual address needs a walk. -/
def Core.needsWalk (x : Core) (w : BitVec 36) : Bool :=
  fld w 25 2 == 0 &&
    (vparts ((x.microGet (aregSel (fld w 22 3))).toNat % 2 ^ 32) (fld w 12 4 + 1)).any (fun p => (x.brHit p.1).isNone)

/-- The microword at place p executed; its parity is right and it is legal. -/
def microAct (d : Dev) (c p mode : Nat) (w : BitVec 36) : MicroEnd × Dev :=
  match fld w 29 3 with
  | 0 => (.go (p + 1), d.modCore c (fun x => x.microAlu w))
  | 1 => (.go (p + 1), d.modCore c (fun x => x.microDigit w mode))
  | 2 =>
    let miss := (d.core c).needsWalk w
    let note (f : Bool) (y : Dev) : Dev := y.modCore c (fun x => x.setConds (fun k => { k with acf := f, miss := miss }))
    (match (microMem c w).run d with
      | .ok _ z => (.go (p + 1), (note false z).modCore c (fun x => x.microMove w))
      | .error (.trap code acc _ detail taddr) z =>
        (.go (p + 1), (note true z).modCore c (fun x => { x with micro := { x.micro with failed := some (code, acc, detail, taddr) } }))
      | .error s z => (.stopped s p w, z))
  | 3 => microSeq d c p w
  | _ => (.go (p + 1), d.modCore c (fun x => x.microLit w))

/-- One cycle of core c's sequencer at micro-address u (R161, R163, R170, R172): `mode`: the effective rounding mode. -/
def microStep (d : Dev) (c mode u : Nat) : MicroEnd × Dev :=
  let x := d.core c
  if u ≥ 0x2200 then (.check 7 0 u none, d)
  else
    let p := x.microPlace u
    let w := x.microRead p
    let d1 := d.modCore c Core.microCycle
    match x.matchFail with
    | some n => (.check 5 n p (some w), d1)
    | none =>
      if microParity w.toNat ≠ fld w 32 4 then (.check (if p < 0x2000 then 3 else 4) 0 p (some w), d1)
      else if illegalMicro w then (.check 7 0 p (some w), d1)
      else microAct d1 c p mode w

/-- The sequencer as an instruction begins: its registers carry no meaning across the boundary, so they hold free values; the
instruction words are in IR and IRX, the stack is empty (Table 7.3, R166). `ld`: the register of a load with a load delay. -/
def Core.microBegin (x : Core) (k : Nat) (ws : List PWord) (ld : Option Nat) : Core :=
  let v (i : Nat) : W64 := Config.freeValue (k + i)
  let b (i : Nat) : Bool := (v 14).getLsbD i
  { x with micro :=
      { x.micro with
          t := (List.range 8).map (fun i => (i, v i)), ea := (List.range 3).map (fun i => (i, v (8 + i))), cnt := v 11, len := v 12
          mdr := v 13 ++ v 15, ir := Config.irImage (ws.take 2), irx := Config.irImage ((ws.drop 2).take 4)
          cond := ⟨b 0, b 1, b 2, b 3, b 4, b 5, b 6, b 7, b 8, b 9, b 10, b 11⟩, carry := b 12, gs := BitVec.ofNat 8 ((v 14).toNat / 2 ^ 16)
          due := [], stack := [], pcSet := false, failed := none, next := none, pointed := false
          delay := ld.map (fun n => (n, none)), wrote := [] } }

/-- Core c's sequencer as an instruction of these words begins. -/
def Dev.microBegin (d : Dev) (c : Nat) (ws : List PWord) (ld : Option Nat) : Dev :=
  ({ d with free := d.free + 16 }).modCore c (fun x => x.microBegin d.free ws ld)

/-! ### What RETIRE still makes (R167) -/

/-- The register that an instruction writes with a load delay (05 R139). -/
def delayOf (x : Core) (i : Dec) : Option Nat :=
  match i.op with
  | .ldx1 => if x.csw.mode = 0 then some 5 else none
  | .ldx2 => if x.csw.mode = 0 then some 6 else none
  | .ld8u | .ld8s | .ld16u | .ld16s | .ld32u | .ld32s | .ld64 => some i.gd
  | _ => none

/-- Bytes by which the two specifiers of an instruction step. -/
def stepLens (b : Bank) (i : Dec) : Nat × Nat :=
  match i.op with
  | .ldb | .stb => (1, 0)
  | .dld | .dst | .dadd | .dsub | .dmul | .ddiv | .drem | .dcvb | .dcvd | .tally | .dcmpb | .daddm | .dsubm | .packz | .unpkz | .mvs | .cls
  | .trs => (i.len, i.len2)
  | .scn => (i.len, if i.len = 0 then 0 else 32)
  | .edit | .edmk => (i.len, fld b.cont2 8 16)
  | _ => (8, 0)

/-- The specifier steps of a patched instruction that its microwords have not made; one that has been continued steps from the addresses and
codes of its CONT. -/
def Core.microSteps (x : Core) (i : Dec) : List (Option (Nat × W64)) :=
  let (n1, n2) := stepLens x.cb i
  let b := x.cb
  let l := if (opidOf i.op).isSome && x.csw.resume then
      [stepFrom (BitVec.ofNat 2 (fld b.cont2 30 2)) (BitVec.ofNat 32 (fld b.cont1 32 32)) n1,
       stepFrom (BitVec.ofNat 2 (fld b.cont2 28 2)) (BitVec.ofNat 32 (fld b.cont1 0 32)) n2]
    else [stepOf x i.s1 n1, stepOf x i.s2 n2]
  l.map (fun s => s.filter (fun e => (SMap.find? x.micro.wrote e.1).isNone))

/-- Whether an instruction sets bits of DSTICKY (01 DSTICKY). -/
def setsDsticky : Op → Bool
  | .dst | .dadd | .dsub | .dmul | .ddiv | .drem | .dscl | .dcvb | .dcvd | .tally | .daddm | .dsubm | .packz | .unpkz => true
  | _ => false

/-- Whether an instruction sets flags of FCSW (04 R106). -/
def setsFlags : Op → Bool
  | .faddS | .faddD | .fsubS | .fsubD | .fmulS | .fmulD | .fdivS | .fdivD | .fsqrtS | .fsqrtD | .fminS | .fminD | .fmaxS | .fmaxD | .feqS
  | .feqD | .fltS | .fltD | .fleS | .fleD | .fcvtDS | .fcvtSD | .fcvtSL | .fcvtDL | .fcvtLS | .fcvtLD => true
  | _ => false

/-- The sticky bits of a patched instruction made: no register select names them, and which of them its data set is a free value
(log entry 60). -/
def Core.microSticky (x : Core) (o : Op) (v : W64) : Core :=
  if setsDsticky o then x.ctl (fun b => { b with dsticky := b.dsticky ||| v.setWidth 3 })
  else if setsFlags o then x.ctl (fun b => { b with fcsw := { b.fcsw with fl := b.fcsw.fl ||| v.setWidth 5 } })
  else x

end Sys2Proof.Machine
end

