-- ==== Sys2Proof/Machine/Recovery.lean ====
section
/-!
DEFINITION. The recovery ladder (13 R356 to R368): core, frond and thallus resets, the emptying of a context, the escalation to a
device warm reset or SAFE, the refill of a core and its return (07 R177, R185).
-/
namespace Sys2Proof.Machine

/-! ### Records and strikes -/

/-- A step of Table 13.8 taken on a unit: remembered for the strikes, and recorded (R365, R367). -/
def Dev.noteStep (d : Dev) (step unit cause result sev detail : Nat) : Dev :=
  { d with hist := (step, unit, d.mer) :: d.hist.filter (fun e => decide (d.mer < e.2.2 + 3_600_000_000_000)) }.health step cause result sev unit
    detail

/-- Steps of one kind taken within 1 s on units that pass a test. -/
def Dev.strikes (d : Dev) (step : Nat) (p : Nat → Bool) : Nat :=
  (d.hist.filter (fun e => e.1 == step && p e.2.1 && decide (d.mer < e.2.2 + 1_000_000_000))).length

/-- HEALTH_CFG.STRIKES. -/
def Dev.strikeMax (d : Dev) : Nat := d.rf (rk .health 0 0x100) 24 4

/-! ### SAFE and step 6 -/

/-- Every frame of port p's schedule sent. -/
def Dev.flushPort (d : Dev) (p : Nat) : Dev := (List.range (SMap.get [] d.egress p).length).foldl (fun y _ => y.transmit p) d

/-- The failure records of every outstanding item, sent (R359 step 1); an item that has its answer in a port's schedule sends that. -/
def Dev.failAll (d : Dev) : Dev :=
  (List.range 16).foldl Dev.flushPort ((d.itemsWhere (fun x => x.outstanding && x.phase != .reply)).foldl (fun y e => y.failItem e.1 1) d)

/-- SAFE entered (R352 steps 2 to 4, R368): the deep store in self-refresh, the record of the entry on every link, LEAVE, links and ports down. `cause`
is MODE_STS's, `why` the record's. Unless it is a thermal trip (4), the items in flight receive their failure records first (00 R2; log
63). -/
def Dev.enterSafe (d : Dev) (cause why : Nat) : Dev :=
  if d.mode = .safe || d.mode = .datum then d
  else
    let d0 := if cause = 4 then d else d.failAll
    let d1 := { d0 with survey := none, boot := { d.boot with s4 := false, ready := false } }
    let d2 := (((d1.setRf dsSts 31 1 0).setRf (rk .mode 0 0x100) 20 1 0).toMode .safe cause why).healthAll 0x07 why 1 3 0
    d2.sendLeave.allDown

/-- An escalation to step 6 (R368): a device warm reset that waits to be made, or SAFE. -/
def Dev.escalate6 (d : Dev) (cause : Nat) : Dev :=
  let k := rk .health 0 0x100
  let made := (d.hist.filter (fun e => e.1 == 6 && decide (d.mer < e.2.2 + 3_600_000_000_000))).length
  if d.warm.isSome then d
  else if d.rbit k 31 && made < d.rf k 16 8 then { d with warm := some cause, hist := (6, 0, d.mer) :: d.hist }
  else d.enterSafe 5 cause

/-! ### Resets (R356 to R358) -/

/-- The save areas of every context resident on core c emptied: their VALID bits 0 (R357). -/
def Dev.emptySaves (d : Dev) (c : Nat) : Dev :=
  (List.range 8).foldl (fun y b =>
    let k := (d.core c).bank b
    if k.res then y.setByte (k.bsave.toNat + 0x1FF) 0 else y) d

/-- A core reset applied (R357 steps 1 to 3). The core is held until its refill. -/
def Dev.resetCore (d : Dev) (c why : Nat) : Dev :=
  let d1 := (drainAll c (d.withdraw c why)).emptySaves c
  d1.modCore c (fun x => { Core.atReset with patchLevel := x.patchLevel, cc := x.cc, refillDue := true })

/-- Every item outstanding on frond f ends as MACHINE_CHECK (R358, 08 R213); one whose answer is on its way out is not struck. -/
def Dev.failFrond (d : Dev) (f : Nat) : Dev :=
  (d.itemsWhere (fun x => x.outstanding && x.phase != .reply && x.frond == f)).foldl (fun y e => y.failItem e.1 1) d

/-- A frond reset applied (R358). -/
def Dev.resetFrond (d : Dev) (f why : Nat) : Dev :=
  ((List.range 8).foldl (fun y j => y.resetCore (8 * f + j) why) d).failFrond f

/-- The pages of THALLUS[t] at their reset values, in both copies (R356, 11 R304), but for LOCK (11 R298). -/
def Dev.resetPages (d : Dev) (p : PageT → Nat → Bool) : Dev :=
  let keep (k : Nat) : Bool := k % 4096 == 0x28 || match pageOf (k / 4096) with
    | none => true
    | some (r, i) => !p r.type i
  { d with regs := SMap.keep keep d.regs, shadow := SMap.keep keep d.shadow }

/-- A thallus reset applied (R358): its engine's descriptors end DOMAIN_LOST, its fronds are reset, then its pages. -/
def Dev.resetThallus (d : Dev) (t why : Nat) : Dev :=
  let d1 := (d.dma.filter (fun e => e.1 / 256 == t)).foldl (fun y e => y.endDesc e.1 7 (some (domThallus t))) d
  let d2 := (List.range 8).foldl (fun y j => y.resetFrond (8 * t + j) why) d1
  d2.resetPages (fun p i => pageThallus p i == some t)

/-! ### The ladder (R365, R366) -/

/-- A unit that step 3, 4 or 5 resets is fenced until it returns (R366): FENCED, and DEGRADED from RUN. -/
def Dev.fenceUnit (d : Dev) (step unit why : Nat) : Dev :=
  let d1 := { d with outUnits := (step, unit) :: d.outUnits.filter (· != (step, unit)) }
  match d.mode with
  | .run => (d1.setRf (rk .mode 0 0x100) 21 1 1).toMode .degraded 2 why
  | .degraded | .drain | .survey | .standby => d1.setRf (rk .mode 0 0x100) 21 1 1
  | .datum | .crozier | .safe => d1

/-- Step 5: a thallus reset; STRIKES of them within 1 s escalate. -/
def Dev.stepThallus (d : Dev) (t cause : Nat) : Dev :=
  let d1 := ((d.resetThallus t cause).noteStep 5 t cause 0 2 0).fenceUnit 5 t cause
  if d1.strikes 5 (fun _ => true) ≥ d1.strikeMax then d1.escalate6 0x13 else d1

/-- Step 4: a frond reset; STRIKES of them in its thallus within 1 s escalate. -/
def Dev.stepFrond (d : Dev) (f cause : Nat) : Dev :=
  let d1 := ((d.resetFrond f cause).noteStep 4 f cause 0 2 0).fenceUnit 4 f cause
  if d1.strikes 4 (fun g => g / 8 == f / 8) ≥ d1.strikeMax then d1.stepThallus (f / 8) 0x13 else d1

/-- The record of step 3 on core c, with MCK_CAP0 for a machine check (R367, Table 13.9). -/
def Dev.noteCore (d : Dev) (c cause : Nat) : Dev :=
  (d.noteStep 3 c cause 0 2 (if cause = 0x10 then (d.reg (rk .coreUc c 0x110)).toNat * 2 ^ 32 else 0)).fenceUnit 3 c cause

/-- STRIKES core resets in one frond within 1 s escalate. -/
def Dev.coreStrikes (d : Dev) (c : Nat) : Dev :=
  if d.strikes 3 (fun g => frondOf g == frondOf c) ≥ d.strikeMax then d.stepFrond (frondOf c) 0x13 else d

/-- Step 3: a core reset; STRIKES of them in its frond within 1 s escalate. -/
def Dev.stepCore (d : Dev) (c cause : Nat) : Dev := ((d.resetCore c cause).noteCore c cause).coreStrikes c

/-- Core c stopped, with its record (07 R175, Table 7.7, 09 R225): it holds its state until its reset, which follows (R357). -/
def stopCore (c cause : Nat) (d : Dev) : Dev :=
  ((d.withdraw c cause).modCore c (fun x => { x with run := .stopped, resetDue := true })).noteCore c cause

/-- The reset of a stopped core. -/
def Dev.lateReset (d : Dev) (c : Nat) : Dev := if (d.core c).resetDue then (d.resetCore c 0x10).coreStrikes c else d

/-- The resets that are due, of every stopped core. -/
def Dev.lateResets (d : Dev) : Dev := (d.cores.filter (fun e => e.2.resetDue)).foldl (fun y e => y.lateReset e.1) d

/-- Whether a unit of step 3, 4 or 5 holds core c. -/
def unitHas (u : Nat × Nat) (c : Nat) : Bool :=
  if u.1 = 3 then u.2 == c else if u.1 = 4 then u.2 == frondOf c else u.1 == 5 && u.2 == thallusOf c

/-- Core c's unit fails to return: the step above the largest reset unit that holds it (R365, R366). -/
def Dev.unitFailed (d : Dev) (c why : Nat) : Dev :=
  if d.outUnits.contains (5, thallusOf c) then (d.health 0x05 why 2 2 (thallusOf c)).escalate6 0x14
  else if d.outUnits.contains (4, frondOf c) then (d.health 0x04 why 2 2 (frondOf c)).stepThallus (thallusOf c) 0x14
  else (d.health 0x03 why 2 2 c).stepFrond (frondOf c) 0x14

/-- A bank's context discarded without spill. -/
def Core.discardBank (x : Core) (b : Nat) : Core := x.setBank b { x.bank b with res := false }

/-- One core's banks of a context discarded; the current one waits for its next GETW (R365). -/
def Core.discardCtx (x : Core) (q : Nat) : Core :=
  (List.range 8).foldl (fun y b =>
    if (x.bank b).res && (x.bank b).ctx.toNat == q then
      (if x.cur == b then { y with discard := b :: y.discard.filter (· != b) } else y.discardBank b)
    else y) x

/-- Step 2: the context of queue q discarded on every core, its save area emptied, the queue closed until the next swap. -/
def Dev.stepContext (d : Dev) (q : Nat) : Dev :=
  let fr := SMap.get 0 d.qFrame q
  let d1 := { d with cores := List.map (fun (e : Nat × Core) => (e.1, e.2.discardCtx q)) d.cores }
  let d2 := d1.setByte (frondBase (d1.qFrond q) + slotOff fr + 0x1FF) 0
  (d2.setRf (qsKey q 0) 31 1 1).noteStep 2 q 0x13 1 1 0

/-! ### Refill and return (07 R177, R185; 13 R366) -/

/-- A core's control store as a master copy fills it: words beyond the copy's illegal, match registers beyond it with EN 0, each with its
parity (07 R180, R183). -/
def Core.fillPatch (x : Core) (p : Patch) : Core :=
  { x with
      patchRam := (List.range 512).map (fun i => (i, p.words.getD i illegalWord))
      matchReg := (List.range 32).map (fun i => (i, matchImage (p.entries.getD i 0)))
      patchLevel := BitVec.ofNat 16 p.level }

/-- UC_LEVEL.LEVEL. -/
def Dev.ucLevel (d : Dev) : Nat := d.rf (rk .ucBcast 0 0x114) 0 16

/-- Whether a unit is fenced by a fault (R339, R366): one that step 3, 4 or 5 has reset and that has not returned, or a core that a machine
check has withdrawn and that still runs its routine (07 R175, R176). -/
def Dev.faultOut (d : Dev) : Bool := !d.outUnits.isEmpty || d.cores.any (fun e => e.2.mck)

/-- Core c reaches GETW after its return (R366): a unit all of whose cores are back returns, with its record (R367); the device leaves
DEGRADED when no unit is out by a fault. -/
def Dev.coreBack (d : Dev) (c : Nat) : Dev :=
  if !(d.core c).returning then d
  else
    let d1 := d.modCore c (fun x => { x with returning := false })
    let back (u : Nat × Nat) : Bool :=
      unitHas u c && (List.range 256).all (fun e => !unitHas u e || ((d1.core e).pool && !(d1.core e).returning))
    let d2 := (d1.outUnits.filter back).foldl (fun y u => y.health 0x20 Config.otherCause.toNat 1 0 u.2)
      { d1 with outUnits := d1.outUnits.filter (fun u => !back u) }
    if d2.faultOut then d2
    else
      let d3 := d2.setRf (rk .mode 0 0x100) 21 1 0
      if d3.mode = .degraded then d3.toMode .run 3 else d3

/-- A held core let run at program word 0, in the pool. -/
def Core.release (x : Core) : Core := { x with run := .running, pool := true, ctxCc := 0, latch := none }

/-- A held and filled core: released with its block-register images installed (10 R275), where the mode runs cores and its frond is not
fenced for service (R355). One of a unit that step 3, 4 or 5 reset is back when it reaches GETW (R366). -/
def Dev.returnCore (d : Dev) (c : Nat) : Dev :=
  let live := d.mode == .run || d.mode == .degraded || d.mode == .drain
  if live && !d.rbit (rk .power 0 0x108) (frondOf c) then (installImages c d).modCore c (fun y => { y.release with returning := d.outUnits.any (fun u => unitHas u c) }) else d

/-- The loader refills core c after its reset (07 R185, R177): a parity failure of the master copy leaves it withdrawn, and the
ladder continues with the step above (R366). A stopped core is reset first. -/
def Dev.refill (d0 : Dev) (c : Nat) (parityOk : Bool) : Dev :=
  let d := d0.lateReset c
  let sts := rk .ucBcast 0 0x104
  let x := d.core c
  if x.run ≠ .held || x.pool || !d.thOn (thallusOf c) || d.mode = .datum then d
  else
    let d1 := (d.setRf sts 8 16 c).modCore c (fun y => { y with refillDue := false })
    match d1.patch with
    | some p =>
      if !parityOk then ((d1.setRf sts 0 8 0x0D).modCore c (fun y => { y with refillDue := true })).unitFailed c 0x14
      else ((d1.setRf sts 0 8 0).modCore c (fun y => y.fillPatch p)).returnCore c
    | none => ((d1.setRf sts 0 8 0).modCore c (fun y => { y with patchLevel := 0 })).returnCore c

/-- The tick of an empty queue (log entry 3): the resets that are due are made, and 1 fc passes. -/
def idleTick (d : Dev) : Dev := d.lateResets.pass1

end Sys2Proof.Machine
end

