-- ==== Sys2Proof/Machine/CoreRun.lean ====
section
/-!
DEFINITION. How a core carries out one instruction: the boundary and its asynchronous traps (05 R122), decode, retirement (05 R139
to R142), faults, micro-traps (03 R90 to R93), machine checks (07 R172 to R175), RETT (05 R126, 03 R94).
-/
namespace Sys2Proof.Machine

/-! ### What runs -/

/-- Whether core c is clocked: the pool's cores in RUN, DEGRADED and DRAIN, the boot core in CROZIER (13 Table 13.2). -/
def Dev.clocked (d : Dev) (c : Nat) : Bool :=
  d.thOn (thallusOf c) && (d.makesItems || (d.mode == .crozier && c == 0))

/-- Whether core c runs instructions. -/
def Dev.executes (d : Dev) (c : Nat) : Bool := d.clocked c && (d.core c).run == .running

/-- The fetch latch loaded with the words at PC (05 R142). -/
def refetch (c : Nat) (d : Dev) : Dev := d.modCore c (fun x => { x with latch := some (storeWords d c x.cb.pc.toNat) })

/-- The cycles of the run that has ended entered in the counters. -/
def accountCore (c : Nat) (d : Dev) : Dev := d.modCore c Core.account

/-! ### Machine checks (07 R172 to R175) -/

/-- MCK_CAP0 to MCK_CAP5 written, unless a capture is held (07 R173 step 2). -/
def Dev.mckCapture (d : Dev) (c sub mreg : Nat) (u : BitVec 14) (w : BitVec 36) : Dev :=
  let x := d.core c
  let k := rk .coreUc c 0x110
  if d.rbit k 31 then d
  else
    let op := match x.latch with
      | some (p :: _) => fld p 0 14
      | _ => (d.pword c x.cb.pc.toNat).toNat % 2 ^ 14
    let ctx := if x.inBF then 0xFFFF else x.cb.ctx.toNat
    d.setRegs k
      [BitVec.ofNat 32 (2 ^ 31 + u.toNat * 2 ^ 16 + mreg * 2 ^ 8 + sub), BitVec.ofNat 32 w.toNat,
       BitVec.ofNat 32 (x.cb.pc.toNat * 2 ^ 16 + x.cur * 2 ^ 12 + microParity w.toNat * 16 + fld w 32 4),
       BitVec.ofNat 32 d.mer, BitVec.ofNat 32 (d.mer / 2 ^ 32), BitVec.ofNat 32 (ctx * 2 ^ 16 + op)]

/-- The micro-address of the word that core c's sequencer reads at u: its patch RAM address where it is substituted (07 R170). -/
def placeRead (d : Dev) (c u : Nat) : BitVec 14 := BitVec.ofNat 14 ((d.core c).microPlace u)

/-- A microword that core c's sequencer reads at micro-address u, or 0 where none is. -/
def wordRead (d : Dev) (c u : Nat) : BitVec 36 := (microFetch (d.core c) (BitVec.ofNat 14 u)).getD 0

/-- A second machine check: it is not entered, and stops the core (07 R175). -/
def doubleCheck (c : Nat) (d : Dev) : Dev := stopCore c 0x10 (d.setRf (rk .coreUc c 0x110) 30 1 1)

/-- Core c as the words that make a sequence begin: their cycles are counted from 0, and no run is abandoned in them. -/
def seqBegin (c : Nat) (d : Dev) : Dev :=
  let d1 := (accountCore c d).modCore c (fun x => { x with paid := false, stored := true })
  d1.microBegin c (nextWords d1 c) none

/-- The words of a sequence at its RETIRE: they have taken their cycles, the micro-return stack is empty (07 R166), and what the sequence
makes costs no cycle beside them (07 R170). -/
def paidFor (c : Nat) (d : Dev) : Dev := (accountCore c d).modCore c (fun x => { x.microIdle with paid := true })

/-- The work that microwords have paid for is done. -/
def unpaid (c : Nat) (d : Dev) : Dev := d.modCore c Core.unpaid

/-- A trap entry made, its cycles counted and the fetch latch loaded. -/
def enterPlain (c : Nat) (entry : Dev → Dev) (d : Dev) : Dev := refetch c (accountCore c (entry d))

/-- Up to `n` microwords of a patched BF entry for a machine check, from micro-address u: in machine-check state nothing re-arms the watchdog,
no interrupt is taken, and every check or RAISE stops the core (07 R175). The flag: RETIRE. -/
def bfRun (c : Nat) : Nat → Nat → Dev → Dev × Bool
  | 0, _, d => (doubleCheck c d, false)
  | n + 1, u, d =>
    let x := d.core c
    if x.wdog + x.spent ≥ 4096 then (doubleCheck c d, false)
    else match microStep d c (roundMode x 0) u with
      | (.go v, z) => bfRun c n v z
      | (.point p v, z) => bfRun c n v (z.modCore c (fun y => { y with micro := { y.micro with ltp := BitVec.ofNat 14 p } }))
      | (.retire, z) => (z, true)
      | (.stopped .uncorr _ _, z) => (stopCore c 0x11 z, false)
      | (_, z) => (doubleCheck c z, false)

/-- A machine check of core c with its SUB, microword and match register (07 R173): captured, withdrawn, the match enables cleared
for SUB 4 and 5, BF entered, by way of its microwords where a match register still redirects one of them (07 R170, log entry 60); in
machine-check state the core stops instead (R175). `detail`: the original code of a fault in BF. -/
def machineCheck (c sub mreg detail : Nat) (u : BitVec 14) (w : BitVec 36) (d : Dev) : Dev :=
  if (d.core c).mck then doubleCheck c d
  else
    let d1 := ((unpaid c d).mckCapture c sub mreg u w).withdraw c 0x10
    let d2 := if sub = 4 || sub = 5 then d1.modCore c (fun x => { x with matchReg := x.matchReg.map (fun e => (e.1, matchImage (setBit e.2 31 false))) })
      else d1
    let inState (y : Dev) : Dev := y.modCore c (fun x => { x with mck := true })
    if !(d2.core c).trapPatched 16 then refetch c (inState (accountCore c (trapEntry c 16 0 sub detail 0 d2)))
    else
      let d3 := (inState (seqBegin c d2)).modCore c (fun x => { x with wdog := 0 })
      match bfRun c 4097 (Config.romTrap 16).toNat d3 with
      | (z, true) => unpaid c (enterPlain c (trapEntry c 16 0 sub detail 0) (paidFor c z))
      | (z, false) => z

/-- A machine check with a cause of the architecture: the micro-address at which it is raised is free. -/
def archCheck (c sub detail : Nat) (d : Dev) : Dev :=
  let (v, d1) := d.drawFree
  let u := BitVec.ofNat 14 (v.toNat % 0x2000)
  machineCheck c sub 0 detail u (romWord u) d1

/-- The decode cycle. -/
def decodeCycle (c : Nat) (d : Dev) : Dev := d.modCore c (fun x => { x with spent := x.spent + 1 })

/-! ### Traps -/

/-- The exclusive OR of the bytes of a doubleword. -/
def xorBytes (v : W64) : Byte := (toBytes 8 v.toNat).foldl (· ^^^ ·) 0

/-- A micro-trap at a TRAPPT of microwords: UPC the last trap point, the OPID and CHK written beside what the microwords have put into CONT,
RESUME 1 (07 R168, 03 R92). -/
def saveMicro (c opid : Nat) (d : Dev) : Dev :=
  d.modCore c (fun x => x.microIdle.ctl (fun b =>
    let c0 := setFld (setFld b.cont0 50 14 x.micro.ltp.toNat) 45 5 opid
    let c2 := setFld b.cont2 0 8 0
    let chk := 0xA5 ^^^ xorBytes c0 ^^^ xorBytes b.cont1 ^^^ xorBytes c2 ^^^ xorBytes b.cont3
    { b with cont0 := c0, cont2 := c2 ||| chk.setWidth 64, csw := { b.csw with resume := true } }))

/-- A machine check of the sequencer: a word that is not fetched is captured as a free value. -/
def microFail (c sub mreg : Nat) (u : BitVec 14) (w : Option (BitVec 36)) (d : Dev) : Dev :=
  match w with
  | some v => machineCheck c sub mreg 0 u v d
  | none => let (v, d1) := d.drawFree; machineCheck c sub mreg 0 u (BitVec.ofNat 36 v.toNat) d1

/-- The sequencer watchdog runs out at the word of micro-address u (07 R178). -/
def watchFail (c u : Nat) (d : Dev) : Dev := microFail c 6 0 (placeRead d c u) (some (wordRead d c u)) d

/-- Up to `n` microwords of a trap entry or of the bank overflow sequence, from micro-address u; `after`: the entry that RETIRE makes, or none
for the overflow sequence. A TRAPPT tests IRQ and takes the interrupt (07 R165, log entry 60), and a RAISE or an interrupt begins the entry of its
own code. The flag: RETIRE of the overflow sequence's words. -/
def seqRun (c : Nat) : Nat → Nat → Option (Dev → Dev) → Dev → Dev × Bool
  | 0, u, _, d => (watchFail c u d, false)
  | n + 1, u, after, d =>
    let x := d.core c
    let enter (code : Nat) (entry : Dev → Dev) (z : Dev) : Dev × Bool :=
      if (z.core c).trapPatched code then
        seqRun c n (Config.romTrap (BitVec.ofNat 5 code)).toNat (some entry) ((accountCore c z).modCore c Core.microIdle)
      else (enterPlain c entry z, false)
    if x.wdog + x.spent ≥ 4096 then (watchFail c u d, false)
    else match microStep d c (roundMode x 0) u with
      | (.go v, z) => seqRun c n v after z
      | (.point p v, z) =>
        let z1 := accountCore c (z.modCore c (fun y => { y with micro := { y.micro with ltp := BitVec.ofNat 14 p } }))
        (match asyncDue z1 c with
          | some code => enter code (takeAsync c code) (saveMicro c (fld ((z1.core c).microRead p) 11 5) z1)
          | none => seqRun c n v after z1)
      | (.retire, z) =>
        (match after with
          | none => (paidFor c z, true)
          | some entry => (unpaid c (enterPlain c entry (paidFor c z)), false))
      | (.raised code sub p w, z) =>
        if code = 16 then (machineCheck c sub 0 0 (BitVec.ofNat 14 p) w z, false)
        else if (z.core c).inBF then (machineCheck c 1 0 code (BitVec.ofNat 14 p) w z, false)
        else enter code (trapEntry c code 0 sub 0 0) z
      | (.check sub mreg p w, z) => (microFail c sub mreg (BitVec.ofNat 14 p) w z, false)
      | (.stopped (.mck sub) p w, z) => (machineCheck c sub 0 0 (BitVec.ofNat 14 p) w z, false)
      | (.stopped _ _ _, z) => (stopCore c 0x11 z, false)

/-- The microwords of a patched sequence from its ROM entry address. -/
def seqWords (c : Nat) (a : BitVec 13) (after : Option (Dev → Dev)) (d : Dev) : Dev × Bool := seqRun c 8192 a.toNat after (seqBegin c d)

/-- The entry of a trap for a code: `entry`, by way of its microwords where a match register redirects one of them (07 R170, log entry 60). An
entry from work that microwords have paid for takes its own cycles. -/
def enterBy (c code : Nat) (entry : Dev → Dev) (d : Dev) : Dev :=
  if !(d.core c).trapPatched code then enterPlain c entry (unpaid c d) else (seqWords c (Config.romTrap (BitVec.ofNat 5 code)) (some entry) d).1

/-- A trap entered at core c, in BF a machine check (05 R123, R125). -/
def enterTrap (c code acc sub detail : Nat) (taddr : W64) (d : Dev) : Dev :=
  if (d.core c).inBF then archCheck c 1 code d else enterBy c code (trapEntry c code acc sub detail taddr) d

/-- An asynchronous trap entered. -/
def enterAsync (c code : Nat) (d : Dev) : Dev := enterBy c code (takeAsync c code) d

/-- The cycles of an abandoned run entered in the counters; those of a run abandoned for an entry into BF do not draw on BUDGET (06
R158, R160). -/
def accountAbandoned (c : Nat) (d : Dev) : Dev :=
  if asyncDue (accountCore c d) c = some 18 then accountCore c (d.modCore c (fun x => { x with unbilled := x.spent })) else accountCore c d

/-- How an instruction that is not at a trap point ends without completing. -/
def endStop (c : Nat) (d : Dev) (s : Stop) : Dev :=
  match s with
  | .trap code acc sub detail taddr => enterTrap c code acc sub detail taddr d
  | .mck sub => archCheck c sub 0 d
  | .uncorr => stopCore c 0x11 d
  | .abandon =>
    let d1 := accountAbandoned c d
    match asyncDue d1 c with
    | some code => enterAsync c code d1
    | none => d1

/-! ### Continuations (03 R91 to R94) -/

/-- Number of the run before a trap point, by which the micro-address of its TRAPPT is named. -/
def Flight.runNo (f : Flight) : Nat := if 8 ≤ f.opid.toNat then dph f 0 % 64 else f.doneN.toNat % 64

/-- Whether an OPID's instruction keeps digit latches. -/
def latchOp (o : Nat) : Bool := 8 ≤ o && o ≤ 12

/-- A continuation with the fields that its instruction does not use 0 (R91): DIR is of MVS and TRS, the others as their register tables
say. -/
def Flight.used (f : Flight) : Flight :=
  let o := f.opid.toNat
  let ed := o == 5 || o == 6
  let one := 8 ≤ o && o ≤ 10
  { f with
      dir := f.dir && (o == 1 || o == 3)
      flags := if ed then f.flags else if o = 2 then f.flags &&& 6 else if o = 4 then f.flags &&& 4 else 0
      fill := if ed then f.fill else 0
      doneN := if latchOp o then 0 else f.doneN
      len := if latchOp o then 0 else f.len
      addr2 := if one then 0 else f.addr2
      addr3 := if o = 3 || o = 4 || o = 6 then f.addr3 else 0
      step2 := if one then 0 else f.step2
      estate := if ed then f.estate else 0
      soff := if ed then f.soff else 0
      sbyte := if ed then f.sbyte else 0
      dphase := if latchOp o then f.dphase else 0 }

/-- A bank with the continuation of an instruction written to CONT (R91, R92), UPC the last trap point (07 R168), and its latches held
(R93). -/
def Bank.saveFlight (b : Bank) (g : Flight) (ltp : BitVec 14) : Bank :=
  let f := g.used
  let c0 : W64 := BitVec.ofNat 64 (ltp.toNat * 2 ^ 50 + f.opid.toNat * 2 ^ 45 + b2n f.dir * 2 ^ 44 +
    f.flags.toNat * 2 ^ 41 + f.fill.toNat * 2 ^ 32 + f.doneN.toNat * 2 ^ 16 + f.len.toNat)
  let c1 : W64 := f.addr1 ++ f.addr2
  let c2 : W64 := BitVec.ofNat 64 (f.addr3.toNat * 2 ^ 32 + f.step1.toNat * 2 ^ 30 + f.step2.toNat * 2 ^ 28 + f.estate.toNat * 2 ^ 25 +
    f.soff.toNat * 2 ^ 8)
  let c3 : W64 := f.sbyte ++ f.dphase
  let chk := 0xA5 ^^^ xorBytes c0 ^^^ xorBytes c1 ^^^ xorBytes c2 ^^^ xorBytes c3
  { b with cont0 := c0, cont1 := c1, cont2 := c2 ||| chk.setWidth 64, cont3 := c3
           latch := if latchOp f.opid.toNat then f.latch else b.latch }

/-- The continuation that a bank's CONT holds; fields that its instruction does not use are ignored. -/
def Bank.loadFlight (b : Bank) (fromBF : Bool) : Flight :=
  Flight.used {
    opid := BitVec.ofNat 5 (fld b.cont0 45 5), dir := bit b.cont0 44, flags := BitVec.ofNat 3 (fld b.cont0 41 3)
    fill := BitVec.ofNat 8 (fld b.cont0 32 8), doneN := BitVec.ofNat 16 (fld b.cont0 16 16), len := BitVec.ofNat 16 (fld b.cont0 0 16)
    addr1 := BitVec.ofNat 32 (fld b.cont1 32 32), addr2 := BitVec.ofNat 32 (fld b.cont1 0 32), addr3 := BitVec.ofNat 32 (fld b.cont2 32 32)
    step1 := BitVec.ofNat 2 (fld b.cont2 30 2), step2 := BitVec.ofNat 2 (fld b.cont2 28 2), estate := BitVec.ofNat 3 (fld b.cont2 25 3)
    soff := BitVec.ofNat 16 (fld b.cont2 8 16), sbyte := BitVec.ofNat 8 (fld b.cont3 56 8), dphase := BitVec.ofNat 56 (fld b.cont3 0 56)
    latch := if latchOp (fld b.cont0 45 5) then b.latch else [], fresh := true, fromBF := fromBF }

/-- Whether UPC is a resume entry (07 R169): the word there, after patch matching, is the instruction's TRAPPT. -/
def resumeEntry (x : Core) (f : Flight) (upc : BitVec 14) : Bool :=
  match microFetch x upc with
  | some w => isTrappt w f.opid
  | none => false

/-- The conditions of R94 on a continuation of the instruction at PC. -/
def resumeOk (x : Core) (o : Op) : Bool :=
  let b := x.cb
  let f := b.loadFlight false
  opidOf o == some f.opid.toNat && (xorBytes b.cont0 ^^^ xorBytes b.cont1 ^^^ xorBytes b.cont2 ^^^ xorBytes b.cont3) == 0xA5 &&
    resumeEntry x f (BitVec.ofNat 14 (fld b.cont0 50 14)) &&
    fld b.cont0 16 16 ≤ fld b.cont0 0 16 && !bit b.cont0 40 && !bit b.cont2 24

/-- CONT[0] and CSW.RESUME cleared (R96). -/
def Core.clearResume (x : Core) : Core := x.ctl (fun b => { b with cont0 := 0, csw := { b.csw with resume := false } })

/-- What the fault of a decimal instruction does to its continuation (R90): one that has been continued, whose CSW.RESUME is 1, is over; of
any other CONT stays as it is (DEDUCED, log entry 72). -/
def Core.endResume (x : Core) : Core := if x.csw.resume then x.clearResume else x

/-- The continuation written for a micro-trap: CONT, RESUME 1 (R90, R91). -/
def saveCont (c : Nat) (f : Flight) (d : Dev) : Dev :=
  d.modCore c (fun x => { x.ctl (fun b => { b.saveFlight f x.micro.ltp with csw := { b.csw with resume := true } }) with flight := none })

/-- A micro-trap for an asynchronous trap at a trap point. -/
def microAsync (c : Nat) (f : Flight) (code : Nat) (d : Dev) : Dev := enterAsync c code (saveCont c f d)

/-- The instruction that core c's next words name. -/
def opNext (d : Dev) (c : Nat) : Op := match decodeNext d c with
  | .ok i => i.op
  | .error e => e.op.getD .nop

/-- An asynchronous trap due at a boundary or at the trap point the core stands at. -/
def takeDue (c code : Nat) (d : Dev) : Dev :=
  match (d.core c).flight, (d.core c).micro.next with
  | some f, _ => microAsync c f code d
  | none, some _ => enterAsync c code (saveMicro c ((opidOf (opNext d c)).getD 0) d)
  | none, none => enterAsync c code d

/-- How a run of an interruptible instruction ends without reaching its next trap point: a fault of a string step is a micro-trap
at the trap point before it; a fault of a decimal instruction ends it (02 R68, R69, 03 R77, R90). -/
def endRun (c : Nat) (f : Flight) (d : Dev) (s : Stop) : Dev :=
  match s with
  | .trap code acc sub detail taddr =>
    if (d.core c).inBF then archCheck c 1 code (d.modCore c (fun x => { x with flight := none }))
    else if latchOp f.opid.toNat then
      enterTrap c code acc sub detail taddr (d.modCore c (fun x => { x.endResume with flight := none }))
    else enterTrap c code acc sub detail taddr (saveCont c f d)
  | .abandon =>
    let d1 := accountAbandoned c d
    match asyncDue d1 c with
    | some code => microAsync c f code d1
    | none => d1
  | s => endStop c (d.modCore c (fun x => { x with flight := none })) s

/-! ### Retirement -/

/-- The RETIRE cycle (07 R167): PC, the load delay (05 R139), the next words fetched before a program word is stored (05 R142),
the watchdog re-armed, the cycles counted. DESIGN CHOICE (log entry 65): the PC after word 65,535 is 0. -/
def retire (c n : Nat) (r : Ret) (d : Dev) : Dev :=
  let d1 := d.modCore c (fun x =>
    let y := x.makeLoad.microIdle.ctl (fun b => { b with pc := BitVec.ofNat 16 (r.pc.getD (b.pc.toNat + n)) })
    { y with ldPend := r.ld, flight := none })
  let d2 := refetch c d1
  let d3 := match r.pword with
    | some (w, v) => d2.setPword c w v
    | none => d2
  accountCore c d3

/-- An item completed after its budget has run out (08 R205, 13 R365 steps 1 and 2): its Sorus entry (08 R210), its record, its
strike. -/
def Dev.overrunItem (d : Dev) (n q : Nat) : Dev :=
  let k := SMap.get 0 d.qStrike q + 1
  let d1 := (d.endOverrun n).noteStep 1 q 1 1 1 0
  if k ≥ d1.strikeMax then { d1 with qStrike := SMap.put d1.qStrike q 0 }.stepContext q
  else { d1 with qStrike := SMap.put d1.qStrike q k }

/-- The grace of core c has run out (08 R205, 13 R365): the Graticule completes its item as OVERRUN, unless it has ended the item before
(R213), withdraws the core and resets it. -/
def graceOut (c : Nat) (d : Dev) : Dev :=
  if (d.core c).item.isNone then d
  else
    let d1 := match d.openItem c with
      | some (n, x) => d.overrunItem n x.q
      | none => d
    ((d1.modCore c (fun x => { x with item := none, budget := 0 })).withdraw c 1).stepCore c 1

/-- The grace judged after a run. -/
def settleGrace (c : Nat) (d : Dev) : Dev :=
  let x := d.core c
  if x.onGrace && x.budget = 0 && x.item.isSome then graceOut c d else d

/-- The sequencer watchdog judged after a run in machine-check state, where nothing re-arms it (07 R175, R178): at 4,096 cc the core stops
with the registers it had before the run, `x0`. -/
def settleWatch (c : Nat) (x0 : Core) (d : Dev) : Dev :=
  let x := d.core c
  if x0.mck && x.mck && x.wdog ≥ 4096 then
    archCheck c 6 0 (d.modCore c (fun y => { x0 with wbuf := y.wbuf, cc := y.cc, wdog := y.wdog, wdogHi := y.wdogHi }))
  else d

/-! ### Patched instructions (07 R161 to R170) -/

/-- A RAISE in a patched instruction, in the microword w at place p: a string fault after a trap point is a micro-trap, and a continued
decimal instruction's fault ends its continuation (03 R90); any other RAISE leaves CONT and RESUME (log entry 60). -/
def microRaise (c : Nat) (o : Op) (code sub p : Nat) (w : BitVec 36) (d : Dev) : Dev :=
  let u := BitVec.ofNat 14 p
  let m := (d.core c).micro
  let (acc, detail, taddr) := match m.failed with
    | some (k, a, dt, ta) => if m.cond.acf && k == code then (a, dt, ta) else (0, 0, 0)
    | none => (0, 0, 0)
  if code = 16 then machineCheck c sub 0 0 u w d
  else if (d.core c).inBF then machineCheck c 1 0 code u w d
  else enterTrap c code acc sub detail taddr
    (match opidOf o with
      | some n => if latchOp n then d.modCore c Core.endResume else if m.pointed then saveMicro c n d else d
      | none => d)

/-- A run of a patched instruction that is abandoned for an interrupt (05 R129). -/
def microAbandon (c : Nat) (o : Op) (d : Dev) : Dev :=
  let d1 := accountAbandoned c d
  match asyncDue d1 c with
  | some code => if (d1.core c).micro.pointed then enterAsync c code (saveMicro c ((opidOf o).getD 0) d1) else enterAsync c code d1
  | none => d1

/-- RETIRE of a patched instruction (R167): the continuation cleared (03 R96), the specifier steps and sticky bits not yet made, BWIN.REG
stepped after an MFB or MTB (05 R132; log entry 60), the load delay, and PC. -/
def microRetire (c : Nat) (i : Dec) (d : Dev) : Dev :=
  let (v, d1) := d.drawFree
  let d2 := d1.modCore c (fun x =>
    let y := ((x.microSteps i).foldl Core.applyStep x).microSticky i.op v
    if i.op == .mfb || i.op == .mtb then y.stepBwin else y)
  let y := d2.core c
  retire c i.n
    { pc := if y.micro.pcSet then some y.cb.pc.toNat else none
      ld := y.micro.delay.bind (fun e => e.2.map (fun w => (e.1, w))) }
    (if (opidOf i.op).isSome then d2.modCore c Core.clearResume else d2)

/-- The instructions whose work a microword of Table 7.2 does not reach: that of the Graticule, the block registers, the write buffer, the
core's state of waiting, the control registers and the return stack of FORERUNNER (log entry 60). -/
def unitOp (x : Core) : Op → Bool
  | .sync | .fence | .rett | .getw | .wait | .invall | .inva | .invt | .doneI | .post | .doorb | .mfcr | .mtcr => true
  | .call | .callr | .ret => x.csw.mode == 2
  | _ => false

/-- RETIRE of such an instruction: its own work `go` is made in that cycle, with the operands as they stood before its microwords; a specifier
step that a microword has made is not made again (R167). Where the words have used up the grace, nothing is left to do. -/
def unitWork (c : Nat) (i : Dec) (go : Dev → Dev) (d : Dev) : Dev :=
  let z := paidFor c d
  let x := z.core c
  if x.onGrace && x.budget = 0 && x.item.isSome then unpaid c z
  else
    let stepped := x.micro.wrote.filter (fun e => i.s1.stepsReg e.1 || i.s2.stepsReg e.1)
    let w := go (z.modCore c (fun y => stepped.foldl (fun y e => y.setG e.1 e.2) y))
    unpaid c (w.modCore c (fun y => stepped.foldl (fun y e => y.setBank x.cur ((y.bank x.cur).wr e.1 (x.g e.1))) y))

/-- Up to `n` cycles of the sequencer from micro-address u, `points` trap points being passed before it pauses at one: the watchdog
(R178), then one microword a cycle (R162). `fin`: what follows RETIRE. -/
def microRun (c : Nat) (i : Dec) (fin : Dev → Dev) : Nat → Nat → Nat → Dev → Dev
  | 0, _, _, d => d
  | n + 1, points, u, d =>
    let x := d.core c
    if x.wdog + x.spent ≥ 4096 then watchFail c u d
    else match microStep d c (roundMode x i.rnd) u with
      | (.go v, z) => microRun c i fin n points v z
      | (.retire, z) => fin z
      | (.point p t, z) =>
        let z1 := accountCore c (z.modCore c (fun y => { y with micro := { y.micro with ltp := BitVec.ofNat 14 p, pointed := true } }))
        (match asyncDue z1 c with
          | some code => enterAsync c code (saveMicro c ((opidOf i.op).getD 0) z1)
          | none =>
            let z2 := z1.modCore c (fun y => { y with stored := false })
            match points with
            | 0 => z2.modCore c (fun y => { y with micro := { y.micro with next := some (BitVec.ofNat 14 t) } })
            | k + 1 => microRun c i fin n k t z2)
      | (.raised code sub p w, z) => microRaise c i.op code sub p w z
      | (.check sub mreg p w, z) => microFail c sub mreg (BitVec.ofNat 14 p) w z
      | (.stopped .abandon _ _, z) => microAbandon c i.op z
      | (.stopped (.mck sub) p w, z) => machineCheck c sub 0 0 (BitVec.ofNat 14 p) w z
      | (.stopped s _ _, z) => endStop c z s

/-- Core c's sequencer as it begins an instruction. -/
def Dev.microStart (d : Dev) (c : Nat) (i : Dec) : Dev := d.microBegin c (nextWords d c) (delayOf (d.core c) i)

/-- A patched instruction: from its ROM entry address, or from the trap point it stands at. -/
def microInstr (c : Nat) (i : Dec) (fin : Dev → Dev) (points : Nat) (d : Dev) : Dev :=
  let n := 4096 * (points + 2)
  match (d.core c).micro.next with
  | some u => microRun c i fin n points u.toNat (d.modCore c (fun x => { x with micro := { x.micro with next := none } }))
  | none => microRun c i fin n points (Config.romEntry i.op).toNat (d.microStart c i)

/-- Whether core c runs its instruction as 01 to 06 and 08 give it: no match register redirects a word of its ROM path, and each has its
parity; and it does not stand at a trap point of patch RAM, from which it goes on by microwords (07 R169). -/
def Dev.romRuns (d : Dev) (c : Nat) (o : Op) : Bool :=
  (d.core c).matchFail.isNone && !(d.core c).patched o && (d.core c).micro.next.isNone

/-- An instruction whose control store is patched, or has a match register that fails its parity; `fin`: what follows its RETIRE. The check of
an MTB's specifier against BWIN is one of decode (01 R29). -/
def microPath (c : Nat) (i : Dec) (fin : Dev → Dev) (points : Nat) (d : Dev) : Dev :=
  match (d.core c).matchFail with
  | some n =>
    let u := (Config.romEntry i.op).toNat
    microFail c 5 n (placeRead d c u) (some (wordRead d c u)) d
  | none => if i.op = .mtb && (d.core c).mtbSteps i then endStop c (decodeCycle c d) (.trap 2 0 0 0 0) else microInstr c i fin points d

/-! ### Instructions -/

/-- What stands before an instruction of core c named `o`: nothing while the core does not run; the asynchronous trap that is due;
nothing when the words at PC are another instruction; the fault that its decode raises. A patched instruction goes word by word, past
`points` trap points; where a unit outside the sequencer does its work, `go` does it after the words (log entry 60). -/
def beginInstr (c : Nat) (o : Op) (points : Nat) (go : Dec → Dev → Dev) (d : Dev) : Dev :=
  if !d.executes c then d
  else
    match asyncDue d c with
    | some code => takeDue c code d
    | none =>
      match decodeNext d c with
      | .ok i =>
        let d1 := d.modCore c (fun x => { x with stored := false, spent := 0, unbilled := 0, paid := false })
        if i.op = o then settleWatch c (d.core c) (settleGrace c (if d.romRuns c o then go i d1 else microPath c i (if unitOp (d.core c) o then unitWork c i (go i) else microRetire c i) points d1)) else d
      | .error e =>
        if e.op == some o || e.op.isNone then endStop c (d.modCore c (fun x => { x with spent := 1 })) e.stop else d

/-- An instruction that is not interruptible. -/
def runInstr (c : Nat) (o : Op) (sem : Nat → Dec → X Ret) (d : Dev) : Dev :=
  beginInstr c o 0 (fun i y =>
    match (sem c i).run (decodeCycle c y) with
    | .ok r z => retire c i.n r z
    | .error s z => endStop c z s) d

/-- An interruptible instruction: its setup, and its runs from trap point to trap point. -/
structure Long where
  setup : Nat → Dec → X Flight
  step : Nat → Dec → Flight → X StepEnd

/-- A trap point reached: the continuation held, LTP its TRAPPT's micro-address (07 R168), the cycles counted, and an asynchronous trap that is due
taken. The flag: the instruction goes on. -/
def reachPoint (c : Nat) (f : Flight) (d : Dev) : Dev × Bool :=
  let d1 := accountCore c (d.modCore c (fun x => { x with flight := some f, micro := { x.micro with ltp := resumeUpc f.opid f.runNo } }))
  match asyncDue d1 c with
  | some code => (microAsync c f code d1, false)
  | none => (d1.modCore c (fun x => { x with stored := false }), true)

/-- Cycles that BUDGET does not count in the first run after a RETT from BF: the far chunk charged again (06 R160). -/
def rechargeOf (l : Long) (c : Nat) (i : Dec) (f : Flight) (d z : Dev) : Nat :=
  if !f.fromBF then 0
  else match (l.step c i { f with fresh := false }).run d with
    | .ok _ y => (z.core c).spent - (y.core c).spent
    | .error _ y => (z.core c).spent - (y.core c).spent

/-- Up to `n` runs of an interruptible instruction from the trap point it stands at. -/
def longRuns (l : Long) (c : Nat) (i : Dec) : Nat → Flight → Dev → Dev
  | 0, _, d => d
  | n + 1, f, d =>
    match (l.step c i f).run d with
    | .ok (.more g) z =>
      match reachPoint c { g with fromBF := false } (z.modCore c (fun x => { x with unbilled := rechargeOf l c i f d z })) with
      | (y, true) => longRuns l c i n { g with fromBF := false } y
      | (y, false) => y
    | .ok (.fin r) z => retire c i.n r (z.modCore c Core.clearResume)
    | .error s z => endRun c f z s

/-- An interruptible instruction that passes `points` trap points before it pauses at one. DESIGN CHOICE (log entry 72): before its first trap
point, which stands at the end of its setup (03 R76), an abandoned or failing setup takes its trap as any instruction does, with RESUME 0. -/
def runLong (c : Nat) (o : Op) (l : Long) (points : Nat) (d : Dev) : Dev :=
  beginInstr c o points (fun i y =>
    match (y.core c).flight with
    | some f => longRuns l c i (points + 1) f y
    | none =>
      match (l.setup c i).run (decodeCycle c y) with
      | .error s z => endStop c z s
      | .ok f z =>
        match reachPoint c f z with
        | (w, true) => longRuns l c i points f w
        | (w, false) => w) d

/-! ### RETT (05 R126, 03 R94) -/

/-- The instruction at the restored PC continued from CONT, with its 4 cc of resume setup (06 R157), or its specification trap (R94), entered 1 cc
after the RETT as a decode check is (DESIGN CHOICE, log entry 72). The word at UPC becomes the last trap point (07 R169); where the instruction is
patched, or that word is a patch RAM word, the sequencer goes on from it. A check-bit mismatch in the words at PC is the machine check of 01 R25
(log 61). -/
def resumeAt (c : Nat) (fromBF : Bool) (d : Dev) : Dev :=
  let bad (y : Dev) : Dev :=
    enterTrap c 2 0 0 0 0 (y.modCore c (fun x => { x.ctl (fun b => { b with csw := { b.csw with resume := false } }) with spent := 1 }))
  match decodeNext d c with
  | .error { op := _, stop := .mck sub } => archCheck c sub 0 (decodeCycle c d)
  | .error _ => bad d
  | .ok i =>
    let x := d.core c
    let upc := BitVec.ofNat 14 (fld x.cb.cont0 50 14)
    if !resumeOk x i.op then bad d
    else if !d.romRuns c i.op || x.microPlace upc.toNat ≥ 0x2000 then
      let d1 := d.microStart c i
      let k := if fromBF then 4 else 0
      microRun c i (microRetire c i) 2 0 upc.toNat (d1.modCore c (fun y => { y with stored := false, spent := y.spent + 4, unbilled := k }))
    else
      let f := x.cb.loadFlight fromBF
      match (resumeSetup c f).run (d.modCore c (fun y => { y with stored := false, micro := { y.micro with ltp := upc } })) with
      | .ok g z =>
        let k := if fromBF then (z.core c).spent % 72 else 0
        accountCore c (z.modCore c (fun y => { y with flight := some g, unbilled := k }))
      | .error s z =>
        let k := if fromBF then (z.core c).spent % 72 else 0
        endRun c f (z.modCore c (fun y => { y with unbilled := k })) s

/-- RETT: 8 cc; in machine-check state it stops the core (07 R175). -/
def doRett (c : Nat) (d : Dev) : Dev :=
  let x := d.core c
  if x.mck then stopCore c 0x10 d
  else
    let d1 := (syncCore c (d.modCore c Core.makeLoad)).modCore c (fun y => { y with spent := y.spent + 7 })
    let d2 := (accountCore c d1).modCore c (fun y => y.microIdle.rettTo)
    let d3 := refetch c d2
    if (d3.core c).csw.resume then resumeAt c x.inBF (unpaid c d3) else d3

end Sys2Proof.Machine
end

