-- ==== Sys2Proof/Machine/Handlers.lean ====
section
/-!
DEFINITION. What joins the cores to the Graticule (08 R202 to R210): GETW, DONE, POST, DOORB; the hand-over of an item with its bank
overflow sequence (05 R134 to R137); the reading of a completed item's texts; and the events of a core.
-/
namespace Sys2Proof.Machine

/-! ### DOORB (08 R209) -/

/-- Key of DB_HEAD[c]. -/
def dbKey (c : Nat) : Nat := rk .gratDb 0 (0x100 + 8 * c)

/-- A doorbell code put into core t's FIFO, or lost when it holds 4. -/
def Dev.ringBell (d : Dev) (t src code : Nat) : Dev :=
  let l := SMap.get [] d.db t
  if l.length < 4 then { d with db := SMap.put d.db t (l ++ [(src, code)]) } else d.setRf (dbKey t) 30 1 1

/-- The oldest entry of core t's FIFO removed; OVF is cleared when the FIFO empties. -/
def Dev.popBell (d : Dev) (t : Nat) : Dev :=
  let l := (SMap.get [] d.db t).drop 1
  let d1 := { d with db := SMap.put d.db t l }
  if l.isEmpty then d1.setRf (dbKey t) 30 1 0 else d1

/-- DOORB; 4 + k cc. -/
def semDoorb (c : Nat) (i : Dec) : X Ret := do
  let x ← core c
  let v ← srcBin c i.s1 8
  tick c 3
  applySteps c [stepOf x i.s1 8]
  modify (fun d => d.ringBell (fld v 0 8) c (fld v 16 16))
  return {}

/-! ### POST (08 R208) -/

/-- The item of a POST made: its payload is read after the poster's write buffer has been written; a failed access ends it
(09 R226, 10 R282). -/
def Dev.postItem (d : Dev) (c q : Nat) (fr : W32) (v : W64) : Dev :=
  let d0 := drainAll c d
  let n := fld v 12 14
  let src : Src := .post (if bit v 11 then none else some (fld v 38 13))
  let x : Item := { q := fld v 51 13, src := src, tin := d.mer, itag := BitVec.ofNat 64 q, plen := n, exq := false, head := []
                    ring := thallusOf c, roff := none, cls := d.ctClass (fld v 51 13) }
  let lost (y : Dev) : Dev := ({ y with nextItem := y.nextItem + 1 }.setItem y.nextItem x).failItem y.nextItem 1
  match d0.fabRead (stageReq (thallusOf c)) (frondBase (frondOf c) + stageOff fr + 16 * fld v 26 12) n with
  | (d1, .error _) => lost d1
  | (d1, .ok bs) =>
    match d1.arrive { x with head := padTo 10 (bs.drop 6) } bs with
    | (d2, true) => d2
    | (d2, false) => d2.refuse d1.nextItem x 11

/-- POST; 8 + k cc. -/
def semPost (c : Nat) (i : Dec) : X Ret := do
  let x ← core c
  let v ← srcBin c i.s1 8
  tick c 7
  if x.inBF || !x.cb.res then specTrap
  let q := x.cb.ctx.toNat
  let fr := (← get).frameOf x
  if fld v 0 11 != 0 || fld v 12 14 = 0 || 16 * fld v 26 12 + fld v 12 14 > stageSize fr then specTrap
  applySteps c [stepOf x i.s1 8]
  modify (fun d => d.postItem c q fr v)
  return {}

/-! ### DONE (08 R205, R206) -/

/-- Whether a DONE operand passes the checks of R206 for an item. -/
def doneOk (x : Item) (v : W64) : Bool :=
  fld v 60 2 == 0 && fld v 0 8 == 0 &&
    (!bit v 63 || (fld v 26 14 != 0 && fld v 26 14 ≤ x.egrmax && 16 * fld v 40 12 + fld v 26 14 ≤ stageSize x.frame)) &&
    (!bit v 62 || (x.jen && 16 * fld v 14 12 + 16 * (fld v 8 6 + 1) ≤ stageSize x.frame))

/-- A Sorus entry of thallus t (R210): its high-water mark. -/
def Dev.sorusEntry (d : Dev) (t : Nat) : Dev := let k := rk .sorus t 0x100; d.setRf k 16 8 (max 1 (d.rf k 16 8))

/-- Item n completed by its DONE (R206, R210): a Sorus entry, and the texts to be read. -/
def Dev.completeItem (d : Dev) (n : Nat) (x : Item) (t : Nat) (v : W64) : Dev :=
  let d1 := { d.setItem n { x with phase := .done, done := v, tevt := d.mer } with qStrike := SMap.put d.qStrike x.q 0 }
  let d2 := d1.sorusEntry t
  if x.jen then d2.settleChain x.chain else d2

/-- DONE's last cycle on core c: its cycles counted, BUDGET stopped, the item completed or overrun, its use of the budget
measured (R205, R216). Where the grace runs out in the cycles before it, DONE completes nothing: the Graticule does (`settleGrace`). -/
def doneAct (c n : Nat) (x : Item) (v : W64) (d : Dev) : Dev :=
  let y := d.core c
  let z := y.account
  let k := y.cycles - y.unbilled
  let past := y.onGrace || k > y.budget.toNat
  let gone := if y.onGrace then decide (k > y.budget.toNat) else decide (k > y.budget.toNat + 256)
  let used := if past then x.ebudget + 256 - z.budget.toNat else x.ebudget - z.budget.toNat
  let d1 := d.setCore c { z with item := none, onGrace := false, ctxCc := z.ctxCc
                                 budget := if z.onGrace && !past then 0 else z.budget
                                 pendOverrun := if past then z.pendOverrun else y.pendOverrun }
  let d2 := d1.setRf (qsKey x.q 8) 0 24 (min (2 ^ 24 - 1) (max used (d1.rf (qsKey x.q 8) 0 24)))
  if gone then d
  else if past then (d2.sorusEntry (thallusOf c)).overrunItem n x.q else d2.completeItem n x (thallusOf c) v

/-- A DONE for an item that the Graticule has ended in the meantime (R213): the core is done with it, and nothing is sent. -/
def doneEnded (c : Nat) (d : Dev) : Dev := d.setCore c { (d.core c).account with item := none, onGrace := false }

/-- DONE; 6 + k cc. -/
def semDone (c : Nat) (i : Dec) : X Ret := do
  let x ← core c
  let v ← srcBin c i.s1 8
  tick c 5
  if x.inBF then specTrap
  let d ← get
  if x.item.isNone then specTrap
  else
    match d.openItem c with
    | none =>
      applySteps c [stepOf x i.s1 8]
      modify (doneEnded c)
      return {}
    | some (n, it) =>
      if !doneOk it v then specTrap
      applySteps c [stepOf x i.s1 8]
      modify (doneAct c n it v)
      return {}

/-! ### The texts of a completed item (R207 steps 1 and 2) -/

/-- The texts of item n read, once the write-buffer entries of its core have been written: a journaled item then waits for its
seal, another sends its reply. A failed read ends it (09 R226). -/
def Dev.readTexts (d : Dev) (n : Nat) : Dev :=
  match d.item? n with
  | none => d
  | some x =>
    if x.phase != .done then d
    else
      let d0 := match x.core with
        | some c => drainAll c d
        | none => d
      let base := frondBase x.frond + stageOff x.frame
      let v := x.done
      let r := egressReq (x.frond / 8)
      let (d1, j) := if bit v 62 then d0.fabRead r (base + 16 * fld v 14 12) (16 * (fld v 8 6 + 1)) else (d0, .ok [])
      match j with
      | .error _ => d1.failItem n 1
      | .ok jt =>
        let (d2, e) := if bit v 63 then d1.fabRead r (base + 16 * fld v 40 12) (fld v 26 14) else (d1, .ok [])
        match e with
        | .error _ => d2.failItem n 1
        | .ok et =>
          let k := d2.cairn.reads
          let d3 := { d2 with cairn := { d2.cairn with reads := k + 1 } }.modItem n (fun y => { y with egr := et, jtext := jt, order := k })
          if bit v 62 then d3.modItem n (fun y => { y with phase := .texts }) else d3.finish n

/-! ### GETW and the hand-over (R203, R204) -/

/-- GETW decoded: a trap in BF or with an item that has not completed, else the core waits (R204; 13 R365, R366). -/
def doGetw (c : Nat) (d : Dev) : Dev :=
  let x := d.core c
  if x.inBF || (d.openItem c).isSome then endStop c (d.modCore c (fun y => { y with spent := 6 })) (.trap 2 0 0 0 0)
  else
    (d.modCore c (fun y =>
      { y.discard.foldl Core.discardBank y with run := .inGetw, discard := [], ctxCc := 0, spent := 0, flight := none, item := none,
                                                  onGrace := false })).coreBack c

/-- Order in which ready items are handed to cores: dc, class, queue. -/
def itemBefore (a b : Nat × Item) : Bool :=
  a.2.dc < b.2.dc || (a.2.dc == b.2.dc && (a.2.cls < b.2.cls || (a.2.cls == b.2.cls && a.2.q ≤ b.2.q)))

/-- Whether core c waits in GETW for an item. -/
def Dev.waits (d : Dev) (c : Nat) : Bool :=
  let x := d.core c
  d.clocked c && x.pool && x.run == .inGetw && (d.itemsWhere (fun y => y.phase == .handed && y.core == some c)).isEmpty

/-- Whether core c holds the context of queue q resident, and its bank. -/
def Core.bankOf (x : Core) (q : Nat) : Option Nat := (List.range 8).find? (fun b => (x.bank b).res && (x.bank b).ctx.toNat == q)

/-- Ready items handed to waiting cores in order until core c has one. -/
def Dev.handTo (c : Nat) : List (Nat × Item) → List Nat → Dev → Dev × Option (Nat × Item)
  | [], _, d => (d, none)
  | (n, x) :: t, ws, d =>
    match (match ws.find? (fun w => ((d.core w).bankOf x.q).isSome) with
      | some w => some w
      | none => ws.head?) with
    | none => (d, none)
    | some w =>
      let y := { x with phase := .handed, core := some w }
      if w = c then (d.setItem n y, some (n, y)) else Dev.handTo c t (ws.erase w) (d.setItem n y)

/-- The item that core c receives: one already handed to it, or the next. -/
def Dev.nextFor (d : Dev) (c : Nat) : Dev × Option (Nat × Item) :=
  match (d.itemsWhere (fun y => y.phase == .handed && y.core == some c)).head? with
  | some e => (d, some e)
  | none =>
    if !d.waits c then (d, none)
    else Dev.handTo c (sortBy itemBefore (d.itemsWhere (fun x => x.phase == .ready && x.frond == frondOf c)))
      (((List.range 8).map (fun j => 8 * frondOf c + j)).filter d.waits) d

/-- The item descriptor (08 Table 8.5). -/
def itemWords (x : Item) : List Byte :=
  let port := match x.src with
    | .port p _ _ => p
    | _ => 255
  toBytes 8 x.tin ++ toBytes 8 (x.tin + x.deadline) ++ toBytes 8 x.itag.toNat ++ toBytes 2 x.q ++ toBytes 1 x.cls ++ toBytes 1 port ++
    toBytes 2 x.plen ++ toBytes 2 (b2n (port == 255) + 2 * b2n x.exq) ++ toBytes 4 x.ebudget ++ toBytes 4 x.seq ++
    toBytes 8 (BitVec.ofInt 64 x.dc).toNat ++ zeros 16

/-- The Graticule as a master (10 Table 10.1). -/
def gratReq : Req := ⟨0x101, .dma, 0, true⟩

/-! ### The bank overflow sequence (05 R134 to R137) -/

/-- How a group transfer ends. -/
inductive GroupEnd where
  | ok
  | denied (addr : Nat)
  | uncorr
  deriving DecidableEq, Repr

/-- The save area's place of a group: 0 to 3 the registers, 4 control, 5 the latches (Table 5.5). -/
def groupSpan (g : Nat) : Nat × Nat := if g < 4 then (64 * g, 64) else if g = 4 then (0x100, 0x68) else (0x168, 128)

/-- Bytes of a bank's group as the save area lays them out. -/
def Bank.groupBytes (b : Bank) (n g : Nat) : List Byte :=
  if g < 4 then (List.range 8).flatMap (fun i => toBytes 8 (b.rd (8 * g + i)).toNat)
  else if g = 5 then latchBytes b.latch 0 ++ latchBytes b.latch 4 ++ latchBytes b.latch 8 ++ latchBytes b.latch 12
  else
    toBytes 8 b.pc.toNat ++ toBytes 4 (b.csw.pack n).toNat ++ toBytes 4 b.fcsw.pack.toNat ++ toBytes 4 b.dsticky.toNat ++ toBytes 4 b.dscale.toNat ++
      toBytes 8 b.tpc.toNat ++ toBytes 4 (b.tcsw.pack b.tcswBank.toNat).toNat ++ toBytes 4 b.tcause.toNat ++ toBytes 8 b.taddr.toNat ++
      toBytes 8 (rstkWord b 0) ++ toBytes 8 (rstkWord b 4) ++ toBytes 8 (b.rsD.toNat * 16 + b.rsP.toNat) ++
      toBytes 8 b.cont0.toNat ++ toBytes 8 b.cont1.toNat ++ toBytes 8 b.cont2.toNat ++ toBytes 8 b.cont3.toNat

/-- A bank with a group filled from bytes; its BANK fields become its own number n (R135). -/
def Bank.fillGroup (b : Bank) (n g : Nat) (bs : List Byte) : Bank :=
  if g < 4 then { b with g := (List.range 8).foldl (fun m i => SMap.put m (8 * g + i) (BitVec.ofNat 64 (beAt bs (8 * i) 8))) b.g }
  else if g = 5 then { b with latch := putLatch [] 0 ((List.range 16).map (fun i => BitVec.ofNat 64 (beAt bs (8 * i) 8))) }
  else
    { b with
        pc := BitVec.ofNat 16 (beAt bs 0 8), csw := CSW.unpack (BitVec.ofNat 32 (beAt bs 8 4)), fcsw := FCSW.unpack (BitVec.ofNat 32 (beAt bs 12 4))
        dsticky := BitVec.ofNat 3 (beAt bs 16 4), dscale := BitVec.ofNat 5 (beAt bs 20 4), tpc := BitVec.ofNat 16 (beAt bs 24 8)
        tcsw := CSW.unpack (BitVec.ofNat 32 (beAt bs 32 4)), tcswBank := BitVec.ofNat 4 n, tcause := BitVec.ofNat 32 (beAt bs 36 4)
        taddr := BitVec.ofNat 64 (beAt bs 40 8), rstk := putRstk (putRstk [] 0 (beAt bs 48 8)) 4 (beAt bs 56 8)
        rsD := BitVec.ofNat 4 (beAt bs 64 8 / 16), rsP := BitVec.ofNat 3 (beAt bs 64 8), cont0 := BitVec.ofNat 64 (beAt bs 72 8)
        cont1 := BitVec.ofNat 64 (beAt bs 80 8), cont2 := BitVec.ofNat 64 (beAt bs 88 8), cont3 := BitVec.ofNat 64 (beAt bs 96 8) }

/-- A save-area access of core c: at the frond store's gate alone (R134). -/
def Dev.saveCheck (d : Dev) (c a : Nat) (acc : Acc) : Dev × Bool :=
  match d.checkPart ⟨c, .core, 0, true⟩ false (.frond (frondOf c)) a acc with
  | (d1, none) => (d1.markKey a acc, true)
  | (d1, some _) => (d1, false)

/-- One group of bank b spilled, with its VALID bit and the context in SAVEHDR, and the reserved bytes before it 0 (R135). -/
def Dev.spillGroup (d : Dev) (c b g : Nat) : Dev × GroupEnd :=
  let k := (d.core c).bank b
  let base := k.bsave.toNat
  let a := base + (groupSpan g).1
  match d.saveCheck c a .write with
  | (d1, false) => (d1, .denied a)
  | (d1, true) =>
    let t := Tier.frond (frondOf c)
    let v := (d1.byte (base + 0x1FF)).toNat % 64
    let hdr := toBytes 2 k.ctx.toNat ++ zeros 5 ++ toBytes 1 (v ||| 2 ^ g)
    let d2 := (d1.store t c a (k.groupBytes b g)).store t c (base + 0x1E8) (zeros 16 ++ hdr)
    (d2.modCore c (fun x => x.setBank b { x.bank b with dirty := (x.bank b).dirty &&& ~~~(BitVec.ofNat 5 (2 ^ g)) }), .ok)

/-- The bank number under which a fill of bank v is held until it is whole: a fill of the current bank leaves that bank as it is until
then (R136). -/
def Core.fillSlot (x : Core) (v : Nat) : Nat := if v = x.cur then 9 else v

/-- One group of bank v, held under `w`, filled from a save area. -/
def Dev.fillOne (d : Dev) (c v w base g : Nat) : Dev × GroupEnd :=
  let (o, n) := groupSpan g
  match d.saveCheck c (base + o) .read with
  | (d1, false) => (d1, .denied (base + o))
  | (d1, true) =>
    match d1.eccRead (.frond (frondOf c)) (wordsOf (base + o) n) with
    | (d2, some u) => (d2.eccUncorr (.frond (frondOf c)) 0 c u, .uncorr)
    | (d2, none) => (d2.modCore c (fun x => x.setBank w ((x.bank w).fillGroup v g (d2.bytes (base + o) n))), .ok)

/-- How the sequence ends: the bank is ready; an interrupt broke it; a bank save fault with SUB, bank, group and address; an
uncorrectable word. -/
inductive OverEnd where
  | done
  | broken
  | fault (sub b g addr : Nat)
  | uncorr
  deriving DecidableEq, Repr

/-- Whether the sequence is broken after `k` group transfers: an interrupt is pending there, and the sender says that it
became so by then. -/
def brokenAt (c : Nat) (stop : Option Nat) (k : Nat) (d : Dev) : Bool :=
  (asyncDue d c).isSome && (match stop with
    | none => true
    | some n => n ≤ k)

/-- Groups transferred in turn; `k` have been before; `brk` tells whether the sequence is broken after that many. -/
def Dev.moveGroups (sub c b : Nat) (brk : Nat → Dev → Bool) (move : Dev → Nat → Dev × GroupEnd) : List Nat → Nat → Dev → Dev × OverEnd × Nat
  | [], k, d => (d, .done, k)
  | g :: t, k, d =>
    let cost := if g = 5 then 18 else 9
    match move (accountCore c (d.modCore c (fun x => { x with spent := x.spent + cost }))) g with
    | (d1, .denied a) => (d1, .fault sub b g a, k)
    | (d1, .uncorr) => (d1, .uncorr, k)
    | (d1, .ok) => if brk (k + 1) d1 then (d1, .broken, k + 1) else Dev.moveGroups sub c b brk move t (k + 1) d1

/-- The bank that the sequence takes (R134): the lowest empty one, or the oldest that is not current. -/
def Core.target (x : Core) : Nat :=
  match (List.range 8).find? (fun b => !(x.bank b).res) with
  | some b => b
  | none => ((List.range 8).filter (fun b => b != x.cur)).foldl (fun m b => if (x.bank b).age.toNat > (x.bank m).age.toNat || m == x.cur then b else m) x.cur

/-- Groups that a spill of a bank transfers: the dirty ones, and the latches when held. -/
def Bank.spillGroups (b : Bank) : List Nat := ((List.range 5).filter (fun g => b.dirty.getLsbD g)) ++ (if b.latchHeld then [5] else [])

/-- A cost with the cycles counted. -/
def spend (c n : Nat) (d : Dev) : Dev := accountCore c (d.modCore c (fun x => { x with spent := x.spent + n }))

/-- Bank v of core c, held under `w`, emptied for a fill from the context's save area: every group zero. -/
def Core.clearBank (x : Core) (v w q base : Nat) : Core :=
  x.setBank w { Bank.atReset with csw := CSW.unpack 0, tcsw := CSW.unpack 0, tcswBank := BitVec.ofNat 4 v, ctx := BitVec.ofNat 16 q, age := (x.bank v).age
                                  bsave := BitVec.ofNat 40 base }

/-- A fill's slot beside the banks given up. -/
def Core.dropSlot (x : Core) : Core := { x with banks := SMap.drop x.banks 9 }

/-- The fill of bank v of core c with queue q's context, `k` groups having been moved before (R135, R137). DESIGN CHOICE (log entry 72): a
SAVEHDR that is denied, or names another context, is reported as group 0 at the address of SAVEHDR. -/
def Dev.fillBank (d : Dev) (c v q base : Nat) (brk : Nat → Dev → Bool) (k : Nat) : Dev × OverEnd :=
  let d1 := spend c 6 d
  let w := (d.core c).fillSlot v
  match d1.saveCheck c (base + 0x1F8) .read with
  | (d2, false) => (d2, .fault 2 v 0 (base + 0x1F8))
  | (d2, true) =>
    match d2.eccRead (.frond (frondOf c)) [base + 0x1F8] with
    | (d3, some u) => (d3.eccUncorr (.frond (frondOf c)) 0 c u, .uncorr)
    | (d3, none) =>
      let hdr := beAt (d3.bytes (base + 0x1F8) 8) 0 8
      if hdr / 2 ^ 48 ≠ q then (d3, .fault 3 v 0 (base + 0x1F8))
      else if brk k d3 then (d3, .broken)
      else
        let gs := (List.range 6).filter (fun g => hdr.testBit g)
        let (d4, e, _) := Dev.moveGroups 2 c v brk (fun y g => y.fillOne c v w base g) gs k (d3.modCore c (fun x => x.clearBank v w q base))
        match e with
        | .done => (d4.modCore c (fun x => (x.setBank v { x.bank w with res := true, dirty := 0 }).dropSlot), .done)
        | e => (d4.modCore c Core.dropSlot, e)

/-- The bank overflow sequence of core c for queue q's context with this save area: the bank it ends in. -/
def Dev.overflow (d : Dev) (c q base : Nat) (brk : Nat → Dev → Bool) : Dev × OverEnd × Nat :=
  let x := d.core c
  let v := x.target
  if !(x.bank v).res then
    let (d1, e) := d.fillBank c v q base brk 0
    (d1, e, v)
  else
    let d1 := spend c 6 d
    if brk 0 d1 then (d1, .broken, v)
    else
      match Dev.moveGroups 1 c v brk (fun y g => y.spillGroup c v g) (x.bank v).spillGroups 0 d1 with
      | (d2, .done, k) =>
        let (d3, e) := (d2.modCore c (fun y => y.setBank v { y.bank v with res := false })).fillBank c v q base brk k
        (d3, e, v)
      | (d2, e, _) => (d2, e, v)

/-- The lowest rank that no resident bank but v holds. -/
def Core.freeAge (x : Core) (v : Nat) : Nat :=
  ((List.range 8).find? (fun a => (List.range 8).all (fun b => b == v || !(x.bank b).res || (x.bank b).age.toNat != a))).getD 7

/-- Ages after a dispatch into bank v (05 BSTAT.AGE): v the most recent; the banks dispatched since v was, or since the rank that v's new
context takes was given up, move on by one, so that the resident banks' ranks stay distinct and in order. -/
def Core.touchAge (x : Core) (v : Nat) (wasRes : Bool) : Core :=
  let a := if wasRes then (x.bank v).age.toNat else x.freeAge v
  let y := (List.range 8).foldl (fun z b =>
    let k := z.bank b
    if b != v && k.res && k.age.toNat < a then z.setBank b { k with age := BitVec.ofNat 3 (k.age.toNat + 1) } else z) x
  y.setBank v { y.bank v with age := 0 }

/-- Bank v of core c made current for item n (R204, 05 R141): the pending sync-class writes applied to the context that has been current,
PC at the entry, CONT[0] and RESUME cleared, BUDGET loaded. Where the fill was of the current bank, the SYNC came before it. -/
def startItem (c v n : Nat) (x : Item) (wasRes : Bool) (d : Dev) : Dev :=
  let d1 := if (d.core c).cur = v && !wasRes then d else syncCore c d
  let d2 := d1.modCore c (fun y =>
    let z := { y.makeLoad.touchAge v wasRes with cur := v }
    let w := z.ctl (fun b => { b with pc := BitVec.ofNat 16 x.entry, cont0 := 0, csw := { b.csw with resume := false } })
    { w with budget := BitVec.ofNat 32 x.ebudget, onGrace := false, pendOverrun := false, item := some n, run := .running, ctxCc := 0
             flight := none })
  refetch c (d2.modItem n (fun y => { y with phase := .running }))

/-- The SYNC of a GETW that fills the current bank, before the fill (05 R141). -/
def syncBefore (c : Nat) (d : Dev) : Dev := if (d.core c).target = (d.core c).cur then syncCore c (d.modCore c Core.makeLoad) else d

/-- The hand-over of the next item to core c as far as its bank overflow sequence (R203, R204, R134): what it comes to, with the bank. -/
inductive HandEnd where
  /-- no item -/
  | none
  /-- the item descriptor could not be written -/
  | failed
  /-- the context is resident in this bank -/
  | resident (n : Nat) (x : Item) (b : Nat)
  /-- the overflow sequence, with its bank -/
  | over (n : Nat) (x : Item) (e : OverEnd) (v : Nat)
  /-- a microword of a patched sequence has ended it in a trap or a machine check -/
  | ended
  deriving DecidableEq, Repr

/-- The hand-over; `brk` breaks the overflow sequence, which its microwords take the cycles of where a match register redirects one of them (07
R170, log entry 60). A patched GETW has taken its cycles before. -/
def Dev.handOver (d : Dev) (c : Nat) (brk : Nat → Dev → Bool) : Dev × HandEnd :=
  match d.nextFor c with
  | (d1, none) => (d1, .none)
  | (d1, some (n, x)) =>
    match d1.fabWrite gratReq (workBase c + 0x3_FFC0) (itemWords x) with
    | (d2, some _) => (d2.failItem n 1, .failed)
    | (d2, none) =>
      let d3 := if (d2.core c).patched .getw then d2 else spend c 6 d2
      match (d3.core c).bankOf x.q with
      | some b => (d3, .resident n x b)
      | none =>
        let fill (y : Dev) : Dev × HandEnd :=
          let (d4, e, v) := y.overflow c x.q (frondBase (frondOf c) + slotOff x.frame) brk
          (d4, .over n x e v)
        let d4 := syncBefore c d3
        if !(d4.core c).overflowPatched then fill d4
        else match seqWords c Config.romOverflow none d4 with
          | (z, true) =>
            let (y, e) := fill z
            (unpaid c y, e)
          | (z, false) => (z, .ended)

/-- An item handed to core c and dispatched (R203, R204, R134 to R137). -/
def Dev.dispatch (d : Dev) (c : Nat) (stop : Option Nat) : Dev :=
  if !(d.clocked c && (d.core c).pool && (d.core c).run == .inGetw) then d
  else if stop.isNone && (asyncDue d c).isSome then takeDue c ((asyncDue d c).getD 0) d
  else
    match d.handOver c (brokenAt c stop) with
    | (d1, .none) | (d1, .failed) | (d1, .ended) => d1
    | (d1, .resident n x b) => startItem c b n x true d1
    | (d1, .over n x .done v) => startItem c v n x false d1
    | (d1, .over _ _ .broken _) =>
      (match asyncDue d1 c with
        | some code => enterAsync c code d1
        | none => d1)
    | (d1, .over _ _ (.fault sub b g a) _) => enterBy c 15 (trapEntry c 15 0 sub (b + 16 * g) (physTaddr a)) d1
    | (d1, .over _ _ .uncorr _) => stopCore c 0x11 d1

/-! ### Events of a core -/

/-- Whether core c can take an asynchronous trap: it runs, or waits in WAIT or GETW. -/
def Dev.takesTraps (d : Dev) (c : Nat) : Bool :=
  d.clocked c && ((d.core c).run == .running || (d.core c).run == .inWait || (d.core c).run == .inGetw)

/-- An asynchronous trap taken when one is due (05 R122, R127, R128). -/
def Dev.takeAny (d : Dev) (c : Nat) : Dev :=
  if !d.takesTraps c then d
  else match asyncDue d c with
    | some code => takeDue c code d
    | none => d

/-- `n` cycles pass at core c while it waits in WAIT or GETW: BUDGET does not count them, and the sequencer watchdog holds its value. -/
def pass (c n : Nat) (d : Dev) : Dev :=
  d.modCore c (fun x => { ({ x with spent := n, unbilled := n } : Core).account with wdog := x.wdog, wdogHi := x.wdogHi })

/-- CTIMER of core c reaches 0 (05 R127): in WAIT and GETW its count passes; a core that runs spends its cycles in its instructions alone
(06 R153), whose end finds the timer run out, so that here only the trap that is due is taken. -/
def Dev.timerOut (d : Dev) (c : Nat) : Dev :=
  let x := d.core c
  let n := x.ctimer.toNat
  if !d.clocked c then d
  else if n = 0 || !(x.run == .inWait || x.run == .inGetw) then d.takeAny c
  else (pass c n d).takeAny c

/-- BUDGET of core c has reached 0 (08 R205): it counts in the core's instructions alone (06 R153), whose end makes the overrun pending
and reloads the grace; here its trap is taken. -/
def Dev.budgetOut (d : Dev) (c : Nat) : Dev := if !(d.core c).pendOverrun then d else d.takeAny c

/-- The grace of core c reaches 0 (08 R205). -/
def Dev.graceEnds (d : Dev) (c : Nat) : Dev := if d.clocked c && (d.core c).onGrace then graceOut c d else d

/-- The sequencer watchdog of core c reaches 4,096 (07 R178): the sequencer has run on in one run until then. It does not count in WAIT
and GETW. -/
def Dev.watchdogOut (d : Dev) (c : Nat) : Dev :=
  if !d.executes c then d
  else archCheck c 6 0 (d.modCore c (fun x => { x.microIdle with flight := none, spent := 4096 - x.wdog, unbilled := 0 }))

/-- A machine check with a cause outside the architecture (07 R172), with the work in hand abandoned; none when the cause names no
fault. A micro-address or a word that the cause leaves out is a free value. -/
def Dev.checkCause (d : Dev) (c : Nat) (cause : MckCause) : Option Dev :=
  let d1 := d.modCore c (fun x => { x.microIdle with flight := none })
  let (v, d2) := d1.drawFree
  match cause with
  | .microword u w =>
    if u.toNat ≥ 0x2200 then none
    else if microParity w.toNat ≠ fld w 32 4 then some (machineCheck c (if u.toNat < 0x2000 then 3 else 4) 0 0 u w d1)
    else if illegalMicro w then some (machineCheck c 7 0 0 u w d1)
    else none
  | .matchParity n m =>
    if matchRight m then none
    else
      let u := v.toNat % 0x2000
      let d3 := d2.modCore c (fun x => { x with matchReg := SMap.put x.matchReg n.val m })
      some (machineCheck c 5 ((d3.core c).matchFail.getD n.val) 0 (placeRead d3 c u) (wordRead d3 c u) d3)
  | .badAddress u => if u.toNat < 0x2200 then none else some (machineCheck c 7 0 0 u (BitVec.ofNat 36 v.toNat) d2)
  | .stackMisuse u => if u.toNat ≥ 0x2200 then none else some (machineCheck c 7 0 0 (placeRead d c u.toNat) (wordRead d c u.toNat) d1)

/-- A machine check of core c (07 R172 to R174): of the instruction it runs, or, where it waits in GETW and an item is handed to it, of
the bank overflow sequence after a free number of group transfers, which leaves what an abandoned dispatch leaves (05 R136). -/
def Dev.microCheck (d : Dev) (c : Nat) (cause : MckCause) : Dev :=
  if d.executes c then (d.checkCause c cause).getD d
  else if !(d.clocked c && (d.core c).pool && (d.core c).run == .inGetw) then d
  else
    let (v, d1) := d.drawFree
    match d1.handOver c (fun k _ => decide (v.toNat % 13 ≤ k)) with
    | (d2, .over _ _ .broken _) => (d2.checkCause c cause).getD d
    | _ => d

/-- The prefetch walk of core c completes (10 R271): it fills a block register and raises nothing. -/
def Dev.prefetchDone (d : Dev) (c : Nat) : Dev :=
  let x := d.core c
  match x.prefetch with
  | none => d
  | some va =>
    let d1 := d.modCore c (fun y => { y with prefetch := none })
    if !d.clocked c || (x.brHit va.toNat).isSome then d1
    else match (walk c va.toNat false).run d1 with
      | .ok _ y => y
      | .error _ y => y

/-- The context on core c runs past its watchdog (13 R363 level 2). -/
def Dev.ctxWatchdog (d : Dev) (c : Nat) : Dev :=
  if d.clocked c && (d.core c).pool && (d.core c).run != .inGetw then d.stepCore c 2 else d

/-- Core c misses its heartbeat (13 R363 level 3); one that has just been returned escalates to the step above its unit's (R365, R366). -/
def Dev.heartbeatOut (d : Dev) (c : Nat) : Dev :=
  let x := d.core c
  if !d.clocked c || !x.pool || x.run == .inGetw || x.item.isSome then d
  else if x.returning then d.unitFailed c 3
  else d.stepCore c 3

end Sys2Proof.Machine
end

