-- ==== Sys2Proof/Machine/Patch.lean ====
section
/-!
DEFINITION. The patch loader (07 R179 to R186): the checks of Table 7.9 on an image, and the commit.
-/
namespace Sys2Proof.Machine

/-- Key of a UC_BCAST register. -/
def ucKey (off : Nat) : Nat := rk .ucBcast 0 off

/-- The loader as a master: class DMA, supervisor, key 0 (10 Table 10.1). -/
def loaderReq : Req := ⟨0x100, .dma, 0, true⟩

/-- Address of the image. -/
def Dev.ucImg (d : Dev) : Nat := (d.reg (ucKey 0x108)).toNat + d.rf (ucKey 0x10C) 0 8 * 2 ^ 32

/-- Length of the image. -/
def Dev.ucLen (d : Dev) : Nat := d.rf (ucKey 0x110) 0 16

/-- Whether a core is held (13 Table 13.2): in STANDBY every core is, and in CROZIER every one but the boot core, unless it has stopped (07
R175); in SAFE none is; elsewhere a core under hold. `boot`: CORE[0] counts as held. -/
def Dev.coreHeld (d : Dev) (boot : Bool) (c : Nat) : Bool :=
  (boot && c == 0) || (match d.baseMode with
    | .datum | .safe => false
    | .standby => (d.core c).run != .stopped
    | .crozier => (d.core c).run == .held || (c != 0 && (d.core c).run != .stopped)
    | .run | .degraded | .drain | .survey => (d.core c).run == .held)

/-- Whether a core is held or stopped: in SAFE every core is stopped (13 Table 13.2). -/
def Dev.coreStill (d : Dev) (c : Nat) : Bool := d.coreHeld false c || (d.core c).run == .stopped || d.baseMode == .safe

/-- A 32-bit word of a payload. -/
def be32 (bs : List Byte) (i : Nat) : W32 := BitVec.ofNat 32 (beAt bs (4 * i) 4)

/-- Match entries of a payload. -/
def entriesOf (pl : List Byte) (m : Nat) : List W32 := (List.range m).map (be32 pl)

/-- Check 13: EN 1, bits 8:0 zero, TARGET below W, no MATCH twice. -/
def entriesOk (es : List W32) (w : Nat) : Bool :=
  es.all (fun e => bit e 31 && fld e 0 9 == 0 && decide (fld e 9 9 < w)) && (es.map (fun e => fld e 18 13)).Nodup

/-- Checks 3 to 7 of Table 7.9, on the header. -/
def headerStatus (im : List Byte) : Option Nat :=
  let m := beAt im 0x11 1
  let w := beAt im 0x12 2
  let n := beAt im 0x14 4
  if beAt im 0 4 ≠ 0x414B5054 || beAt im 4 2 ≠ 1 || beAt im 6 2 ≠ 0x60 || beAt im 0x24 4 ≠ 0 || beAt im 0x48 24 ≠ 0 then some 0x01
  else if beAt im 8 2 ≠ 3 then some 0x02
  else if beAt im 0xC 1 ≠ Config.stepMajor.toNat || beAt im 0xD 1 ≠ Config.stepMinor.toNat then some 0x04
  else if beAt im 0xA 2 ≠ Config.ucRev.toNat then some 0x05
  else if beAt im 0xE 2 = 0 || m > 32 || w > 512 || n ≠ 4 * m + 4 * w || im.length ≠ 0x1F40 + n then some 0x02
  else none

/-- Checks 8 to 13 of Table 7.9: the patch, and its measurement (R186), or the status on failure. -/
def bodyStatus (rollback : Nat) (im : List Byte) : Except Nat (Patch × List Byte) :=
  let m := beAt im 0x11 1
  let w := beAt im 0x12 2
  let n := beAt im 0x14 4
  let hdr := slice im 0 0x60
  if beAt im 0x10 1 < rollback then .error 0x06
  else if sha256 (slice im (0x70 + n) 32) ≠ toBytes 32 Config.patchPkh.toNat then .error 0x07
  else if !slhVerify (slice im (0x70 + n) 32) (slice im 0 (0x70 + n)) (slice im (0x90 + n) 7856) then .error 0x08
  else match gcmOpen (toBytes 32 Config.patchKey.toNat) (slice im 0x18 12) hdr (slice im 0x60 n) (slice im (0x60 + n) 16) with
    | none => .error 0x09
    | some pl =>
      if sha256 pl ≠ slice im 0x28 32 then .error 0x0A
      else if !entriesOk (entriesOf pl m) w then .error 0x03
      else .ok ({ entries := entriesOf pl m, words := (List.range w).map (fun i => microword (beAt pl (4 * (m + i)) 4)), level := beAt im 0xE 2 },
                sha256 (hdr ++ pl))

/-- The image read by the loader: Table 7.9 checks 1 and 2, and a read that every check lets pass. DESIGN CHOICE (log entry 72): a read that is
denied, or meets an uncorrectable word, ends the load as BAD_ADDR. -/
def Dev.readImage (d : Dev) (boot : Bool) : Dev × Except Nat (List Byte) :=
  let a := d.ucImg
  let n := d.ucLen
  let inStore := match tierOf a, tierOf (a + n - 1) with
    | some (.thallus _), some (.thallus _) => true
    | some .deep, some .deep => true
    | _, _ => false
  if !(List.range 256).all (d.coreHeld boot) then (d, .error 0x0B)
  else if n < 0x60 || !inStore || (d.rangeFault a n).isSome then (d, .error 0x0C)
  else match d.fabRead loaderReq a n with
    | (d1, .ok im) => (d1, .ok im)
    | (d1, .error _) => (d1, .error 0x0C)

/-- A load that ends with a status; BUSY clears. -/
def Dev.endLoad (d : Dev) (st : Nat) : Dev := ((d.setRf (ucKey 0x104) 31 1 0).setRf (ucKey 0x104) 24 4 0).setRf (ucKey 0x104) 0 8 st

/-- A load started (R182, R184): nothing while the loader is busy; one that fails changes only the status; one that passes every
check goes on to its commit. -/
def Dev.startLoad (d : Dev) (rollback : Nat) (boot : Bool) : Dev :=
  if d.rbit (ucKey 0x104) 31 then d
  else match d.readImage boot with
    | (d1, .error st) => d1.endLoad st
    | (d1, .ok im) =>
      match headerStatus im with
      | some st => d1.endLoad st
      | none =>
        match bodyStatus rollback im with
        | .error st => d1.endLoad st
        | .ok l => { (d1.setRf (ucKey 0x104) 31 1 1).setRf (ucKey 0x104) 24 4 4 with load := some l }

/-- Every held core's control store filled from the master copy (R171). -/
def Dev.fillCores (d : Dev) (boot : Bool) (p : Patch) : Dev :=
  (List.range 256).foldl (fun y c => if y.coreHeld boot c then y.modCore c (fun x => x.fillPatch p) else y) d

/-- The commit of the load in progress (R183, R186); `boot`: CORE[0] is held for it. -/
def Dev.commitLoad (d : Dev) (boot : Bool) : Dev :=
  match d.load with
  | none => d
  | some (p, meas) =>
    let d1 := ({ d with patch := some p, load := none }).fillCores boot p
    let d2 := (d1.setReg (ucKey 0x114) (BitVec.ofNat 32 (2 ^ 31 + p.level))).setRegs (ucKey 0x120) ((List.range 8).map (be32 meas))
    d2.endLoad 0

end Sys2Proof.Machine
end

