-- ==== Sys2Proof/Machine/Resets.lean ====
section
/-!
DEFINITION. The resets of 13 Table 13.5 above a thallus: power-on, cold and device warm; the entry into DATUM (R346) and the climb from it
to CROZIER (R353).
-/
namespace Sys2Proof.Machine

/-! ### What a reset keeps -/

/-- Registers whose key passes a test keep their values, in both copies; the others take their reset values. -/
def Dev.keepRegs (d : Dev) (p : Nat → Bool) : SMap W32 := SMap.keep p d.regs

/-- Registers of page DATUM, and CAIRN_MCOUNT: the Datum domain's (R343, 14 R383, 15). -/
def inDatum (k : Nat) : Bool := k / 4096 == PageT.first .datum || k == rk .cairn 0 0x108 || k == rk .cairn 0 0x10C

/-- Registers that a device warm reset keeps beside those: DS_CTL, DS_STS, DS_TEMP, and page HEALTH's record log. -/
def keptByWarm (k : Nat) : Bool :=
  inDatum k || (k / 4096 == PageT.first .dstore && 0x110 ≤ k % 4096) || (k / 4096 == PageT.first .health && 0x200 ≤ k % 4096)

/-- The device after a cold reset, or after its entry into DATUM: nothing is left outside the Datum domain. -/
def Dev.inDatumNow (d : Dev) : Dev :=
  { Dev.reset with
      mer := d.mer, regs := SMap.put (d.keepRegs inDatum) (rk .mode 0 0x100) 0, civFrac := d.civFrac
      board := { d.board with ppsEnd := 0, ppsAt := none, boundary := [], jtag := 1, i2c := 0, svNext := 8 }
      boot := { Dev.reset.boot with epochDue := d.boot.epochDue }, free := d.free, out := d.out }

/-- Power-on reset: everything but the fuses, with Meridian 0; `aon`: VDD_AON is present. -/
def Dev.powerOn (d : Dev) (aon : Bool) : Dev :=
  { Dev.reset with regs := SMap.put [] (rk .mode 0 0x100) 0, board := { Board.atPowerOn with aon := aon }, free := d.free, out := d.out }

/-- Cold reset (R353, R356): DATUM, and the climb follows when the pins allow. -/
def Dev.coldReset (d : Dev) : Dev :=
  let d1 := d.inDatumNow
  { d1 with board := { d1.board with climb := true, waiting := false } }

/-! ### The climb to CROZIER (R353, R346) -/

/-- WAKE_STS. -/
def wakeSts : Nat := rk .datum 0 0x1D4

/-- RAIL_STS. -/
def railSts : Nat := rk .datum 0 0x1E0

/-- Steps 2 to 4 of Table 13.4 begun: PLL locked, CROZIER, deep-store training under way; the wake's source and index recorded. -/
def Dev.toCrozier (d : Dev) (cause src idx : Nat) : Dev :=
  let d1 := { d with board := { d.board with climb := false, waiting := false }, boot := { d.boot with ready := true } }
  let d2 := (d1.setRf wakeSts 8 4 src).setRf wakeSts 0 3 idx
  let d3 := (d2.setRf (rk .clocks 0 0x100) 31 1 1).setRf dsSts 30 1 1
  d3.toMode .crozier cause Config.otherCause.toNat

/-- Whether every monitored supply is in range (15 R396). -/
def Dev.railsOk (d : Dev) : Bool := d.rf railSts 0 7 == 127

/-- Whether VDD_IO feeds the balls (15 R398, R399). -/
def Dev.ioOn (d : Dev) : Bool := d.board.aon && d.rbit railSts 6

/-- Whether step 2 of Table 13.4 may begin: the clock, both pins and every supply, and no TESTMODE (15 R392, R396). -/
def Dev.mayClimb (d : Dev) : Bool :=
  d.datumRuns && d.mode = .datum && d.board.pwrok && d.board.porst && !d.board.test && d.railsOk

/-- The climb, as soon as step 2 may begin: after a wake that waits for PWROK, or where PORST_N has been low in DATUM; SRC tells a
power-on from a cold reset. -/
def Dev.tryClimb (d : Dev) : Dev :=
  if !d.mayClimb then d
  else if d.board.waiting then d.toCrozier 7 (d.rf wakeSts 8 4) (d.rf wakeSts 0 3)
  else if d.board.climb then d.toCrozier 0 (if d.boot.epochDue then 3 else 0) 0
  else d

/-- A wake from DATUM (R346): the climb when PWROK is high, else the power request and the wait. Nothing while the board holds PORST_N
low, which without VDD_IO is not seen (15 R398). -/
def Dev.wake (d : Dev) (src idx : Nat) : Dev :=
  if d.mode ≠ .datum || (d.ioOn && !d.board.porst) || d.board.waiting || d.board.test then d
  else ({ (d.setRf wakeSts 8 4 src).setRf wakeSts 0 3 idx with board := { d.board with waiting := true } }).tryClimb

/-- The monitors' readings taken: RAIL_STS.OK. Without VDD_IO, PWROK is not seen high. -/
def Dev.setRails (d : Dev) (ok : BitVec 7) : Dev :=
  { d.setRf railSts 0 7 ok.toNat with board := { d.board with pwrok := d.board.pwrok && ok.getLsbD 6 } }

/-- PWROK rises, which the board makes with REFCLK running (15 Table 15.8): it ends a wait after a wake, or completes the pins of a
power-up. Without VDD_IO the rise is not seen. -/
def Dev.pwrokRise (d : Dev) (rails : BitVec 7) : Dev :=
  if !d.board.aon then d
  else
    let d1 := d.setRails rails
    if !d1.ioOn then d1 else ({ d1 with board := { d1.board with pwrok := true, refclk := true } }).tryClimb

/-- PWROK does not rise in time after a wake. -/
def Dev.pwrokWaitOver (d : Dev) : Dev :=
  if d.mode = .datum && d.board.waiting then { d.setRf wakeSts 31 1 1 with board := { d.board with waiting := false } } else d

/-- PORST_N rises: the straps and TESTMODE are sampled (15 R392). The board makes it with REFCLK running, and without VDD_IO it is not
seen (15 R398). -/
def Dev.porstRise (d : Dev) (strap : BitVec 3) (test : Bool) : Dev :=
  if !d.ioOn then d
  else
    ({ d.setReg (rk .datum 0 0x1E4) (BitVec.ofNat 32 (2 ^ 31 + strap.toNat)) with
        board := { d.board with porst := true, test := test, refclk := true } }).tryClimb

/-- A pin of the board falls: outside DATUM a cold reset (R353). -/
def Dev.pinFall (d : Dev) (b : Board) : Dev :=
  let d1 := { d with board := b }
  if d.mode = .datum then d1 else d1.coldReset

/-- PORST_N falls; its next rise begins the climb from DATUM, however DATUM was entered (Table 13.1). -/
def Dev.porstFall (d : Dev) : Dev := if d.ioOn then d.pinFall { d.board with porst := false, climb := true } else d

/-- PWROK falls. -/
def Dev.pwrokFall (d : Dev) : Dev := if d.ioOn then d.pinFall { d.board with pwrok := false } else d

/-- The monitors read the supplies of `low` below range (15 R396): outside DATUM with PWROK high, a cold reset with FAULT. In DATUM the
device waits at step 1 until every supply is in range. -/
def Dev.railFault (d : Dev) (low : BitVec 7) : Dev :=
  let d1 := d.setRails (~~~low)
  if !d.board.aon then d
  else if d.mode = .datum then d1.tryClimb
  else if low = 0 || !d.board.pwrok then d1
  else (((d1.coldReset).setRf railSts 31 1 1).setRf railSts 16 7 low.toNat)

/-- REFCLK lost (15 R402): outside DATUM a cold reset with CKLOSS; Meridian stands until it runs again. -/
def Dev.refclkLoss (d : Dev) : Dev :=
  if !d.board.aon then d
  else
    let d1 := if d.mode = .datum then d else d.coldReset.setRf railSts 30 1 1
    { d1 with board := { d1.board with refclk := false } }

/-! ### Device warm reset (R359, R368) -/

/-- A device warm reset asked for: it waits to be made (DEVICE_WARM_RESET). DATUM has none. -/
def Dev.askWarm (d : Dev) (cause : Nat) : Dev := if d.mode = .datum || d.warm.isSome then d else { d with warm := some cause }

/-- TMAX, signed degrees. -/
def Dev.tmax (d : Dev) : Int := (BitVec.ofNat 8 (d.rf (rk .clocks 0 0x108) 16 8)).toInt

/-- Whether TMAX is below TSTEP − HYST. -/
def Dev.cool (d : Dev) : Bool :=
  decide (d.tmax < (d.rf (rk .clocks 0 0x104) 16 8 : Int) - d.rf (rk .clocks 0 0x104) 0 8)

/-- Whether every deep-store domain in use is on. -/
def Dev.dsOn (d : Dev) : Bool := if d.intlv then d.rf pdSts 16 8 == 255 else d.rbit pdSts 8

/-- The state after a device warm reset that `why` made: CROZIER, with the deep store's contents and training, the record log and the Datum domain. -/
def Dev.warmState (d : Dev) (why : Nat) : Dev :=
  let trained := !d.rbit dsSts 30 && d.dsOn && (d.intlv || d.rf dsSts 16 8 == 0)
  let deep (a : Nat) : Bool := decide (a < 0x4_0000_0000)
  let d1 := { Dev.reset with
      mer := d.mer, regs := d.keepRegs keptByWarm, mem := d.mem.filter (fun e => deep e.1), uncorr := d.uncorr.filter deep, corr := d.corr.filter deep
      hist := d.hist.filter (fun e => e.1 == 6), hseq := d.hseq, civFrac := d.civFrac, board := d.board
      boot := { Dev.reset.boot with epochDue := d.boot.epochDue, ready := true }, mode := d.mode, free := d.free, out := d.out }
  let d2 := (d1.setRf dsSts 31 1 (b2n trained)).setRf dsSts 30 1 (b2n (!trained))
  (d2.setRf (rk .clocks 0 0x100) 31 1 1).toMode .crozier 6 why

/-- The pending device warm reset made (R359): after a thermal trip it waits until the device is cool (R352). -/
def Dev.warmReset (d : Dev) : Dev :=
  match d.warm with
  | none => d
  | some cause =>
    if d.mode = .datum || (d.tripped && !d.cool) then d
    else
      let d1 := if d.tripped then d else d.failAll
      ((d1.health 0x06 cause 0 3 0).sendLeave).warmState cause

end Sys2Proof.Machine
end

