-- ==== Sys2Proof/Machine/Clocks.lean ====
section
/-!
DEFINITION. Page DATUM's time: Meridian loads, civil time and PPS, alarms and wake comparators (13 R343 to R346); the junction sensors
(R348, R350, R352).
-/
namespace Sys2Proof.Machine

/-- Two registers set to a 64-bit value, low word first. -/
def Dev.setReg64 (d : Dev) (k v : Nat) : Dev := (d.setReg k (BitVec.ofNat 32 v)).setReg (k + 4) (BitVec.ofNat 32 (v / 2 ^ 32))

/-! ### Meridian and civil time (R343, R344) -/

/-- MER_CTL.LOAD. -/
def Dev.loadMeridian (d : Dev) : Dev :=
  let v := d.reg64 (datKey 0x108)
  if (d.mode = .crozier || d.mode = .standby) && d.mer ≤ v then { d with mer := v }.ppsSince d else d.cfgErr (PageT.first .datum)

/-- A host write of half of CIV_OFF: the fraction bits are cleared. -/
def Dev.writeCivOff (d : Dev) (hi : Bool) (v : W32) : Dev :=
  { d.setReg (datKey (if hi then 0x118 else 0x114)) v with civFrac := 0 }.ppsSince d

/-- 1,000 fc have passed: CIV_TRIM × 1,000 / 2^32 ns are added to CIV_OFF. -/
def Dev.civTrim (d : Dev) : Dev :=
  if !d.datumRuns then d
  else
    let t : Int := d.civOff * 2 ^ 32 + d.civFrac + (d.reg (datKey 0x11C)).toInt * 1000
    { d.setReg64 (datKey 0x114) (BitVec.ofInt 64 (t / 2 ^ 32)).toNat with civFrac := (t % 2 ^ 32).toNat }.ppsSince d

/-- In the fc in which civil time first reaches a whole second, PPS_OUT rises for WIDTH µs. -/
def Dev.ppsOut (d : Dev) : Dev :=
  let k := datKey 0x128
  if d.datumRuns && d.mode ≠ .datum && d.rbit k 31 && d.board.ppsAt == some d.mer then
    { d with board := { d.board with ppsEnd := d.mer + d.rf k 0 20 * 1000, ppsAt := none } }
  else d

/-- PPS_OUT. -/
def Dev.ppsPin (d : Dev) : Bool := d.mode ≠ .datum && d.rbit (datKey 0x128) 31 && decide (d.mer < d.board.ppsEnd)

/-- An edge of PPS_IN: Meridian captured when the edge has INEDGE's sense. -/
def Dev.ppsIn (d : Dev) (rising : Bool) : Dev :=
  let k := datKey 0x128
  if d.ioOn && d.datumRuns && d.rbit k 30 && (d.rbit k 29 != rising) then d.setReg64 (datKey 0x120) d.mer else d

/-! ### Alarms and wake comparators (R345, R346) -/

/-- Alarm i matches when it is armed and Meridian has reached it. -/
def Dev.alarm (d : Dev) (i : Nat) : Dev :=
  let k := datKey (0x148 + 16 * i)
  if d.datumRuns && d.rbit k 31 && d.reg64 (datKey (0x140 + 16 * i)) ≤ d.mer then
    let d1 := ((d.setRf k 29 1 1).setRf k 31 1 0).raiseIrq (PageT.first .datum) (2 ^ i)
    if d.rbit k 30 then d1.wake 1 i else d1
  else d

/-- Whether an input that has gone from `before` to `level` shows a sense of WAKE_CFG: rising, falling, high, low. -/
def senseOf (sense : Nat) (before level : Bool) : Bool :=
  match sense with
  | 0 => !before && level
  | 1 => before && !level
  | 2 => level
  | _ => !level

/-- Wake comparator j matches when it is enabled, EVT_IN[j] shows its sense and has then held its level for DEB ticks. Without VDD_IO
the pin reads low (15 R398). -/
def Dev.wakePin (d : Dev) (j : Nat) (before level : Bool) (held : Nat) : Dev :=
  let k := datKey (0x1C0 + 4 * j)
  if d.datumRuns && d.rbit k 31 && senseOf (d.rf k 29 2) (d.ioOn && before) (d.ioOn && level) && d.rf k 0 8 ≤ held then
    (d.raiseIrq (PageT.first .datum) (2 ^ (8 + j))).wake 2 j
  else d

/-! ### Temperature (R348, R350, R352) -/

/-- THERM_STS. -/
def thermSts : Nat := rk .clocks 0 0x108

/-- The highest of the sensors, each a signed byte, with its index: the lowest of equal ones. -/
def hottest : List Byte → Nat → Option (Int × Nat)
  | [], _ => none
  | t :: ts, i => match hottest ts (i + 1) with
    | some (m, j) => if m > t.toInt then some (m, j) else some (t.toInt, i)
    | none => some (t.toInt, i)

/-- Since when a condition has stood. -/
def sinceWhen (was : Option Nat) (now : Nat) (c : Bool) : Option Nat := if c then some (was.getD now) else none

/-- A step down requested when TMAX has stood above TSTEP for 1 ms (R348). -/
def Dev.askStepDown (d : Dev) : Dev :=
  let step := d.rf clkSts 0 3
  match d.hotSince with
  | some t =>
    if t + 1_000_000 ≤ d.mer && !d.rbit clkSts 8 && step < d.rf (rk .clocks 0 0x104) 30 2 && d.mode ≠ .safe then
      (d.setRf clkSts 4 3 (step + 1)).setRf clkSts 8 1 1
    else d
  | none => d

/-- A thermal trip (R352): THERMTRIP_N low until a reset, and SAFE. Its comparator stands at 115 °C. -/
def Dev.trip (d : Dev) (temp : Int) : Dev :=
  if d.mode = .datum || temp < 115 then d else ({ d.setRf thermSts 31 1 1 with tripped := true }).enterSafe 4 0x12

/-- The 16 junction sensors read; one at the trip's temperature trips. -/
def Dev.readSensors (d : Dev) (temps : List Byte) : Dev :=
  match hottest (temps.take 16) 0 with
  | none => d
  | some (m, i) =>
    if d.mode = .datum then d
    else
      let k := rk .clocks 0 0x104
      let d1 := ((d.setRf thermSts 16 8 (BitVec.ofInt 8 m).toNat).setRf thermSts 8 4 i)
      let d2 := { d1 with
          hotSince := sinceWhen d.hotSince d.mer (decide (m > d.rf k 16 8))
          coolSince := sinceWhen d.coolSince d.mer (decide (m < (d.rf k 16 8 : Int) - d.rf k 0 8)) }
      d2.askStepDown.trip m

/-- THERM_STS.HOT: TMAX at or above TALERT. -/
def Dev.hot (d : Dev) : Bool := decide (d.tmax ≥ d.rf (rk .clocks 0 0x104) 8 8)

/-- Whether an unconsumed record of the HEALTH log has SEV at or above HEALTH_CFG.ASEV. -/
def Dev.sevAlert (d : Dev) : Bool :=
  let h := d.rf (rk .health 0 0x600) 0 16
  let t := d.rf (rk .health 0 0x604) 0 16
  (List.range ((h + 65536 - t) % 65536)).any (fun i =>
    decide (d.rf (rk .health 0 (0x200 + 32 * ((t + i) % 32) + 4)) 8 8 ≥ d.rf (rk .health 0 0x100) 14 2))

/-- Whether ALERT_N is driven low (R350). -/
def Dev.alertLow (d : Dev) : Bool := d.mode ≠ .datum && (d.hot || d.rbit clkSts 8 || d.sevAlert)

/-- EVT_OUT[i] (R346, R360, 15 Table 15.9): the power request outside DATUM and while it waits there; DRAINED. -/
def Dev.evtOut (d : Dev) (i : Nat) : Bool :=
  let c := datKey 0x1D0
  let m := rk .mode 0 0x108
  d.ioOn && ((d.rbit c 31 && d.rf c 28 2 == i && (d.mode ≠ .datum || d.board.waiting)) ||
    (d.rbit m 30 && d.rf m 28 2 == i && d.mode ≠ .datum && d.rbit (rk .mode 0 0x100) 23))

end Sys2Proof.Machine
end

