-- ==== Sys2Proof/Machine/Modes.lean ====
section
/-!
DEFINITION. The mode transitions (13 R339 to R346): MODE_REQ and ATTN_N, RUN and the waking of the deep store (09 R231, R362), DRAIN
(R360), SURVEY (14 R386, R388), and the deep store's training (09 R227 to R230).
-/
namespace Sys2Proof.Machine

/-- MODE_STS. -/
def modeSts : Nat := rk .mode 0 0x100

/-- DRAINED. -/
def Dev.drained (d : Dev) : Bool := d.rbit modeSts 23

/-- Whether a transition is under way. -/
def Dev.inTransit (d : Dev) : Bool := d.rbit modeSts 20 || d.warm.isSome

/-- A MODE_REQ not permitted (R340). -/
def Dev.refuseMode (d : Dev) : Dev := (d.setRf modeSts 19 1 1).cfgErr (PageT.first .mode)

/-! ### RUN (R231, R362) -/

/-- Whether core c may join the pool: its domain on, its frond not fenced, its control store filled. -/
def Dev.fitForPool (d : Dev) (c : Nat) : Bool :=
  let x := d.core c
  d.thOn (thallusOf c) && !d.rbit (rk .power 0 0x108) (frondOf c) && !x.mck && x.run != .stopped && !x.resetDue && !x.refillDue &&
    (d.patch.isNone || (!x.patchRam.isEmpty && x.patchLevel.toNat == d.ucLevel))

/-- Core c put into the pool at the transition to RUN; a held core is released, its block-register images installed (10 R275). One of a unit
that step 3, 4 or 5 reset is back when it reaches GETW (R366). -/
def Dev.poolCore (d : Dev) (c : Nat) : Dev :=
  if !d.fitForPool c || (d.core c).pool then d
  else
    let back := d.outUnits.any (fun u => unitHas u c)
    if (d.core c).run = .held then (installImages c d).modCore c (fun x => { x.release with returning := back })
    else d.modCore c (fun x => { x with pool := true, returning := back })

/-- The chains that DRAIN closed reopen, if they are still enabled (R362). -/
def Dev.reopen (d : Dev) (c : Nat) : Dev :=
  if (d.chain c).drained then
    let d1 := d.setChain c { d.chain c with drained := false }
    if d1.rbit (chKey c 0) 31 then d1.openChain c else d1
  else d

/-- Whether a layer has failed training while INTLV is 0 (Table 13.1). -/
def Dev.trainBad (d : Dev) : Bool := d.rf dsSts 16 8 ≠ 0 && !d.intlv

/-- The transition from STANDBY to RUN made: the deep store in service, chains reopened, cores in the pool; DEGRADED when a unit is out by
a fault. -/
def Dev.enterRun (d : Dev) : Dev :=
  let d1 := ((d.setRf dsSts 31 1 (b2n d.dsPowered)).setRf modeSts 20 1 0).setRf modeSts 22 2 0
  let d2 := (List.range 64).foldl Dev.reopen { d1 with drain := .none, uk := { d1.uk with left := false } }
  let d3 := ((List.range 256).foldl Dev.poolCore d2).toMode .run 0
  if d3.faultOut then (d3.setRf modeSts 21 1 1).toMode .degraded 2 else d3

/-- MODE_REQ RUN: from STANDBY, refused while a layer has failed training and INTLV is 0 (Table 13.1), at once or when the training under way ends;
from DRAIN before it has closed a chain. -/
def Dev.reqRun (d : Dev) : Dev :=
  if d.inTransit then d.refuseMode
  else match d.mode with
    | .standby =>
      if d.trainBad then d.refuseMode else if d.rbit dsSts 30 then d.setRf modeSts 20 1 1 else d.enterRun
    | .drain => if d.drain = .none then d.toMode (if d.faultOut then .degraded else .run) 0 else d.refuseMode
    | .datum | .crozier | .run | .degraded | .survey | .safe => d.refuseMode

/-! ### STANDBY and DATUM -/

/-- Whether a deep-store domain is asked on and is not yet on (13 R354). -/
def Dev.dsWaits (d : Dev) : Bool :=
  if d.intlv then (List.range 8).any (fun l => !d.rbit (rk .power 0 0x100) (16 + l) && !d.rbit pdSts (16 + l))
  else !d.rbit (rk .power 0 0x100) 8 && !d.rbit pdSts 8

/-- The deep store in self-refresh in STANDBY; the training that a domain coming on has waited for begins (R230). -/
def Dev.enterStandby (d : Dev) (cause : Nat) : Dev :=
  let d1 := d.setRf dsSts 31 1 0
  (if d1.dsWaits then d1.setRf dsSts 30 1 1 else d1).toMode .standby cause

/-- MODE_REQ STANDBY: from DRAIN with DRAINED. -/
def Dev.reqStandby (d : Dev) : Dev :=
  if d.mode = .drain && d.drained && !d.inTransit then d.enterStandby 0 else d.refuseMode

/-- Whether some record of a chain or of the checkpoint ring has not been consumed. -/
def Dev.unconsumed (d : Dev) : Bool :=
  (List.range 64).any (fun c => d.chCons c != d.chWr c) || d.reg (caKey 0x11C) != d.reg (caKey 0x118)

/-- MODE_REQ DATUM (R346). -/
def Dev.reqDatum (d : Dev) (discard : Bool) : Dev :=
  if (d.mode = .standby || (d.mode = .drain && d.drained)) && !d.inTransit && (discard || !d.unconsumed) then
    let d1 := ((d.toMode .datum 0).allDown).inDatumNow
    { d1 with board := { d1.board with climb := false, waiting := false } }
  else d.refuseMode

/-! ### DRAIN (R360, R361) -/

/-- MODE_REQ DRAIN, or ATTN_N. -/
def Dev.reqDrain (d : Dev) (cause : Nat) : Dev :=
  if (d.mode = .run || d.mode = .degraded) && !d.inTransit then d.toMode .drain cause else d.refuseMode

/-- ATTN_N low for 20 ms. -/
def Dev.attn (d : Dev) : Dev :=
  if d.rbit (rk .mode 0 0x108) 31 && (d.mode = .run || d.mode = .degraded) then d.reqDrain 1 else d

/-- Step 1: every chain that is not OFF in the FINAL set, then CLOSING. -/
def Dev.drainChain (d : Dev) (c : Nat) : Dev :=
  if d.chState c = 0 then d else (d.setChain c { d.chain c with want := true, drained := true }).closeChain c

/-- Whether the FINAL set has been made, or none is made. -/
def Dev.finalDone (d : Dev) : Bool :=
  d.ckSize == 0 || (d.cairn.ckpt.isNone && (List.range 64).all (fun c => !(d.chain c).want))

/-- Whether everything that streams has been streamed (step 3). -/
def Dev.streamed (d : Dev) : Bool :=
  (List.range 64).all (fun c => !d.chStream c || d.chCons c == d.chWr c) &&
    (!d.rbit (caKey 0x100) 1 || d.cairn.stream.all (fun r => r.chain.isSome))

/-- Steps 4 to 6: LEAVE, links and ports down, DRAINED. -/
def Dev.endDrain (d : Dev) : Dev :=
  { ((((d.sendLeave).dirDown false).dirDown true).portsDown).setRf modeSts 23 1 1 with drain := .ended }

/-- DRAIN taken on from where it stands. -/
def Dev.goOn (d : Dev) : Dev :=
  if d.mode ≠ .drain then d
  else
    let d1 := match d.drain with
      | .closing =>
        if d.finalDone && (List.range 64).all (fun c => d.chState c == 0) then
          { d with drain := .streaming (d.mer + d.rf (rk .mode 0 0x108) 0 16 * 1_000_000) }
        else d
      | .none | .streaming _ | .ended => d
    match d1.drain with
    | .streaming _ => if d1.streamed then d1.endDrain else d1
    | .none | .closing | .ended => d1

/-- OUTSTANDING is 0 in DRAIN: the chains close and the FINAL set is begun as soon as one is allowed. -/
def Dev.quiesced (d : Dev) : Dev :=
  if d.mode = .drain && d.drain = .none && d.outstanding = 0 then
    let d1 := (List.range 64).foldl Dev.drainChain { d with drain := .closing }
    (d1.startCk true).goOn
  else d

/-- The stream wait runs out. -/
def Dev.streamWaitOver (d : Dev) : Dev :=
  match d.drain with
  | .streaming till => if d.mode = .drain && till ≤ d.mer then (if d.streamed then d else d.setRf modeSts 22 1 1).endDrain else d
  | .none | .closing | .ended => d

/-- A checkpoint set started, the FINAL one in DRAIN. -/
def Dev.ckSet (d : Dev) : Dev :=
  if d.mode = .drain && d.drain = .closing then (d.startCk true).goOn else d.startCk false

/-! ### MODE_REQ (R340) -/

/-- A write of MODE_REQ. -/
def Dev.modeReq (d : Dev) (v : W32) : Dev :=
  if fld v 16 16 ≠ 0x4D4F then d.refuseMode
  else match fld v 0 3 with
    | 0 => d.reqDatum (bit v 4)
    | 2 => d.reqStandby
    | 3 => d.reqRun
    | 5 => d.reqDrain 0
    | _ => d.refuseMode

/-! ### SURVEY (14 R386, R388) -/

/-- SURVEY entered with its rights. -/
def Dev.enterSurvey (d : Dev) (rights : Nat) : Dev := ({ d with survey := some (d.mode, rights) }).toMode .survey 8

/-- The session ends, and the device returns to the mode it was entered from. -/
def Dev.endSurvey (d : Dev) : Dev :=
  match d.survey with
  | none => d
  | some (m, _) => ({ d with survey := none }).toMode m 8

/-! ### The deep store's training (09 R227 to R230) -/

/-- A write of DS_CTL: TRAIN in STANDBY only; INTLV only while READY is 0, any write to it then setting CFGERR (R227). -/
def Dev.writeDsCtl (d : Dev) (v : W32) : Dev :=
  let k := rk .dstore 0 0x110
  let page := PageT.first .dstore
  let d1 := if d.dsReady then d.cfgErr page else d.setRf k 30 1 (b2n (bit v 30))
  if !bit v 31 then d1 else if d1.mode = .standby then d1.setRf dsSts 30 1 1 else d1.cfgErr page

/-- DS_TEMP[l]. -/
def dsTemp (l : Nat) : Nat := rk .dstore 0 (0x120 + 4 * l)

/-- A layer's temperature read (R229, R230): the refresh rate, and in STANDBY a training when it has moved more than 25 °C. -/
def Dev.readLayer (d : Dev) (l : Nat) (temp : Byte) : Dev :=
  if d.mode = .datum then d
  else
    let d1 := d.setRf (dsTemp l) 8 8 temp.toNat
    let d2 := if temp.toInt > 85 then d1.setRf dsSts (8 + l) 1 1 else if temp.toInt < 82 then d1.setRf dsSts (8 + l) 1 0 else d1
    let moved := (temp.toInt - (BitVec.ofNat 8 (d.rf (dsTemp l) 0 8)).toInt).natAbs
    if d2.mode = .standby && moved > 25 then d2.setRf dsSts 30 1 1 else d2

/-- The deep-store domains that PD_CTL asks for come on with their training (13 R354). -/
def Dev.dsDomainsOn (d : Dev) : Dev :=
  let c := rk .power 0 0x100
  let d1 := if d.rbit c 8 then d else d.setRf pdSts 8 1 1
  (List.range 8).foldl (fun y l => if y.rbit c (16 + l) then y else y.setRf pdSts (16 + l) 1 1) d1

/-- Training ends: LFAIL, TTRAIN, READY as the mode gives (R230), and a transition to RUN that waited for it (R231). -/
def Dev.trained (d : Dev) (lfail : BitVec 8) : Dev :=
  if d.mode = .datum || !d.rbit dsSts 30 then d
  else
    let d1 := ((d.setRf dsSts 30 1 0).setRf dsSts 16 8 lfail.toNat).dsDomainsOn
    let d2 := (List.range 8).foldl (fun y l => y.setRf (dsTemp l) 0 8 (y.rf (dsTemp l) 8 8)) d1
    match d2.mode with
    | .crozier | .run | .degraded | .drain => d2.setRf dsSts 31 1 (b2n (!d2.trainBad && d2.dsPowered))
    | .standby => if d2.rbit modeSts 20 then (if d2.trainBad then (d2.setRf modeSts 20 1 0).refuseMode else d2.enterRun) else d2
    | .datum | .survey | .safe => d2

/-- A timing recalibration (R230): it runs in refresh slots and changes nothing. -/
def Dev.recalibrate (d : Dev) : Dev := d

end Sys2Proof.Machine
end

