-- ==== Sys2Proof/Machine/Swap.lean ====
section
/-!
DEFINITION. Shadow sets and the swap (11 R299 to R304): the copy, the checks of the blocks (08 R189, 09 R254, 12 R334), what a swap
opens, closes and places (08 R216 to R218, 09 R253, R254), and the ways a swap is asked for. Migration (08 R218).
-/
namespace Sys2Proof.Machine

/-! ### Keys -/

/-- SWAP_CTL. -/
def swapCtl : Nat := rk .devctl 0 0x108
/-- SWAP_STS. -/
def swapSts : Nat := rk .devctl 0 0x10C

/-- Whether a swap is armed. -/
def Dev.armed (d : Dev) : Bool := d.rbit swapSts 31

/-- SWAP_AT. -/
def Dev.swapAt (d : Dev) : Nat := (d.reg (rk .devctl 0 0x100)).toNat + (d.reg (rk .devctl 0 0x104)).toNat * 2 ^ 32

/-- RWS bits of the register at byte `k` of the page space. -/
def rwsMask (k : Nat) : W32 :=
  match pageOf (k / 4096) with
  | none => 0
  | some (r, _) => match regDefAt r.type (k % 4096) with
    | none => 0
    | some (d, _) => BitVec.ofNat 32 d.rws

/-- A field rejected at a swap (R300): SHADOW_STS.REJ, PAGE_STS.CFGERR, their interrupt bits, and SWAP_STS.REJ. -/
def Dev.swapRej (d : Dev) (page : Nat) : Dev :=
  (((d.setRf (page * 4096 + 0x20) 30 1 1).cfgErr page).raiseIrq page 0x2000_0000).setRf swapSts 28 1 1

/-! ### The checks -/

/-- Every staged RWS field made active (R299). -/
def Dev.copyShadow (d : Dev) : Dev :=
  d.shadow.foldl (fun y e => let m := rwsMask e.1; y.setReg e.1 ((y.reg e.1 &&& ~~~m) ||| (d.shadowOf e.1 &&& m))) { d with shadow := [] }

/-- A register put back to the value it had before the swap; its shadow copy keeps the new one (R300). -/
def Dev.keepOld (d old : Dev) (k page : Nat) : Dev :=
  let new := d.reg k
  { d.setReg k (old.reg k) with shadow := SMap.put d.shadow k new }.swapRej page

/-- GRAT_UCAP's check (08): UMIN above UMAX keeps both. -/
def Dev.checkUcap (d old : Dev) : Dev :=
  let k := grKey 0x104
  if d.rf k 0 8 > d.rf k 8 8 then d.keepOld old k (PageT.first .grat) else d

/-- A change of a ring's base or size while its chain is not OFF is refused (09 R254). -/
def Dev.checkChain (old : Dev) (d : Dev) (c : Nat) : Dev :=
  let keep (y : Dev) (off : Nat) : Dev :=
    if old.chState c != 0 && y.reg (chKey c off) != old.reg (chKey c off) then y.keepOld old (chKey c off) (PageT.first .cairnCh + c / 32) else y
  keep (keep d 4) 8

/-- The checks of Table 8.1 on queue q's active contract. -/
def Dev.contractOk (d : Dev) (q : Nat) : Bool :=
  let room : Int := (d.ctDeadline q : Int) - d.tFix q
  let pay := d.ctPaymax q
  let fr := d.reg (ctKey q 0x14)
  decide (d.ctClass q = 15 ↔ room > 65_280_000) && decide (room ≥ 2000) && decide (d.ctBudget q ≥ 16) &&
    decide (((d.ctBudget q + 416 + 2 * tSt pay : Nat) : Int) * 100 ≤ 2 * (100 - (d.rf (grKey 0x104) 8 8 : Int)) * room) &&
    d.reg (ctKey q 0x10) != 0 && decide (stageOff fr + stageSize fr ≤ 0x20_0000) && decide (slotOff fr + 2048 ≤ 0x20_0000) &&
    decide (pay ≤ stageSize fr) && decide (1 ≤ pay ∧ pay ≤ 9216) && decide (d.ctEgrmax q ≤ 9216) &&
    (!d.ctJen q || d.chState (d.ctChain q) == 1 || d.chState (d.ctChain q) == 2) && d.ctRep q != 3

/-! ### Placement (08 R218) -/

/-- FRFENCE. -/
def frFence : Nat := rk .power 0 0x108

/-- The frond of a home set with the greatest slack; of equal ones the lowest. -/
def Dev.bestFrond (d : Dev) (home : W32) : Nat :=
  (((List.range 32).filter (fun f => bit home f)).foldl (fun (r : Option (Nat × Int)) f =>
    let s := d.minSlack f
    match r with
    | none => some (f, s)
    | some (g, t) => if s > t then some (f, s) else some (g, t)) none).elim 0 (·.1)

/-- The fronds of a home set that a queue may be placed on: those that are not fenced (13 R355), and all of them where every one is. -/
def Dev.homeOpen (d : Dev) (home : W32) : W32 := if home &&& ~~~(d.reg frFence) = 0 then home else home &&& ~~~(d.reg frFence)

/-- One queue after a swap (08 R189, R216, R218): EBUDGET and HWM set, then closed, with CERR when EN is 1 and a check fails, or open on
a frond of its home set. -/
def Dev.swapQueue (old : Dev) (d : Dev) (q : Nat) : Dev :=
  let d0 := (d.setRf (qsKey q 4) 0 24 (d.ctBudget q)).setRf (qsKey q 8) 0 24 0
  if !d.rbit (ctKey q 0) 31 then d0.setRf (qsKey q 0) 31 1 0
  else if !d.contractOk q then d0.setRf (qsKey q 0) 31 1 1
  else if !d.ctEn q then d0.setRf (qsKey q 0) 31 1 0
  else
    let d1 := d0.setRf (qsKey q 0) 31 1 0
    let home := d.reg (ctKey q 0x10)
    let d2 := if old.qOpen.contains q && bit home (d.qFrond q) then d1 else d1.setRf (qsKey q 0) 16 5 (d.bestFrond (d.homeOpen home))
    { d2 with qOpen := d2.qOpen ++ [q] }

/-! ### Chains (09 R253, R254) -/

/-- One chain after a swap: opened, or closed. One that DRAIN closed waits for RUN (13 R362). -/
def Dev.swapChain (old : Dev) (d : Dev) (c : Nat) : Dev :=
  let en := d.rbit (chKey c 0) 31
  let changed := [0, 4, 8].any (fun o => d.reg (chKey c o) != old.reg (chKey c o))
  if en && d.chState c == 0 && changed && !(d.chain c).drained then d.openChain c
  else if !en && old.rbit (chKey c 0) 31 then d.closeChain c
  else d

/-- S of chain c taken (R253): the QDEPTHs of the open queues that journal on it. -/
def Dev.takeSum (d : Dev) (c : Nat) : Dev :=
  let s := ((d.qOpen.filter (fun q => d.ctJen q && d.ctChain q == c)).map d.ctQdepth).sum
  (d.setChain c { d.chain c with qsum := s }).settleChain c

/-! ### Mailboxes (12 R334) and U (08 R217) -/

/-- MBX_Q[m].CERR after a swap. -/
def Dev.swapMbx (d : Dev) (m : Nat) : Dev :=
  let k := rk .mbx 0 (0x100 + 4 * m)
  let q := d.rf k 16 13
  d.setRf k 30 1 (b2n (!d.qOpen.contains q || d.ctEgrmax q > 240))

/-- Frond f's U after a swap: UMAX, or with ADAPT within UMIN to UMAX. -/
def Dev.swapU (d : Dev) (f : Nat) : Dev :=
  let umin := d.rf (grKey 0x104) 0 8
  let umax := d.rf (grKey 0x104) 8 8
  let t := if d.rbit (grKey 0x100) 21 then max umin (min umax (d.uOf f)) else umax
  if t = d.uOf f then { d with uTarget := SMap.drop d.uTarget f } else ({ d with uTarget := SMap.put d.uTarget f t }).settleU f

/-! ### The swap (R299, R300) -/

/-- Queues whose CT_CTL or CT_BUDGET has been written. -/
def Dev.queuesSet (d : Dev) : List Nat :=
  (List.range 8192).filter (fun q => (SMap.find? d.regs (ctKey q 0)).isSome || (SMap.find? d.regs (ctKey q 8)).isSome)

/-- The swap cycle's work on every block. -/
def Dev.swapBlocks (d : Dev) : Dev :=
  let d1 := (d.copyShadow.setRf swapSts 28 1 0).checkUcap d
  let d2 := (List.range 64).foldl (Dev.checkChain d) d1
  let d3 := (List.range 64).foldl (Dev.swapChain d) d2
  let d4 := d3.queuesSet.foldl (Dev.swapQueue d) { d3 with qOpen := [] }
  let d5 := (List.range 32).foldl (fun y f => (y.setMaxb f).swapU f) d4
  let d6 := (List.range 64).foldl Dev.takeSum d5
  (List.range 64).foldl Dev.swapMbx d6

/-- Meridian of the armed swap: SWAP_AT, or 64 fc after an ARM made too late (R302). -/
def Dev.armAt (d : Dev) : Option Nat := if d.armed then some (d.armDue.getD d.swapAt) else none

/-- Meridian of the next swap cycle, armed or asked for by NOW. -/
def Dev.nextSwap (d : Dev) : Option Nat :=
  match d.swapDue, d.armAt with
  | [], a => a
  | t :: _, none => some t
  | t :: _, some a => some (min t a)

/-- No swap is armed any longer. -/
def Dev.disarm (d : Dev) : Dev := { (d.setRf swapSts 31 1 0).setRf swapCtl 0 1 0 with armDue := none }

/-- What was asked for the swap cycle at Meridian `t`, asked for no longer. -/
def Dev.takeSwap (d : Dev) (t : Nat) : Dev :=
  let d1 := { d with swapDue := d.swapDue.filter (fun x => x != t) }
  if d.armAt = some t then d1.disarm else d1

/-- The swap made. -/
def Dev.makeSwap (d : Dev) : Dev :=
  let d1 := d.swapBlocks
  let d2 := d1.setRf swapSts 0 16 (d1.rf swapSts 0 16 + 1)
  { (d2.setReg (rk .devctl 0 0x110) (BitVec.ofNat 32 d.mer)).setReg (rk .devctl 0 0x114) (BitVec.ofNat 32 (d.mer / 2 ^ 32)) with
      digestDue := true }

/-- A swap cancelled (R302): the staged values stay. -/
def Dev.cancelSwap (d : Dev) : Dev := d.setRf swapSts 29 1 1

/-- The swap cycle (R302): made, or in SAFE cancelled. -/
def Dev.swapCycle (d : Dev) : Dev :=
  match d.nextSwap with
  | none => d
  | some t =>
    if d.mer < t then d
    else match d.mode with
      | .safe => (d.takeSwap t).cancelSwap
      | .datum => d
      | .crozier | .standby | .run | .degraded | .drain | .survey => (d.takeSwap t).makeSwap

/-- A write of SWAP_CTL (R302, R303). -/
def Dev.writeSwapCtl (d : Dev) (v : W32) : Dev :=
  let arm := bit v 0
  let now := bit v 1
  let discard := bit v 2
  let page := PageT.first .devctl
  if (arm && (now || discard)) || (now && discard) then d.cfgErr page
  else
    let d1 := if (now || discard) && d.armed then d.cfgErr page
      else if now then { d with swapDue := d.swapDue ++ [d.mer + 64] }
      else if discard then { d with shadow := [] }
      else d
    if arm then
      (if d1.armed then d1
        else
          let d2 := (d1.setRf swapSts 31 1 1).setRf swapCtl 0 1 1
          if d.swapAt < d.mer + 64 then { d2.setRf swapSts 30 1 1 with armDue := some (d.mer + 64) } else d2)
    else if d1.armed then d1.disarm
    else d1

/-- PAGE_CTL.RESYNC: the shadow copies of a page made equal to its active ones, unless a swap is armed. -/
def Dev.resync (d : Dev) (page : Nat) : Dev :=
  if d.armed then d.cfgErr page else { d with shadow := SMap.keep (fun k => k / 4096 != page) d.shadow }

/-! ### Migration (08 R218) -/

/-- Bytes copied within the frond stores by the Graticule's staging channel; a failed access copies nothing. -/
def Dev.copySpan (d : Dev) (f g off n : Nat) : Dev :=
  match d.fabRead (stageReq (f / 8)) (frondBase f + off) n with
  | (d1, .error _) => d1
  | (d1, .ok bs) => (d1.fabWrite (stageReq (g / 8)) (frondBase g + off) bs).1

/-- Queue q migrated to frond f of its home set, which is not fenced (13 R355), when it has no outstanding item: its frame copied, MIGR set for 8 µs. A resident
context belongs to the old frond's cores and is spilled by no one: its registers are those of the save area. -/
def Dev.migrate (d : Dev) (q f : Nat) : Dev :=
  let old := d.qFrond q
  let fr := d.reg (ctKey q 0x14)
  if !d.qOpen.contains q || !bit (d.reg (ctKey q 0x10)) f || d.rbit frFence f || f = old || d.outQ q ≠ 0 || (SMap.find? d.migr q).isSome then d
  else
    let d1 := (d.copySpan old f (stageOff fr) (stageSize fr)).copySpan old f (slotOff fr) 2048
    let d2 := (d1.setRf (qsKey q 0) 16 5 f).setRf (qsKey q 0) 30 1 1
    (({ d2 with migr := SMap.put d2.migr q (d.mer + 8000) }.setMaxb old).setMaxb f)

end Sys2Proof.Machine
end

