-- ==== Sys2Proof/Machine/Power.lean ====
section
/-!
DEFINITION. Power domains (13 R354, 09 R245 to R247), planned fences (13 R355) and the error of a fabric time-out (13 R364).
-/
namespace Sys2Proof.Machine

/-- PD_CTL. -/
def pdCtl : Nat := rk .power 0 0x100

/-- Bit of PD_CTL and PD_STS for a domain coded as DMA_PD_STS.DOMAIN. -/
def domBit (dom : Nat) : Nat := if dom < 4 then dom else if dom = domDs then 8 else 16 + dom % 8

/-- The domains, in the order of their codes. -/
def domains : List Nat := [0, 1, 2, 3, domDs] ++ (List.range 8).map domLayer

/-! ### Power-down (R354, R247) -/

/-- Whether a range of the deep store lies, in part, in a deep-store domain. -/
def Dev.inDeepDom (d : Dev) (dom a n : Nat) : Bool := n != 0 && d.rangeTouches dom a n

/-- Whether a power-down request is refused at once (R247); a deep-store domain that INTLV does not form is refused too. -/
def Dev.pdRefused (d : Dev) (dom : Nat) : Bool :=
  if dom < 4 then
    (List.range 64).any (fun j => (d.core (64 * dom + j)).pool) || (List.range 4).any (fun k => d.portEn (4 * dom + k))
  else
    (dom == domDs) == d.intlv || (List.range 64).any (fun c => d.chState c != 0 && d.inDeepDom dom (d.chBase c) (d.chSize c)) ||
      d.inDeepDom dom (d.rf (caKey 0x110) 0 22 * 4096) d.ckSize

/-- PD_STS.BUSY: an off request is with the engines, or a domain is asked on or off and is not yet so (R354). -/
def Dev.pdBusy (d : Dev) : Bool :=
  d.pdNow.isSome || domains.any (fun dom => d.rbit pdCtl (domBit dom) == d.rbit pdSts (domBit dom) &&
    (dom < 4 || (dom == domDs) != d.intlv))

/-- The domains that are asked off and still on: each that R247 names is refused at once, its bit returned to 0; the lowest of the others goes
to the engines unless a request is under way (log entry 15). -/
def Dev.nextOff : List Nat → Dev → Dev
  | [], d => d
  | dom :: t, d =>
    if !d.rbit pdCtl (domBit dom) || !d.rbit pdSts (domBit dom) || d.pdNow == some dom then Dev.nextOff t d
    else if d.pdRefused dom then Dev.nextOff t ((d.setRf pdCtl (domBit dom) 1 0).setRf pdSts 30 1 1)
    else if d.pdNow.isSome then Dev.nextOff t d
    else Dev.nextOff t { d.holdDomain dom with pdNow := some dom }

/-- The request under way dropped, when its bit has been written 0. -/
def Dev.dropOff (d : Dev) : Dev :=
  match d.pdNow with
  | none => d
  | some dom =>
    if d.rbit pdCtl (domBit dom) then d
    else (List.range 4).foldl (fun y t => y.setRf (pdHold t) 31 1 0) { d with pdNow := none }

/-- A write of PD_CTL. -/
def Dev.writePdCtl (d : Dev) (v : W32) : Dev :=
  match d.mode with
  | .datum | .crozier | .safe => d.cfgErr (PageT.first .power)
  | .standby | .run | .degraded | .drain | .survey =>
    Dev.nextOff domains ((d.setReg pdCtl (BitVec.ofNat 32 (v.toNat &&& 0x00FF_010F))).dropOff)

/-- Addresses that a domain holds. -/
def Dev.inDom (d : Dev) (dom a : Nat) : Bool := d.rangeTouches dom a 1

/-- The contents of a domain's stores lost. -/
def Dev.loseStores (d : Dev) (dom : Nat) : Dev :=
  { d with
      mem := d.mem.filter (fun e => !d.inDom dom e.1), uncorr := d.uncorr.filter (fun a => !d.inDom dom a), corr := d.corr.filter (fun a => !d.inDom dom a)
      pstore := SMap.keep (fun k => k / 65536 / 64 != dom) d.pstore }

/-- A domain goes off, every engine having released the request. -/
def Dev.domainOff (d : Dev) (dom : Nat) : Dev :=
  if d.pdNow != some dom || !d.allReleased then d
  else
    let d1 := { ((d.loseStores dom).setRf pdSts (domBit dom) 1 0) with pdNow := none }
    let d2 := if dom < 4 then { d1 with cores := SMap.keep (fun c => c / 64 != dom) d1.cores, dma := SMap.keep (fun ch => ch / 256 != dom) d1.dma }
      else if d1.dsPowered then d1 else d1.setRf dsSts 31 1 0
    Dev.nextOff domains d2

/-- A domain comes on: a thallus with its pages at the values of 11 R304, zeroed stores and held cores that wait for their refill; a
deep-store domain begins its training and is on when that ends; outside STANDBY it waits for it (09 R230). -/
def Dev.domainOn (d : Dev) (dom : Nat) : Dev :=
  if d.rbit pdCtl (domBit dom) || d.rbit pdSts (domBit dom) || !domains.contains dom || d.mode = .datum || d.mode = .crozier || d.mode = .safe then d
  else if dom < 4 then 
    (List.range 64).foldl (fun y j => y.modCore (64 * dom + j) (fun x => { x with refillDue := true }))
      ((d.resetPages (fun p i => pageThallus p i == some dom)).setRf pdSts dom 1 1)
  else if d.baseMode = .standby then d.setRf dsSts 30 1 1
  else d

/-! ### Fences (R355) -/

/-- The unfenced frond of a home set, other than one frond, with the greatest slack; none: there is none. -/
def Dev.otherFrond (d : Dev) (home : W32) (f : Nat) : Option Nat :=
  let h := home &&& ~~~(d.reg frFence) &&& ~~~(BitVec.ofNat 32 (2 ^ f))
  if h = 0 then none else some (d.bestFrond h)

/-- Queues placed on a frond. -/
def Dev.queuesOn (d : Dev) (f : Nat) : List Nat := d.qOpen.filter (fun q => d.qFrond q == f)

/-- Frond f fenced: each idle queue placed on it migrates. -/
def Dev.fenceFrond (d : Dev) (f : Nat) : Dev :=
  (d.queuesOn f).foldl (fun y q => match y.otherFrond (y.reg (ctKey q 0x10)) f with
    | some g => y.migrate q g
    | none => y) d

/-- Frond f's fence taken away: its cores return to the pool, where the mode runs them; elsewhere at the next RUN. -/
def Dev.unfence (d : Dev) (f : Nat) : Dev :=
  let d1 := d.setRf (rk .power 0 0x10C) f 1 0
  if d1.makesItems then (List.range 8).foldl (fun y j => y.poolCore (8 * f + j)) d1 else d1

/-- A write of FRFENCE. -/
def Dev.writeFence (d : Dev) (v : W32) : Dev :=
  let old := d.reg frFence
  (List.range 32).foldl (fun y f =>
    if bit v f && !bit old f then y.fenceFrond f else if !bit v f && bit old f then y.unfence f else y) (d.setReg frFence v)

/-- A fenced frond that holds no queue and no item: its cores leave the pool, without a change of mode. -/
def Dev.fenceDone (d : Dev) (f : Nat) : Dev :=
  if d.rbit frFence f && (d.queuesOn f).isEmpty && (d.itemsWhere (fun x => x.outstanding && x.frond == f)).isEmpty then
    (List.range 8).foldl (fun y j => y.modCore (8 * f + j) (fun x => { x with pool := false })) (d.setRf (rk .power 0 0x10C) f 1 1)
  else d

/-! ### Fabric time-out (R363, R364) -/

/-- Whether an address lies in `n` bytes from `a` up. -/
def within (addr a n : Nat) : Bool := a ≤ addr && addr < a + n

/-- Whether a request of a reserved channel of thallus t to an address is made for an item: its staging, or the reading of its texts. -/
def Item.usesChannel (x : Item) (t addr : Nat) (staging : Bool) : Bool :=
  let area := within addr (frondBase x.frond + stageOff x.frame) (stageSize x.frame)
  x.frond / 8 == t && (if staging then x.phase == .admitted && (area || x.roff.any (fun o => within addr ((Tier.thallus x.ring).base + o) x.plen))
    else x.phase == .done && area)

/-- The domain that holds an address. -/
def Dev.domOf (d : Dev) (addr : Nat) : Option Nat :=
  (tierOf addr).map (fun t => match t.thallusNo with
    | some h => domThallus h
    | none => if d.intlv then domLayer (layerOf addr) else domDs)

/-- A ring write of thallus t that is not answered: the frame that was to lie there is dropped, and counted in RZ_CSUM; what else was to become an
item there is refused as where the write is denied (R364). -/
def Dev.ringLost (d : Dev) (t addr : Nat) : Dev :=
  match (d.itemsWhere (fun x => x.phase == .arrived && x.ring == t && x.roff.any (fun o => within addr ((Tier.thallus t).base + o) x.plen))).head? with
  | none => d.incRf (rk .rz 0 0x1C0) 0 32 1
  | some (n, x) =>
    match x.src with
    | .port _ _ _ => ({ d.incRf (rk .rz 0 0x1C0) 0 32 1 with items := SMap.drop d.items n }).pfcGroup t
    | .post _ | .mbox _ | .note _ | .record => d.refuse n x 11

/-- A core's access that is not answered: the error captured as that of a core read, and the core stopped (R364, 09 R225). -/
def Dev.coreLost (d : Dev) (c addr : Nat) : Dev :=
  stopCore c 5 ((tierOf addr).elim d (fun t => t.eccPage.elim d (fun k => d.eccCapture t k 0 c (addr / 8 * 8))))

/-- How a request that is not answered ends at its requester. DESIGN CHOICE (log entry 72): the lost domain of a descriptor's DOMAIN_LOST is that of
the address. -/
def Dev.fabricEnd (d : Dev) (addr master : Nat) : Dev :=
  if 0x400 ≤ master && master < 0x800 then
    let ch := master - 0x400
    if ch % 256 < 240 then d.abortDesc ch 7 (d.domOf addr)
    else (d.itemsWhere (fun x => x.usesChannel (ch / 256) addr (248 ≤ ch % 256))).head?.elim d (fun e => d.failItem e.1 1)
  else if master = 0x101 then
    match tierOf addr with
    | some (.working c) => (d.itemsWhere (fun x => x.phase == .handed && x.core == some c)).foldl (fun y e => y.failItem e.1 1) d
    | _ => d
  else if 0x200 ≤ master && master < 0x204 then d.ringLost (master - 0x200) addr
  else if master = 0x210 then
    match (List.range 64).find? (fun c => d.chState c != 0 && within addr (d.chBase c) (d.chSize c)) with
    | some c => d.chainFault c
    | none => { d with cairn := { d.cairn with anchorOut := addr :: d.cairn.anchorOut } }
  else if master < 0x100 then d.coreLost master addr
  else d

/-- The smallest unit of Table 13.5 that holds the target of a fabric request, reset by the ladder with the cause of level 5. -/
def Dev.fabricReset (d : Dev) (addr : Nat) : Dev :=
  match tierOf addr with
  | some (.thallus t) => d.stepThallus t 5
  | some (.frond f) => d.stepFrond f 5
  | some (.working c) => d.stepCore c 5
  | some (.prog c) => d.stepCore c 5
  | some .deep => d.escalate6 5
  | none => d

/-- A fabric request of a master to an address is unanswered for 4 µs. -/
def Dev.fabricTimeout (d : Dev) (addr master : Nat) : Dev :=
  if d.mode = .datum then d else (d.fabricEnd addr master).fabricReset addr

/-! ### DMA events -/

/-- A ring channel reads PROD (09 R237): it begins the next descriptor, and moves up to `n` blocks of it. -/
def Dev.ringPoll (d : Dev) (ch n : Nat) : Dev :=
  if d.thOn (ch / 256) && d.dcEn ch && d.dcRing ch && d.rf (dcKey ch 0x10) 30 2 != 3 && (SMap.find? d.dma ch).isNone then
    Dev.moveBlocks ch n (d.nextRing ch)
  else d

/-- A channel has moved no byte for its limit (R363 level 7): its descriptor ends ABORTED; the second such end on one engine within 1 s
resets the thallus. -/
def Dev.dmaStuck (d : Dev) (ch : Nat) : Dev :=
  match SMap.find? d.dma ch with
  | none => d
  | some r =>
    let held := (d.heldDom (ch / 256)).any (fun dom => d.runTouches dom ch r)
    if r.status.isSome || held then d
    else
      let d1 := (d.abortDesc ch 8).noteStep 0x14 (ch / 256) 7 1 2 0
      if d1.strikes 0x14 (fun t => t == ch / 256) ≥ 2 then d1.stepThallus (ch / 256) 7 else d1

end Sys2Proof.Machine
end

