-- ==== Sys2Proof/Machine/Trust.lean ====
section
/-!
DEFINITION. Cartouche's shadow digest and attestation reports (14 R380 to R382) and Survey (14 R385 to R388).
-/
namespace Sys2Proof.Machine

/-! ### The shadow digest (R382) -/

/-- Offsets of a page type's registers that hold an RWS field, with the field's bits, rising. -/
def rwsOffsets (t : PageT) : List (Nat × Nat) :=
  (List.range 960).filterMap (fun i => match regDefAt t (0x100 + 4 * i) with
    | some (r, _) => if r.rws = 0 then none else some (0x100 + 4 * i, r.rws)
    | none => none)

/-- The entries of one page, in a powered domain. -/
def digestPage (d : Dev) (r : PageRow) (offs : List (Nat × Nat)) (i : Nat) : List Byte :=
  if (pageThallus r.type i).any (fun t => !d.thOn t) then []
  else
    offs.flatMap (fun o => toBytes 2 (r.first + i) ++ toBytes 2 o.1 ++ toBytes 4 ((d.reg ((r.first + i) * 4096 + o.1)).toNat &&& o.2))

/-- The shadow digest of the values now active. -/
def shadowDigest (d : Dev) : List Byte :=
  sha256 (pageIndex.flatMap (fun r => (List.range r.count).flatMap (digestPage d r (rwsOffsets r.type))))

/-- Key of a CARTOUCHE register. -/
def cartKey (off : Nat) : Nat := rk .cartouche 0 off

/-- Eight registers set to a digest. -/
def Dev.setDigest (d : Dev) (k : Nat) (bs : List Byte) : Dev := d.setRegs k ((List.range 8).map (be32 bs))

/-- A digest read from eight registers. -/
def Dev.digestAt (d : Dev) (k : Nat) : List Byte := (List.range 8).flatMap (fun i => toBytes 4 (d.reg (k + 4 * i)).toNat)

/-- Cartouche has the shadow digest; a report that waits for it carries it. -/
def Dev.digestDone (d : Dev) : Dev :=
  if !d.digestDue then d
  else
    let g := shadowDigest d
    let at1 := if d.att.waits then { d.att with busy := d.att.busy.map (fun b => b.take 0xA8 ++ g ++ b.drop 0xC8), waits := false } else d.att
    { d.setDigest (cartKey 0x160) g with digestDue := false, att := at1 }

/-! ### Attestation (R381) -/

/-- M_FUSE. -/
def fuseDigest (fz : Fuses) : List Byte :=
  sha256 (toBytes 32 Config.rootHash.toNat ++ toBytes 32 fz.ownerHash.toNat ++ toBytes 32 Config.patchPkh.toNat ++ toBytes 1 (b2n fz.ownerOnly) ++
    toBytes 1 fz.rollback ++ toBytes 1 (b2n fz.surveyDis))

/-- Bytes 0x000 to 0x10F of a report (Table 14.7). -/
def reportHeader (fz : Fuses) (d : Dev) : List Byte :=
  toBytes 4 0x414B4154 ++ toBytes 2 1 ++ toBytes 1 d.mode.code ++ toBytes 1 d.boot.keysel ++ toBytes 8 Config.serial.toNat ++
    d.digestAt (cartKey 0x180) ++ toBytes 8 d.mer ++ toBytes 8 d.mcount ++ toBytes 4 (d.reg (rk .crozier 0 0x108)).toNat ++ toBytes 2 d.ucLevel ++
    toBytes 1 fz.rollback ++ toBytes 1 0 ++ toBytes 32 Config.romDigest.toNat ++ d.digestAt (cartKey 0x140) ++ d.digestAt (ucKey 0x120) ++
    d.digestAt (cartKey 0x160) ++ fuseDigest fz ++ pkHash ++ toBytes 2 (d.rf swapSts 0 16) ++ zeros 6

/-- A write of AT_CTL.GO. -/
def Dev.atGo (fz : Fuses) (d : Dev) : Dev :=
  let k := cartKey 0x1A4
  if d.att.busy.isSome then d.setRf k 29 1 1
  else { (d.setRf k 31 1 1).setRf k 30 1 0 with att := ⟨some (reportHeader fz d), d.digestDue, []⟩ }

/-- The report's signature ends. Cartouche signs one message at a time, a checkpoint set first (R380). -/
def Dev.atSigned (d : Dev) : Dev :=
  match d.att.busy with
  | none => d
  | some h =>
    if d.att.waits || d.cairn.ckpt.isSome then d
    else
      let d1 := (d.setRf (cartKey 0x1A4) 31 1 0).setRf (cartKey 0x1A4) 30 1 1
      ({ d1 with att := ⟨none, false, h ++ idSign h⟩ }).raiseIrq (PageT.first .cartouche) 1

/-! ### Survey (R385 to R388) -/

/-- SV_STS. -/
def svSts : Nat := rk .survey 0 0x104

/-- A challenge: a fresh nonce, or LOCKOUT after 8 failed submissions. -/
def Dev.challenge (d : Dev) : Dev :=
  if d.sv.fails ≥ 8 then d.setRf svSts 0 8 8
  else { d with sv := { d.sv with nonce := some (Config.entropy d.free, d.mer), words := [] }, free := d.free + 1 }

/-- A response word written. -/
def Dev.svWord (d : Dev) (v : W32) : Dev := { d with sv := { d.sv with words := d.sv.words ++ [v] } }

/-- The checks of R386 on a response, in order: the status of the first failure. -/
def svStatus (fz : Fuses) (d : Dev) (r : List Byte) : Option Nat :=
  let live := match d.sv.nonce with
    | some (n, made) => decide (d.mer < made + 60_000_000_000) && slice r 0x10 32 == toBytes 32 n.toNat
    | none => false
  let key := if fz.ownerHash = 0 then Config.rootHash else fz.ownerHash
  if !(d.mode == .standby || d.mode == .safe) || d.inTransit then some 1
  else if fz.surveyDis then some 2
  else if d.sv.words.length ≠ 1988 then some 3
  else if beAt r 0 4 ≠ 0x414B5356 || beAt r 4 2 ≠ 1 || beAt r 6 2 ≥ 16 || beAt r 0x30 4 = 0 || beAt r 0x30 4 > 86400 || beAt r 0x34 12 ≠ 0 then some 4
  else if slice r 8 8 ≠ toBytes 8 Config.serial.toNat || !live then some 5
  else if sha256 (slice r 0x40 32) ≠ toBytes 32 key.toNat then some 6
  else if !slhVerify (slice r 0x40 32) (slice r 0 0x60) (slice r 0x60 7856) then some 7
  else none

/-- A submission: the nonce is consumed, and SURVEY opens when every check passes. -/
def Dev.submit (fz : Fuses) (d : Dev) : Dev :=
  let r := d.sv.words.flatMap (fun w => toBytes 4 w.toNat)
  let d1 := { d with sv := { d.sv with nonce := none } }
  match svStatus fz d r with
  | some st => { d1.setRf svSts 0 8 st with sv := { d1.sv with fails := min 8 (d.sv.fails + 1) } }
  | none =>
    ({ d1.setRf svSts 0 8 0 with sv := { d1.sv with till := d.mer + beAt r 0x30 4 * 1_000_000_000 } }).enterSurvey (beAt r 6 2)

/-- A write of SV_CTL.WARM: a device warm reset with the right of R387. -/
def Dev.svWarm (d : Dev) : Dev :=
  match d.survey with
  | some (_, rights) => if rights / 8 % 2 = 1 then d.askWarm 0x15 else d.cfgErr (PageT.first .survey)
  | none => d.cfgErr (PageT.first .survey)

/-- A write of SV_CTL. END is the host's and the debug master's. -/
def Dev.writeSvCtl (fz : Fuses) (d : Dev) (m : RegMaster) (v : W32) : Dev :=
  let ends := match m with
    | .host | .debug => bit v 2
    | .peer _ | .crozier => false
  let d1 := if bit v 0 then d.challenge else d
  let d2 := if bit v 1 then d1.submit fz else d1
  let d3 := if ends then d2.endSurvey else d2
  if bit v 3 then d3.svWarm else d3

/-- The nonce is 60 s old. -/
def Dev.nonceOver (d : Dev) : Dev :=
  match d.sv.nonce with
  | some (_, made) => if made + 60_000_000_000 ≤ d.mer then { d with sv := { d.sv with nonce := none } } else d
  | none => d

/-- The session's time is over. -/
def Dev.sessionOver (d : Dev) : Dev := if d.survey.isSome && d.sv.till ≤ d.mer then d.endSurvey else d

end Sys2Proof.Machine
end

