-- ==== Sys2Proof/Machine/RegRead.lean ====
section
/-!
DEFINITION. What a register reads as (11 R292, R296): the stored value, the copy that SHVIEW selects, and the registers that report other
state. Reads change nothing.
-/
namespace Sys2Proof.Machine

/-- A 32-bit value from fields: value, lowest bit. -/
def mkReg (fs : List (Nat × Nat)) : W32 := BitVec.ofNat 32 ((fs.map (fun f => f.1 * 2 ^ f.2)).sum)

/-- A set of positions as a bit map. -/
def bitsOf (n : Nat) (p : Nat → Bool) : Nat := ((List.range n).map (fun i => b2n (p i) * 2 ^ i)).sum

/-- Low half of a 64-bit value, or its high half. -/
def half (v : Nat) (hi : Bool) : W32 := BitVec.ofNat 32 (if hi then v / 2 ^ 32 else v)

/-! ### Common registers -/

/-- The common registers that report other state (11 R296). -/
def Dev.viewCommon (d : Dev) (r : PageRow) (i page off : Nat) : Option W32 :=
  let k := page * 4096
  match off with
  | 0 => some (mkReg [(r.code, 20), (i, 8), (1, 0)])
  | 4 => some (mkReg [(b2n ((blockDefs r.type).any (fun x => x.rws != 0)), 31), (b2n ((blockDefs r.type).any (fun x => x.rwl != 0)), 30), (b2n r.dom, 29)])
  | 0xC => some (mkReg [(d.rf (k + 0xC) 31 1, 31), (d.rf (k + 0x18) 31 1, 30)])
  | 0x20 => some (mkReg [(b2n (d.shadow.any (fun e => e.1 / 4096 == page && (e.2 &&& rwsMask e.1) != (d.reg e.1 &&& rwsMask e.1))), 31),
                         (d.rf (k + 0x20) 30 1, 30), (b2n d.armed, 29), (d.rf swapSts 0 16, 0)])
  | _ => none

/-! ### Block registers -/

/-- Page GRAT. -/
def Dev.viewGrat (d : Dev) (off : Nat) : Option W32 :=
  let f := (off - 0x200) / 16
  if off = 0x108 then
    let adm := match d.mode with
      | .run | .degraded => 1
      | .drain => 2
      | .datum | .crozier | .standby | .survey | .safe => 0
    some (mkReg [(adm, 30), (d.rf clkSts 8 1, 29), (min d.outstanding (2 ^ 24 - 1), 0)])
  else if off < 0x200 then none
  else match off % 16 with
    | 0 => some (mkReg [(d.poolOf f, 28), (d.uOf f, 16)])
    | 8 => some (BitVec.ofNat 32 (d.sumItems (fun x => x.charged && x.frond == f) Item.chg))
    | 12 => some (BitVec.ofInt 32 (d.minSlack f))
    | _ => none

/-- A doorbell FIFO's head. -/
def Dev.viewBell (d : Dev) (c : Nat) : W32 :=
  match SMap.get [] d.db c with
  | [] => 0
  | (src, code) :: t => mkReg [(1, 31), (d.rf (dbKey c) 30 1, 30), (t.length + 1, 27), (src, 16), (code, 0)]

/-- Page UASKA. -/
def Dev.viewRing (d : Dev) (off : Nat) : Option W32 :=
  if off = 0x10C then
    some (mkReg [(d.rf (ukKey 0x10C) 30 2, 30), (bitsOf 8 d.live, 16), (bitsOf 8 (fun t => t != d.pos && d.rbit (ukKey 0x108) t && !d.live t), 8),
                 (bitsOf 8 (fun t => (d.members.take 2).contains t), 0)])
  else if 0x140 ≤ off ∧ off < 0x160 then
    let t := (off - 0x140) / 4
    let age := match SMap.find? d.uk.beats t with
      | some b => min 65535 ((d.mer - b) / 1000)
      | none => 0
    let (w, h) := match d.route t with
      | some (w, h) => (b2n w, h)
      | none => (0, 0)
    some (mkReg [(b2n (d.uk.repfull.getLsbD t), 31), (w, 30), (h, 24), (age, 0)])
  else none

/-- The oldest PTP timestamp. -/
def Dev.viewPtp (d : Dev) (off : Nat) : Option W32 :=
  if off = 0x110 then some (mkReg [(d.rf (rk .ptp 0 0x110) 31 1, 31), (d.ptp.length, 0)])
  else match d.ptp with
    | [] => some 0
    | (ts, sq, mt, p) :: _ =>
      if off = 0x100 then some (half ts.toNat false) else if off = 0x104 then some (half ts.toNat true)
      else if off = 0x108 then some (mkReg [(sq.toNat, 16), (mt, 8), (p, 0)]) else some 0

/-- The 36 bits that UC_PEEK_ADDR selects: a patch RAM word, or a match register's image with its parity in bits 1:0. DESIGN CHOICE (log
entry 60): INDEX names a match register modulo 32, and UC_PEEK_PAR reads 0 for one. -/
def Dev.peek (d : Dev) (c : Nat) : BitVec 36 :=
  let k := rk .coreUc c 0x130
  let x := d.core c
  let i := d.rf k 0 9
  if d.rbit k 15 then
    BitVec.ofNat 36 (SMap.get 0 x.matchReg (i % 32)).toNat
  else SMap.get 0 x.patchRam i

/-- Page CORE_UC. -/
def Dev.viewCoreUc (d : Dev) (c off : Nat) : Option W32 :=
  let x := d.core c
  match off with
  | 0x100 => some (mkReg [(x.patchLevel.toNat, 16), (min x.wdogHi 4095, 4), (b2n (x.run == .stopped), 3), (b2n x.mck, 2), (b2n x.pool, 1),
                          (b2n (d.coreHeld false c), 0)])
  | 0x134 => some (BitVec.ofNat 32 (d.peek c).toNat)
  | 0x138 => some (if d.rbit (rk .coreUc c 0x130) 15 then 0 else BitVec.ofNat 32 ((d.peek c).toNat / 2 ^ 32))
  | _ => none

/-- WALKBASE of core c (10 R263). -/
def Dev.walkBase (d : Dev) (c : Nat) : W32 :=
  let x := d.core c
  if x.inBF || !x.cb.res then 0x8000_0000
  else BitVec.ofNat 32 (slotOff (d.frameOf x) + 0x200)

/-- Page CORE_PROT; RANK of a register that is not valid reads its reset value (log entry 71). -/
def Dev.viewCoreProt (d : Dev) (c off : Nat) : Option W32 :=
  let x := d.core c
  let n := (off - 0x200) / 32
  let w := off % 32 / 4
  if off = 0x10C then some (d.walkBase c)
  else if off < 0x200 then none
  else
    let pend := x.brImage.contains n
    let v := if pend then d.reg (rk .coreProt c off) else (brWords x n).getD w 0
    if w = 4 then some (v ||| mkReg [(b2n pend, 30), (if (x.brAt n).valid then (x.brRank.findIdx? (· == n)).getD 15 else 0, 8)]) else some v

/-- CH_STS.STATE: 2 while a running channel's descriptor touches a domain that is held. -/
def Dev.viewDma (d : Dev) (ch : Nat) : W32 :=
  let v := d.reg (dcKey ch 0x10)
  match SMap.find? d.dma ch, d.heldDom (ch / 256) with
  | some r, some dom => if d.runTouches dom ch r then setFld v 30 2 2 else v
  | _, _ => v

/-- Page SURVEY. -/
def Dev.viewSurvey (d : Dev) (off : Nat) : Option W32 :=
  if off = 0x104 then
    let rights := match d.survey with
      | some (_, r) => r
      | none => 0
    some (mkReg [(b2n d.survey.isSome, 31), (d.rf svSts 30 1, 30), (rights, 24), (d.sv.fails, 16), (d.sv.words.length / 64 % 32, 11), (d.rf svSts 0 8, 0)])
  else if 0x120 ≤ off ∧ off < 0x140 then
    some (match d.sv.nonce with
      | some (n, _) => be32 (toBytes 32 n.toNat) ((off - 0x120) / 4)
      | none => 0)
  else none

/-- CZ_FUSE. -/
def fuseView (fz : Fuses) : W32 :=
  mkReg [(b2n (fz.ownerHash != 0), 31), (b2n fz.ownerOnly, 30), (b2n fz.surveyDis, 29), (fz.epoch, 16), (fz.rollback, 0)]

/-- The registers that report other state. -/
def Dev.view (fz : Fuses) (d : Dev) (r : PageRow) (i page off : Nat) : Option W32 :=
  if off < 0x100 then d.viewCommon r i page off
  else match r.type with
    | .grat => d.viewGrat off
    | .gratDb => if off % 8 = 0 then some (d.viewBell ((off - 0x100) / 8)) else none
    | .gratQs => if off % 16 = 0 then some (setFld (d.reg (page * 4096 + off)) 8 8 (min 255 (d.outQ (64 * i + (off - 0x100) / 16)))) else none
    | .skey => if off = 0x10C then some (BitVec.ofNat 32 (d.keyByte d.skAddr).toNat) else none
    | .dmaCh => if off % 32 = 0x10 then some (d.viewDma (64 * i + (off - 0x100) / 32)) else none
    | .ptp => d.viewPtp off
    | .uaska => d.viewRing off
    | .pcie => if off = 0x100 then some (mkReg [(b2n d.pci.up, 31), (d.pci.speed.toNat, 8), (d.pci.width.toNat, 0)]) else none
    | .clocks => if off = 0x108 then some (setFld (d.reg thermSts) 30 1 (b2n d.hot)) else none
    | .power => if off = 0x104 then some (setFld (d.reg pdSts) 31 1 (b2n d.pdBusy)) else none
    | .mode => if off = 0x100 then some (setFld (d.reg modeSts) 20 1 (b2n d.inTransit)) else none
    | .datum => if off = 0x100 then some (half d.mer false) else if off = 0x104 then some (half d.mer true) else none
    | .crozier => if off = 0x104 then some (fuseView fz) else none
    | .cartouche => if off = 0x1AC then some (be32 d.att.held (d.rf (cartKey 0x1A8) 0 13)) else none
    | .survey => d.viewSurvey off
    | .coreUc => d.viewCoreUc i off
    | .coreProt => d.viewCoreProt i off
    | .devctl | .ucBcast | .rz | .rzRules | .cairn | .cairnCh | .gatelog | .dstore | .sorus | .dma | .storeEcc | .gslot | .lg | .mbx
    | .health | .mac | .gratCq | .gate => none

/-- The value of the register at an offset of a present page in a domain that is on; none: no register (R293). -/
def Dev.readReg (fz : Fuses) (d : Dev) (r : PageRow) (i page off : Nat) : Option W32 :=
  match regDefAt r.type off with
  | none => none
  | some (rd, _) =>
    let k := page * 4096 + off
    match d.view fz r i page off with
    | some v => some v
    | none =>
      let m := BitVec.ofNat 32 rd.rws
      some (if d.rbit (page * 4096 + 8) 31 then (d.reg k &&& ~~~m) ||| (d.shadowOf k &&& m) else d.reg k)

end Sys2Proof.Machine
end

