-- ==== Sys2Proof/Machine/RegBus.lean ====
section
/-!
DEFINITION. The register bus (11 R289 to R298): who may access a page, the access types (00 Table 0.4), locks, reserved encodings (R294), and
what a write of each register does beside storing its fields.
-/
namespace Sys2Proof.Machine

/-! ### Masters and error responses -/

/-- A register-bus master as a requester (10 Table 10.1). -/
def Dev.regReq (d : Dev) (m : RegMaster) : Req :=
  let key (lo : Nat) : Nat := d.rf (rk .skey 0 0x118) lo 4
  match m with
  | .host => ⟨0x300, .host, key 8, true⟩
  | .peer p => ⟨0x310 + p.val, .peer, key 4, true⟩
  | .debug => ⟨0x320, .debug, key 0, true⟩
  | .crozier => ⟨0x102, .core, 0, true⟩

/-- A Completer Abort logged as an Advisory Non-Fatal Error, with its ERR_COR (12 R330): bit 13 of AER's correctable and bit 15 of its
uncorrectable status (log entry 68). -/
def Dev.logAer (d : Dev) : Dev :=
  ({ d with pci := { d.pci with aerCor := d.pci.aerCor ||| 0x2000, aerUnc := d.pci.aerUnc ||| 0x8000 } }).emit .errCor

/-- The error response to a master; the host's sets PCIE_ERR.RBERR (12 R330). -/
def Dev.errTo (d : Dev) (m : RegMaster) : Dev :=
  match m with
  | .host => ((d.setRf (rk .pcie 0 0x10C) 31 1 1).logAer).emit (.errResponse 0x300)
  | .peer _ | .debug | .crozier => d.emit (.errResponse (masterId m))

/-- Whether a master's way to the register pages is open: a peer's and the host's outside DATUM, the debug port's with the right of the open
session (14 R387), Crozier's in S4 (14 R377). -/
def Dev.reaches (d : Dev) (m : RegMaster) (wr : Bool) : Bool :=
  d.mode != .datum && (match m with
    | .host | .peer _ => true
    | .debug => d.survey.any (fun e => e.2.testBit (b2n wr))
    | .crozier => d.boot.s4)

/-- The checks that every access meets: the slot, the presence of the page and its domain (R289, R293). The page's row and instance,
or whether the access is denied. -/
def Dev.access (d : Dev) (m : RegMaster) (page off : Nat) (wr : Bool) : Dev × Except Bool (PageRow × Nat) :=
  let go (y : Dev) : Dev × Except Bool (PageRow × Nat) :=
    match pageOf page with
    | none => (y.logErr 0 .unmapped wr (masterId m) page off, .error false)
    | some (r, i) =>
      match pageThallus r.type i with
      | some t => if y.thOn t then (y, .ok (r, i)) else (y.logErr 0 .domainOff wr (masterId m) page off, .error false)
      | none => (y, .ok (r, i))
  match m with
  | .crozier => go d
  | .host | .peer _ | .debug =>
    match d.slotCheck (d.regReq m) page off (if wr then .write else .read) with
    | (d1, true) => go d1
    | (d1, false) => (d1.errTo m, .error true)

/-- A register read: its value, or none when the access is denied. -/
def Dev.busRead (fz : Fuses) (d : Dev) (m : RegMaster) (page off : Nat) : Dev × Option W32 :=
  if !d.reaches m false then (d, none)
  else match d.access m page off false with
  | (d1, .error true) => (d1, none)
  | (d1, .error false) => (d1, some 0)
  | (d1, .ok (r, i)) =>
    match d1.readReg fz r i page off with
    | some v => (d1, some v)
    | none => (d1.logErr page .unmapped false (masterId m) page off, some 0)

/-! ### Reserved encodings (R294) -/

/-- Bits of a field when a value of it is reserved. -/
def badIf (c : Bool) (mask : Nat) : Nat := if c then mask else 0

/-- Highest RATE of port p's meter (08 R193). -/
def Dev.rateLimit (d : Dev) (p : Nat) : Nat := 21 * max 1 (d.portRate p)

/-- Whether the lane of MAC page p leads no port. -/
def Dev.idlePage (d : Dev) (p : Nat) : Bool := d.portRate p == 0

/-- Whether LG_CFG.MODE of group g may not change (12 R307). -/
def Dev.laneBusy (d : Dev) (g : Nat) : Bool :=
  (List.range 4).any (fun k => d.portEn (4 * g + k)) || (d.groupDir g).any (fun w => (d.link w).up)

/-- The bits of a pin choice that would give one EVT_OUT pin two functions: the choice, and its enable when the choice that stays
conflicts too. -/
def pinBad (en : Nat) (v old : W32) (other : Option Nat) : Nat :=
  match other with
  | none => 0
  | some p =>
    badIf (bit v en && fld v 28 2 == p) 0x3000_0000 + badIf (bit v en && fld v 28 2 == p && fld old 28 2 == p) (2 ^ en)

/-- The bits of a write of `v` that stay as they are, because the field's value is reserved or refused. -/
def Dev.badBits (d : Dev) (t : PageT) (i : Nat) (off idx : Nat) (v : W32) (old : W32) : Nat :=
  match t, off with
  | _, 0x024 => badIf (fld v 0 8 < 16) 0xFF
  | .grat, 0x100 => badIf (fld v 22 2 == 3) 0xC0_0000 + badIf (fld v 0 16 < 10) 0xFFFF
  | .grat, 0x104 => badIf (fld v 8 8 < 50 || fld v 8 8 > 95) 0xFF00 + badIf (fld v 0 8 < 50 || fld v 0 8 > 95) 0xFF
  | .gratCq, 0x100 => badIf (fld v 6 2 == 3) 0xC0
  | .rz, 0x140 => badIf (fld v 0 8 > d.rateLimit idx) 0xFF + badIf (fld v 16 8 == 0 || fld v 16 8 > 16) 0xFF_0000
  | .rzRules, 0x100 => badIf (fld v 28 2 == 3) 0x3000_0000
  | .cairn, 0x120 => badIf (fld v 0 6 != 0) all32
  | .cairn, 0x128 => badIf (fld v 0 5 < 16 || fld v 0 5 > 30) 0x1F
  | .dma, 0x100 => badIf (fld v 0 16 == 0) 0xFFFF
  | .dmaCh, 0x104 => badIf (fld v 0 5 != 0) all32
  | .dmaCh, 0x10C => badIf (fld v 8 3 ≥ 5) 0x700
  | .lg, 0x100 => if fld v 16 3 != fld old 16 3 && d.laneBusy i then all32 else badIf (fld v 16 3 ≥ 6) 0x7_0000
  | .mac, 0x100 => badIf (bit v 31 && d.idlePage i) 0x8000_0000
  | .mac, 0x110 => badIf (fld v 0 3 ≥ fld v 8 3) 0x707
  | .uaska, 0x100 => badIf (bit v 14 && bit v 10 && fld v 12 2 == fld v 8 2) all32 ||| badIf (fld v 0 8 == 0) 0xFF
  | .pcie, 0x108 => badIf (fld v 0 16 == 0) 0xFFFF
  | .clocks, 0x104 => badIf (fld v 16 8 < 85 || fld v 16 8 > 105) 0xFF_0000 + badIf (fld v 0 8 < 2 || fld v 0 8 > 20) 0xFF
  | .mode, 0x108 => let c := rk .datum 0 0x1D0; pinBad 30 v old (if d.rbit c 31 then some (d.rf c 28 2) else none)
  | .datum, 0x128 => badIf (fld v 0 20 == 0 || fld v 0 20 > 999_999) 0xF_FFFF
  | .datum, 0x1D0 => let c := rk .mode 0 0x108; pinBad 31 v old (if d.rbit c 30 then some (d.rf c 28 2) else none)
  | .health, 0x100 => badIf (fld v 24 4 == 0) 0x0F00_0000
  | .health, 0x104 => badIf (fld v 16 16 == 0) 0xFFFF_0000
  | .cartouche, 0x1A8 => badIf (fld v 0 13 > 4339) 0x1FFF
  | _, _ => 0

/-! ### Locks (R298, 10 R284) -/

/-- Whether a lock holds the register: the page's LOCK bits, or the entry's own LOCK. -/
def Dev.locked (d : Dev) (t : PageT) (page idx : Nat) (rd : RegDef) : Bool :=
  (rd.rwl != 0 && d.rbit (page * 4096 + 0x28) 0) || (rd.rws != 0 && d.rbit (page * 4096 + 0x28) 1) ||
    (t = .gate && rd.rwl != 0 && d.rbit (page * 4096 + 0x100 + 16 * idx) 30) || (t = .gslot && rd.off = 0x100 && d.rbit (page * 4096 + 0x100 + 4 * idx) 30)

/-- A write of LOCK: its bits are set only; a 0 written to a set bit is ignored and logged. A page whose RWS lock is set has its shadow
copies equal to its active ones (log entry 44). -/
def Dev.writeLock (d : Dev) (page master : Nat) (v : W32) : Dev :=
  let k := page * 4096 + 0x28
  let old := d.rf k 0 2
  let d1 := d.setRf k 0 2 (old ||| fld v 0 2)
  let d2 := if d1.rbit k 1 then { d1 with shadow := SMap.keep (fun j => j / 4096 != page) d1.shadow } else d1
  if old &&& (3 - fld v 0 2) ≠ 0 then d2.logErr page .locked true master page 0x28 else d2

/-! ### The generic write -/

/-- Shadow copy of a register set; one equal to the active copy is not listed. -/
def Dev.setShadow (d : Dev) (k : Nat) (v : W32) : Dev :=
  { d with shadow := if v = d.reg k then SMap.drop d.shadow k else SMap.put d.shadow k v }

/-- Fields stored by their types: RW and RWL at once, RWS in the shadow copy, W1C bits cleared; a refused field stays, with CFGERR. -/
def Dev.writeFields (d : Dev) (page k bad : Nat) (rd : RegDef) (v : W32) : Dev :=
  let ok : W32 := ~~~(BitVec.ofNat 32 bad)
  let m := BitVec.ofNat 32 (rd.rw ||| rd.rwl) &&& ok
  let s := BitVec.ofNat 32 rd.rws &&& ok
  let clr := v &&& BitVec.ofNat 32 rd.w1c
  let sh := d.shadowOf k
  let d1 := d.setReg k (((d.reg k &&& ~~~m) ||| (v &&& m)) &&& ~~~clr)
  let d2 := if rd.rws = 0 then d1 else d1.setShadow k ((sh &&& ~~~s) ||| (v &&& s))
  if bad = 0 then d2 else d2.cfgErr page

/-! ### Writes that act -/

/-- CH_CTL of channel ch (09 R236, R244): its fields, then ABORT, then GO. A write that leaves a stopped ring channel enabled lets it poll
again (log entry 43). DESIGN CHOICE (log entry 72): a GO starts a stopped host-mode channel as it starts an idle one. -/
def Dev.writeChCtl (d : Dev) (ch : Nat) (v : W32) : Dev :=
  let page := PageT.first .dmaCh + ch / 64
  let d0 := d.setReg (dcKey ch 0) (v &&& 0xF000_0000)
  let d1 := if d0.dcEn ch && d0.dcRing ch && d0.rf (dcKey ch 0x10) 30 2 == 3 then d0.dcState ch 0 else d0
  let d2 := if bit v 1 then d1.abortDesc ch 8 else d1
  if !bit v 0 then d2
  else if (SMap.find? d2.dma ch).isSome || d2.dcRing ch || !d2.dcEn ch then d2.cfgErr page
  else d2.beginDesc ch ((d2.reg (dcKey ch 4)).toNat + d2.rf (dcKey ch 8) 0 8 * 2 ^ 32)

/-- CAIRN_CTL: CKSTREAM, and CK_NOW puts every chain that is not OFF into the next set (09 R256). -/
def Dev.writeCairnCtl (d : Dev) (v : W32) : Dev :=
  let d1 := d.setRf (caKey 0x100) 1 1 (b2n (bit v 1))
  if bit v 0 then
    (List.range 64).foldl (fun y c => if y.chState c = 0 then y else y.setChain c { y.chain c with want := true }) d1
  else d1

/-- What follows a change of LG_CFG (08 R193, 12 R307, R317, 13 R363). -/
def Dev.afterLgCfg (d old : Dev) (g : Nat) : Dev :=
  let d1 := (List.range 4).foldl (fun y k => y.releaseLane (4 * g + k)) d
  if d.lgMode g = old.lgMode g then d1
  else
    let d2 := match old.groupDir g with
      | some w => d1.cutDir w none
      | none => d1
    let d2t := if (old.groupDir g).any (fun w => (old.link w).up) then d2.sendTopo.ringChanged else d2
    let d3 := (d2t.setRf (lgKey g 0x104) 24 8 0).noteDirErr
    (List.range 4).foldl (fun y k =>
      let m := rk .rz 0 (0x140 + 4 * (4 * g + k))
      if y.rf m 0 8 > y.rateLimit (4 * g + k) then (y.setRf m 0 8 (y.rateLimit (4 * g + k))).cfgErr (PageT.first .rz) else y) d3

/-- What follows a change of UK_CTL (12 R316, R317): a direction that loses its group or its enable goes down, and its group reads as idle. -/
def Dev.afterUkCtl (d old : Dev) : Dev :=
  let lost (w : Bool) : Bool := old.dirGroup w != d.dirGroup w || !d.rbit (ukKey 0x100) 31
  let d1 := ([false, true].foldl (fun y w => if lost w then y.cutDir w (old.dirGroup w) else y) d).noteDirErr
  if [false, true].any (fun w => lost w && (old.link w).up) then d1.sendTopo.ringChanged else d1

/-- The journal stream let run again (12 R332, R333). -/
def Dev.resumeStream (d : Dev) : Dev := ({ d with cairn := { d.cairn with streamStop := false } }).pump

/-- What follows a stored write of a register. -/
def Dev.after (d old : Dev) (t : PageT) (i page off : Nat) (v : W32) : Dev :=
  match t, off with
  | _, 0x008 => if bit v 30 then d.resync page else d
  | _, 0x014 =>
    let rises := (d.reg (page * 4096 + 0x14)) &&& ~~~(old.reg (page * 4096 + 0x14))
    if rises &&& d.reg (page * 4096 + 0x10) != 0 then d.sendMsix (d.rf (page * 4096 + 8) 0 11) else d
  | .lg, 0x100 => if fld v 16 3 != old.lgMode i && old.laneBusy i then d else d.afterLgCfg old i
  | .uaska, 0x100 => d.afterUkCtl old
  | .mac, 0x100 => let d1 := d.releaseLane i; if bit v 31 then d1 else d1.portDown i
  | .cairn, 0x130 => d.pump
  | .pcie, 0x10C => if bit v 30 && old.rbit (rk .pcie 0 0x10C) 30 && d.pci.up && !d.pci.d3 then d.resumeStream else d
  | _, _ => d

/-- A write that a register handles by its own rule; none: the generic write. -/
def Dev.special (fz : Fuses) (d : Dev) (m : RegMaster) (t : PageT) (i page : Nat) (rd : RegDef) (idx : Nat) (v : W32) : Option Dev :=
  let k := page * 4096 + rd.off
  match t, rd.off with
  | _, 0x018 => some (d.clearCap k v)
  | _, 0x028 => some (d.writeLock page (masterId m) v)
  | .devctl, 0x100 => if d.armed then some (d.cfgErr page) else none
  | .devctl, 0x104 => if d.armed then some (d.cfgErr page) else none
  | .devctl, 0x108 => some (d.writeSwapCtl v)
  | .ucBcast, 0x100 => some (if bit v 0 then d.startLoad fz.rollback false else d)
  | .gratDb, 0x104 => some (if bit v 0 then d.popBell idx else d)
  | .cairn, 0x100 => some (d.writeCairnCtl v)
  | .cairnCh, 0x110 => some (d.writeCons (32 * i + idx) v)
  | .skey, 0x104 => if d.fill.isSome then some (d.cfgErr page) else none
  | .skey, 0x108 => if d.fill.isSome then some (d.cfgErr page) else none
  | .skey, 0x10C => some (d.writeSkData v)
  | .skey, 0x110 => some (d.writeSkFill v)
  | .gatelog, 0x504 => some (d.writeTail page k (page * 4096 + 0x500) v)
  | .dstore, 0x110 => some (d.writeDsCtl v)
  | .gslot, 0x910 => some (d.clearCap k v)
  | .gate, 0x100 => some (d.writeGwCtl i idx v)
  | .gate, 0x104 => some (d.writeGwRange i idx false v)
  | .gate, 0x108 => some (d.writeGwRange i idx true v)
  | .gate, 0x220 => some (d.clearCap k v)
  | .dmaCh, 0x100 => some (d.writeChCtl (64 * i + idx) v)
  | .ptp, 0x10C => some (if bit v 0 then { d with ptp := d.ptp.drop 1 } else d)
  | .mbx, 0x200 => some (d.setReg (rk .mbx 0 (0x220 + 4 * idx)) (d.reg (rk .mbx 0 (0x220 + 4 * idx)) ||| v))
  | .mode, 0x104 => some (d.modeReq v)
  | .power, 0x100 => some (d.writePdCtl v)
  | .power, 0x108 => some (d.writeFence v)
  | .health, 0x108 => some (if fld v 16 16 ≠ 0x5752 then d.cfgErr page else if bit v 0 then d.askWarm 0x15 else d)
  | .health, 0x604 => some (d.writeTail page k (page * 4096 + 0x600) v)
  | .datum, 0x110 => some (if bit v 0 then d.loadMeridian else d)
  | .datum, 0x114 => some (d.writeCivOff false v)
  | .datum, 0x118 => some (d.writeCivOff true v)
  | .cartouche, 0x1A0 => some (if bit v 0 then d.atGo fz else d)
  | .survey, 0x100 => some (d.writeSvCtl fz m v)
  | .survey, 0x140 => some (d.svWord v)
  | .coreProt, 0x200 => some (d.writeBr i idx 0 v)
  | .coreProt, 0x204 => some (d.writeBr i idx 1 v)
  | .coreProt, 0x208 => some (d.writeBr i idx 2 v)
  | .coreProt, 0x20C => some (d.writeBr i idx 3 v)
  | .coreProt, 0x210 => some (d.writeBr i idx 4 v)
  | _, _ => none

/-! ### A write (R290 to R298) -/

/-- Whether a register holds no writable field; the channels of the Graticule are read-only to every master (09 R233). -/
def readOnly (t : PageT) (i : Nat) (rd : RegDef) (idx : Nat) : Bool :=
  (rd.rw == 0 && rd.rws == 0 && rd.rwl == 0 && rd.w1c == 0 && rd.wo == 0) || (t = .dmaCh && rd.off ≥ 0x100 && (64 * i + idx) % 256 ≥ 240)

/-- A 32-bit write to a register of a present page, its locks checked. -/
def Dev.writeReg (fz : Fuses) (d : Dev) (m : RegMaster) (t : PageT) (i page off : Nat) (rd : RegDef) (idx : Nat) (v : W32) : Dev :=
  if readOnly t i rd idx then d.logErr page .writeRo true (masterId m) page off
  else if d.locked t page idx rd && rd.off ≠ 0x28 then
    let d1 := d.logErr page .locked true (masterId m) page off
    if t = .gate then d1.cfgSt i idx 4 else d1
  else match d.special fz m t i page rd idx v with
    | some d1 => d1
    | none =>
      let k := page * 4096 + off
      (d.writeFields page k (d.badBits t i rd.off idx v (d.reg k)) rd v).after d t i page rd.off v

/-- A register write by a master: false when its slot denies it. -/
def Dev.busWrite (fz : Fuses) (d : Dev) (m : RegMaster) (page off : Nat) (be : BitVec 4) (v : W32) : Dev × Bool :=
  if !d.reaches m true then (d, true)
  else match d.access m page off true with
    | (d1, .error denied) => (d1, !denied)
    | (d1, .ok (r, i)) =>
      match regDefAt r.type off with
      | none => (d1.logErr page .unmapped true (masterId m) page off, true)
      | some (rd, idx) =>
        if be ≠ 0xF then (d1.logErr page .size true (masterId m) page off, true) else (d1.writeReg fz m r.type i page off rd idx v, true)

end Sys2Proof.Machine
end

