-- ==== Sys2Proof/Machine/Boot.lean ====
section
/-!
DEFINITION. Crozier (14 R370 to R378, R383): the stages S0 to S3, the slot checks of Table 14.6, and the commands of the boot firmware
(Table 14.5).
-/
namespace Sys2Proof.Machine

/-- A command that changes fuses and device. -/
def onBoot (f : Fuses → Dev → Fuses × Dev) (s : State) : Host.Outcome State Fault Refusal :=
  .next { s with fuse := (f s.fuse s.dev).1, dev := (f s.fuse s.dev).2 }

/-- A register write by a master on the bus (R290). -/
def onBus (m : RegMaster) (page off : Nat) (be : BitVec 4) (v : W32) (s : State) : Host.Outcome State Fault Refusal :=
  onDev (fun d => (d.busWrite s.fuse m page off be v).1) s

/-! ### The UART (R375) -/

/-- A hexadecimal digit. -/
def hexDigit (n : Nat) : Byte := BitVec.ofNat 8 (if n < 10 then 48 + n else 55 + n)

/-- Two hexadecimal digits. -/
def hex2 (n : Nat) : List Byte := [hexDigit (n / 16 % 16), hexDigit (n % 16)]

/-- ASCII of a text. -/
def ascii (t : String) : List Byte := t.toList.map (fun ch => BitVec.ofNat 8 ch.toNat)

/-- A line sent. -/
def Dev.line (d : Dev) (bs : List Byte) : Dev := d.emit (.uart bs)

/-- The line of a slot checked. -/
def Dev.slotLine (d : Dev) (n st : Nat) : Dev := d.line (ascii "CROZIER SLOT " ++ [hexDigit n] ++ ascii " STATUS " ++ hex2 st)

/-! ### The image (R371, R372, R374) -/

/-- Whether Table 14.2 accepts a KEYSEL. -/
def keyAccepted (fz : Fuses) (k : Nat) : Bool :=
  if k = 0 then fz.ownerHash == 0 || !fz.ownerOnly else k == 1 && fz.ownerHash != 0

/-- Slot size. -/
def slotSize : Nat := 0x100_0000

/-- PATCHDIR: used entries within the slot, unused ones 0. -/
def patchDirOk (im : List Byte) : Bool :=
  (List.range 8).all (fun i =>
    let o := beAt im (0x60 + 8 * i) 4
    let n := beAt im (0x64 + 8 * i) 4
    if i < beAt im 0x11 1 then decide (o + n ≤ slotSize) else o == 0 && n == 0)

/-- Checks 1 to 7 of Table 14.6: the status of the first that fails. -/
def slotStatus (fz : Fuses) (im : List Byte) : Option Nat :=
  let fwl := beAt im 0x14 4
  let dl := beAt im 0x18 4
  let doff := beAt im 0x1C 4
  let fuseKey := if beAt im 0xA 1 = 0 then Config.rootHash else fz.ownerHash
  if im.length < 0x2000 then some 9
  else if beAt im 0 4 ≠ 0x414B4249 || beAt im 4 2 ≠ 1 || beAt im 6 2 ≠ 0x120 || beAt im 8 2 ≠ 3 || beAt im 0xB 1 ≠ 0 || beAt im 0xA0 96 ≠ 0 ||
      beAt im 0x1FD0 48 ≠ 0 then some 1
  else if fwl % 2 ≠ 0 || fwl < 2 || fwl > 131072 || dl > 261888 || doff % 4096 ≠ 0 || doff < 0x2000 + fwl || doff + dl > slotSize ||
      beAt im 0x11 1 > 8 || !patchDirOk im then some 2
  else if !keyAccepted fz (beAt im 0xA 1) then some 3
  else if sha256 (slice im 0x100 32) ≠ toBytes 32 fuseKey.toNat then some 4
  else if beAt im 0x10 1 < fz.rollback then some 5
  else if !slhVerify (slice im 0x100 32) (slice im 0 0x120) (slice im 0x120 7856) then some 6
  else none

/-- Firmware and data bytes of an image. -/
def imageFw (im : List Byte) : List Byte := slice im 0x2000 (beAt im 0x14 4)
/-- The data. -/
def imageData (im : List Byte) : List Byte := slice im (beAt im 0x1C 4) (beAt im 0x18 4)

/-- Checks 8 and 9, in S2; a slot that ends short of its parts does not complete its reads. -/
def digestStatus (im : List Byte) : Option Nat :=
  if (imageFw im).length ≠ beAt im 0x14 4 || (imageData im).length ≠ beAt im 0x18 4 then some 9
  else if sha256 (imageFw im) ≠ slice im 0x20 32 then some 7
  else if sha256 (imageData im) ≠ slice im 0x40 32 then some 8
  else none

/-- Status of a slot, with the stage that gave it: 1 or 2. -/
def slotResult (fz : Fuses) (im : List Byte) : Option (Nat × Nat) :=
  match slotStatus fz im with
  | some st => some (1, st)
  | none => (digestStatus im).map (fun st => (2, st))

/-! ### The stages (R373 to R375) -/

/-- CZ_STS. -/
def czSts : Nat := rk .crozier 0 0x100

/-- Crozier holds with a status, at a stage: CORE[0] held, nothing but a reset goes on. -/
def Dev.czHold (d : Dev) (stage st : Nat) : Dev :=
  let d1 := (((d.setRf czSts 31 1 1).setRf czSts 24 3 stage).setRf czSts 0 8 st).modCore 0 (fun x => { x with run := .held })
  { d1 with boot := { d1.boot with ready := false, s4 := false } }.line (ascii "CROZIER HOLD " ++ hex2 st)

/-- Program store and working store of CORE[0] written whole: what an image gives, and zeros above it (S2, S3). -/
def Dev.fillBoot (d : Dev) (fw data : List Byte) : Dev :=
  ((d.setBytes (Tier.prog 0).base (padTo 0x2_0000 fw)).store (.working 0) 0x102 (workBase 0) (padTo 0x4_0000 data))

/-- S0: the EPOCH step after a power-on reset, and the identity; none: EPOCH_SPENT. -/
def Dev.bootS0 (fz : Fuses) (d : Dev) : Option (Fuses × Dev) :=
  let d1 := (d.setRegs (cartKey 0x100) [BitVec.ofNat 32 Config.serial.toNat, BitVec.ofNat 32 (Config.serial.toNat / 2 ^ 32)]).setDigest (cartKey 0x120) pkHash
  if !d.boot.epochDue then some (fz, d1)
  else if fz.epoch ≥ 1024 then none
  else
    some ({ fz with epoch := fz.epoch + 1 },
      { (d1.setReg (rk .cairn 0 0x108) 0).setReg (rk .cairn 0 0x10C) (BitVec.ofNat 32 ((fz.epoch + 1) * 256)) with
          boot := { d1.boot with epochDue := false } })

/-- S2 and S3 with an accepted image: the stores, the measurement, and CORE[0] released at ENTRY in bank B0; S4 begins. -/
def Dev.bootImage (d : Dev) (n : Nat) (im : List Byte) : Dev :=
  let d1 := ((d.fillBoot (imageFw im) (imageData im)).setDigest (cartKey 0x140) (sha256 (slice im 0 0x120))).setReg (rk .crozier 0 0x108)
    (BitVec.ofNat 32 (beAt im 0xC 4))
  let d2 := ((d1.setRf czSts 30 1 n).setRf czSts 24 3 4).setRf czSts 0 8 0
  let d3 := (installImages 0 d2).modCore 0 (fun x => (x.setBank 0 { x.bank 0 with pc := BitVec.ofNat 16 (beAt im 0x12 2) }).release)
  { d3.modCore 0 (fun x => { x with pool := false }) with
      boot := { d3.boot with ready := false, s4 := true, keysel := beAt im 0xA 1, rollback := beAt im 0x10 1 } }.line (ascii "CROZIER RUN")

/-- One slot checked: its status kept and reported; a slot that fails in S2 leaves the stores zeroed. -/
def Dev.checkSlot (fz : Fuses) (d : Dev) (n : Nat) (im : List Byte) : Dev × Option (Nat × Nat) :=
  match slotResult fz im with
  | none => (d.slotLine n 0, none)
  | some (stage, st) =>
    let d1 := ((d.setRf czSts 30 1 n).setRf czSts (16 - 8 * n) 8 st).slotLine n st
    (if stage = 2 then d1.fillBoot [] [] else d1, some (stage, st))

/-- Crozier runs S0 to S3 on the two flash slots. From DATUM the climb comes first. -/
def crozierStart (slot0 slot1 : List Byte) (fz : Fuses) (d : Dev) : Fuses × Dev :=
  let d0 := d.tryClimb
  if d0.mode ≠ .crozier || !d0.boot.ready then (fz, d0)
  else match d0.bootS0 fz with
    | none => (fz, (d0.setRf czSts 16 8 0xB).czHold 0 0xB)
    | some (f1, d1) =>
      match d1.checkSlot f1 0 slot0 with
      | (d2, none) => (f1, d2.bootImage 0 slot0)
      | (d2, some _) =>
        match d2.checkSlot f1 1 slot1 with
        | (d3, none) => (f1, d3.bootImage 1 slot1)
        | (d3, some (stage, st)) => (f1, d3.czHold stage st)

/-- S1, S2 or S3 overruns its limit with this slot, whose earlier checks pass: none when they do not, so that the stage is not reached. -/
def Dev.slotTimeout (fz : Fuses) (d : Dev) (stage n : Nat) (im : List Byte) : Option Dev :=
  let late (y : Dev) (st : Nat) : Dev := (if st = 0 then y else y.setRf czSts (16 - 8 * n) 8 st).slotLine n st
  let d1 := d.setRf czSts 30 1 n
  match stage with
  | 1 => some ((late d1 0xA).czHold 1 0xA)
  | 2 => if (slotStatus fz im).isNone then some ((late d1 0xA).czHold 2 0xA) else none
  | _ =>
    if (slotResult fz im).isSome then none
    else
      some ((((late d1 0).setBytes (Tier.prog 0).base (imageFw im)).store (.working 0) 0x102 (workBase 0) (imageData im)).czHold 3 0xA)

/-- A stage overruns its limit (R373). S0: nothing of it is done. S1 to S3: S0 has run, and with `second` slot 0 has failed, its status
kept (R374). S4: while the firmware runs. A stage that the slots do not reach does not time out. -/
def bootTimeout (stage : Nat) (second : Bool) (slot0 slot1 : List Byte) (fz : Fuses) (d : Dev) : Fuses × Dev :=
  if d.mode ≠ .crozier then (fz, d)
  else if stage = 4 then (fz, if d.boot.s4 then d.czHold 4 0xA else d)
  else if !d.boot.ready then (fz, d)
  else if stage = 0 then (fz, d.czHold 0 0xA)
  else match d.bootS0 fz with
    | none => (fz, d)
    | some (f1, d1) =>
      let late :=
        if !second then d1.slotTimeout f1 stage 0 slot0
        else match d1.checkSlot f1 0 slot0 with
          | (d2, some _) => d2.slotTimeout f1 stage 1 slot1
          | (_, none) => none
      match late with
      | some d2 => (f1, d2)
      | none => (fz, d)

/-! ### The commands of S4 (R376, R377) -/

/-- The command slot. -/
def czSlot : Nat := workBase 0 + 0x3_FF80

/-- An argument of the command: `n` bytes at an offset of the slot. -/
def Dev.czArg (d : Dev) (off n : Nat) : Nat := ofBytes (d.bytes (czSlot + off) n)

/-- Bytes written by Crozier into the slot. -/
def Dev.czPut (d : Dev) (off : Nat) (bs : List Byte) : Dev := d.store (.working 0) 0x102 (czSlot + off) bs

/-- A command ended: its status, then 0 in the command byte. -/
def Dev.czEnd (d : Dev) (st : Nat) : Dev := (d.czPut 1 (toBytes 1 st)).czPut 0 [0]

/-- Whether Crozier reads commands: in S4, while CORE[0] runs. -/
def Dev.czReads (d : Dev) : Bool := d.mode == .crozier && d.boot.s4 && (d.core 0).run != .held && (d.core 0).run != .stopped

/-- Crozier reads the slot, and executes the command when it holds this code; a code that Table 14.5 lacks ends as UNKNOWN. -/
def czCommand (code : Nat) (f : Fuses → Dev → Fuses × Dev) (fz : Fuses) (d : Dev) : Fuses × Dev :=
  let c := (d.byte czSlot).toNat
  if !d.czReads then (fz, d)
  else if c = code then f fz d
  else if c > 9 then (fz, d.czEnd 0xFE)
  else (fz, d)

/-- FLASH_COPY. -/
def Dev.flashCopy (d : Dev) (flash : List Byte) : Dev :=
  let n := d.czArg 0xC 4
  let a := d.czArg 0x10 5
  let ok := match tierOf a, tierOf (a + (n - 1)) with
    | some (.thallus _), some (.thallus _) => true
    | some .deep, some .deep => true
    | some (.working 0), some (.working 0) => true
    | _, _ => false
  if flash.length < n then d
  else if !ok || (d.rangeFault a n).isSome then d.czEnd 0xFD
  else match d.fabWrite loaderReq a (flash.take n) with
    | (d1, none) => d1.czEnd 0
    | (d1, some _) => d1.czEnd 0xFD

/-- A register page by the BAR0 offset of an argument; none: the remote window. -/
def czPage (o : Nat) : Option (Nat × Nat) := if o < 0x80_0000 then some (o / 4096, o % 4096) else none

/-- REG_WRITE. -/
def Dev.czWrite (fz : Fuses) (d : Dev) : Dev :=
  match czPage (d.czArg 8 3) with
  | none => d.czEnd 0xFD
  | some (page, off) => (d.busWrite fz .crozier page off 0xF (BitVec.ofNat 32 (d.czArg 0xB 4))).1.czEnd 0

/-- REG_READ. -/
def Dev.czRead (fz : Fuses) (d : Dev) : Dev :=
  match czPage (d.czArg 8 3) with
  | none => d.czEnd 0xFD
  | some (page, off) =>
    match d.busRead fz .crozier page off with
    | (d1, some v) => (d1.czPut 0x10 (toBytes 4 v.toNat)).czEnd 0
    | (d1, none) => (d1.czPut 0x10 (toBytes 4 0)).czEnd 0

/-- PATCH: a load of the image the arguments name, with CORE[0] held; one that passes is committed before CORE[0] is released, and at that
release its pending block-register images are installed (10 R275). While UC_LOAD_CTL is locked its START is ignored and logged (07 R184). -/
def Dev.czPatch (fz : Fuses) (d : Dev) : Dev :=
  let a := d.czArg 8 5
  let n := d.czArg 0xD 4
  if d.rbit (ucKey 0x104) 31 then d.czEnd 0xFD
  else if d.rbit (PageT.first .ucBcast * 4096 + 0x28) 0 then
    (installImages 0 (d.logErr (PageT.first .ucBcast) .locked true 0x102 (PageT.first .ucBcast) 0x100)).czEnd (d.rf (ucKey 0x104) 0 8)
  else
    let d1 := ((d.setReg (ucKey 0x108) (BitVec.ofNat 32 a)).setRf (ucKey 0x10C) 0 8 (a / 2 ^ 32)).setRf (ucKey 0x110) 0 16 n
    let d2 := if n ≥ 2 ^ 16 then d1.endLoad 0x0C else (d1.startLoad fz.rollback true).commitLoad true
    (installImages 0 d2).czEnd (d2.rf (ucKey 0x104) 0 8)

/-- ROLLBACK. -/
def czRollback (fz : Fuses) (d : Dev) : Fuses × Dev :=
  let n := d.czArg 8 1
  if n > d.boot.rollback || n > 64 then (fz, d.czEnd 0xFD) else ({ fz with rollback := max fz.rollback n }, d.czEnd 0)

/-- ENROLL. -/
def czEnroll (fz : Fuses) (d : Dev) : Fuses × Dev :=
  if fz.ownerHash ≠ 0 || d.boot.keysel ≠ 0 then (fz, d.czEnd 0xFD)
  else ({ fz with ownerHash := BitVec.ofNat 256 (d.czArg 8 32) }, d.czEnd 0)

/-- OWNER_ONLY. -/
def czOwnerOnly (fz : Fuses) (d : Dev) : Fuses × Dev :=
  if fz.ownerHash = 0 then (fz, d.czEnd 0xFD) else ({ fz with ownerOnly := true }, d.czEnd 0)

/-- SURVEY_OFF. -/
def czSurveyOff (fz : Fuses) (d : Dev) : Fuses × Dev := ({ fz with surveyDis := true }, d.czEnd 0)

/-- DONE: S4 ends, and the device passes to STANDBY; the shadow digest follows (R382). -/
def Dev.czDone (d : Dev) : Dev :=
  let d1 := (d.czEnd 0).setRf czSts 24 3 5
  { d1 with boot := { d1.boot with s4 := false }, digestDue := true }.enterStandby 0

end Sys2Proof.Machine
end

