-- ==== Sys2Proof/Machine/ExecBoot.lean ====
section
/-!
DEFINITION. The steps of Crozier (14 R373 to R378).
-/
namespace Sys2Proof.Machine

/-- Crozier runs S0 to S3 (14 R373). -/
def execCrozierStart (slot0 slot1 : List Byte) (s : State) : Host.Outcome State Fault Refusal :=
  onBoot (crozierStart slot0 slot1) s

/-- A stage overruns its limit (14 R373). -/
def execBootStageTimeout (stage : Fin 5) (second : Bool) (slot0 slot1 : List Byte) (s : State) : Host.Outcome State Fault Refusal :=
  onBoot (bootTimeout stage.val second slot0 slot1) s

/-- Command 0x01 (14 R376). -/
def execFlashCopy (flash : List Byte) (s : State) : Host.Outcome State Fault Refusal :=
  onBoot (czCommand 1 (fun fz d => (fz, d.flashCopy flash))) s

/-- Command 0x02 (14 R376, R377). -/
def execRegWrite (s : State) : Host.Outcome State Fault Refusal :=
  onBoot (czCommand 2 (fun fz d => (fz, d.czWrite fz))) s

/-- Command 0x03 (14 R376, R377). -/
def execRegRead (s : State) : Host.Outcome State Fault Refusal :=
  onBoot (czCommand 3 (fun fz d => (fz, d.czRead fz))) s

/-- Command 0x04 (14 R376). -/
def execPatch (s : State) : Host.Outcome State Fault Refusal :=
  onBoot (czCommand 4 (fun fz d => (fz, d.czPatch fz))) s

/-- Command 0x05 (14 R376). -/
def execRollback (s : State) : Host.Outcome State Fault Refusal :=
  onBoot (czCommand 5 (fun fz d => czRollback fz d)) s

/-- Command 0x06 (14 R376). -/
def execEnroll (s : State) : Host.Outcome State Fault Refusal :=
  onBoot (czCommand 6 (fun fz d => czEnroll fz d)) s

/-- Command 0x07 (14 R376). -/
def execOwnerOnly (s : State) : Host.Outcome State Fault Refusal :=
  onBoot (czCommand 7 (fun fz d => czOwnerOnly fz d)) s

/-- Command 0x08 (14 R376). -/
def execSurveyOff (s : State) : Host.Outcome State Fault Refusal :=
  onBoot (czCommand 8 (fun fz d => czSurveyOff fz d)) s

/-- Command 0x09 (14 R376). -/
def execCrozierDone (s : State) : Host.Outcome State Fault Refusal :=
  onBoot (czCommand 9 (fun fz d => (fz, d.czDone))) s

end Sys2Proof.Machine
end

