-- ==== Sys2Proof/Machine/HostPort.lean ====
section
/-!
DEFINITION. The host port (12 R327 to R333): the PCIe link, MSI-X, the journal stream's stop, the deep-store window, the remote window and
its flits; the mailboxes (12 R334 to R337).
-/
namespace Sys2Proof.Machine

/-- Key of a PCIE register. -/
def pcKey (off : Nat) : Nat := rk .pcie 0 off

/-! ### The link (R328, R331 to R333) -/

/-- The function's configuration header (R328): Vendor ID, Device ID, class code, Revision ID. -/
structure PciHeader where
  vendor : Nat
  device : Nat
  classCode : Nat
  revision : Nat
  deriving DecidableEq, Repr

/-- The header of this part. -/
def pciHeader : PciHeader := ⟨Config.vendorId.toNat, 0x9640, 0x0B_4000, Config.stepMajor.toNat % 16 * 16 + Config.stepMinor.toNat % 16⟩

/-- Where a BAR's window starts and what it is: number, bytes, prefetchable (Table 12.5). -/
def pciBars : List (Nat × Nat × Bool) := [(0, 2 ^ 24, false), (2, 2 ^ 17, false), (4, 2 ^ 30, true)]

/-- The journal stream stopped: the records written and not read back are to be written again from where they began. -/
def Dev.stopStream (d : Dev) : Dev :=
  if d.cairn.streamStop || d.hsSize = 0 then d
  else
    let back := ((d.cairn.stream.filter (fun r => r.written)).map (fun r => r.bytes.length)).sum
    let head : Int := ((d.reg (caKey 0x12C)).toNat : Int) - back
    let d1 := { d with cairn := { d.cairn with streamStop := true, stream := d.cairn.stream.map (fun (r : SRec) => { r with written := false }) } }
    (d1.setReg (caKey 0x12C) (BitVec.ofInt 32 (head % d.hsSize))).health 0x13 9 1 1 0

/-- The stream let run again, unless a time-out still stands (log entry 40). -/
def Dev.restream (d : Dev) : Dev := if d.rbit (pcKey 0x10C) 30 then d else d.resumeStream

/-- A stream read is not completed in time (R332). -/
def Dev.streamTimeout (d : Dev) : Dev :=
  match d.cairn.stream with
  | r :: _ => if r.written && !d.cairn.streamStop then (d.setRf (pcKey 0x10C) 30 1 1).stopStream else d
  | [] => d

/-- Pending messages of unmasked vectors sent. -/
def Dev.sendPending (d : Dev) : Dev :=
  if !d.pci.sends then d
  else
    (d.pci.pend.filter (fun v => d.pci.unmasked.contains v)).foldl (fun y v =>
      let e := SMap.get (0, 0) y.pci.table v
      y.emit (.msix v e.1 e.2)) { d with pci := { d.pci with pend := d.pci.pend.filter (fun v => !d.pci.unmasked.contains v) } }

/-- The link goes down, or the host resets the function (R333): its configuration space is reset, and the stream stops. -/
def Dev.linkOut (d : Dev) : Dev :=
  if d.mode = .datum then d
  else ({ d with pci := d.pci.resetConfig }).stopStream

/-- The receivers of 15 Table 15.9: of a SerDes lane, of a PCIe lane, of the reference clock. -/
inductive Receiver where
  | serdes (lane : Nat)
  | pcie (lane : Nat)
  | refclk
  deriving DecidableEq, Repr

/-- Whether a receiver presents its termination (15 R399, Table 15.9): that of REFCLK, 100 Ω, while the device is powered; in CROZIER and later modes, with
VDDH_SL, that of a SerDes lane whose group is not off (Table 12.1) and that of a PCIe lane (DESIGN CHOICE, log entry 66). -/
def Dev.terminated (d : Dev) : Receiver → Bool
  | .refclk => d.board.aon
  | .serdes k => d.board.aon && d.rbit railSts 5 && d.mode != .datum && d.lgMode (k / 4) != 0
  | .pcie _ => d.board.aon && d.rbit railSts 5 && d.mode != .datum

/-- The link is up and the host has enabled the function and MSI-X, with this Max_Payload_Size (R333). Without termination the host finds no device
(15 R399). -/
def Dev.linkIn (d : Dev) (speed : BitVec 2) (width : BitVec 4) (mps : Nat) : Dev :=
  if !d.terminated (.pcie 0) then d
  else (({ d with pci := { d.pci with up := true, msixEn := true, msixMask := false, d3 := false, speed := speed, width := width, mps := mps } }).sendPending).restream

/-- The function moved into or out of D3hot (R328). -/
def Dev.d3hot (d : Dev) (enter : Bool) : Dev :=
  if !d.pci.up || d.pci.d3 = enter then d
  else
    let d1 := { d with pci := { d.pci with d3 := enter } }
    if enter then d1.stopStream else (d1.sendPending).restream

/-! ### BAR2 and the mailboxes (R329, R334 to R337) -/

/-- A BAR2 access of the host, checked at the slot of page MBX. -/
def Dev.bar2 (d : Dev) (off : Nat) (f : Dev → Dev) : Dev :=
  if d.mode = .datum then d
  else match d.slotCheck (d.regReq .host) (PageT.first .mbx) (off % 4096) .write with
    | (d1, true) => f d1
    | (d1, false) => d1.errTo .host

/-- A vector's table entry, and whether it is unmasked. -/
def Dev.setVector (d : Dev) (v : Nat) (addr : W64) (data : W32) (open_ : Bool) : Dev :=
  ({ d with pci := { d.pci with table := SMap.put d.pci.table v (addr, data)
                                unmasked := if !open_ then d.pci.unmasked.filter (· != v)
                                            else if d.pci.unmasked.contains v then d.pci.unmasked else d.pci.unmasked ++ [v] } }).sendPending

/-- A vector's table entry written and unmasked (R331). -/
def Dev.msixUnmask (d : Dev) (v : Nat) (addr : W64) (data : W32) : Dev := d.bar2 (0x8000 + 16 * v) (fun y => y.setVector v addr data true)

/-- The four words of a vector's table entry: address, data, and the mask bit. -/
def Dev.vectorWords (d : Dev) (v : Nat) : List W32 :=
  let e := SMap.get (0, 0) d.pci.table v
  [e.1.setWidth 32, (e.1 >>> 32).setWidth 32, e.2, BitVec.ofNat 32 (b2n (!d.pci.unmasked.contains v))]

/-- A mailbox replaced. -/
def Dev.setMbx (d : Dev) (m : Nat) (x : Mbx) : Dev := { d with mbox := SMap.put d.mbox m x }

/-- Whether a mailbox is free. -/
def Mbx.free (x : Mbx) : Bool := !x.busy && x.result.isNone

/-- MBX_STS.REJ set. -/
def Dev.mbxRej (d : Dev) (m : Nat) : Dev := d.setMbx m { d.mbx m with rej := true }

/-- Bytes written into MBX_REQ. -/
def Dev.mbxFill (d : Dev) (m off : Nat) (bs : List Byte) : Dev :=
  let x := d.mbx m
  let r := padTo 256 x.req
  if x.free then d.setMbx m { x with req := (r.take off ++ bs ++ r.drop (off + bs.length)).take 256 } else d.mbxRej m

/-- The next sequence number of a mailbox: counted from 1, skipping 0. -/
def Mbx.nextSeq (x : Mbx) : BitVec 16 := if x.seq + 1 = 0 then 1 else x.seq + 1

/-- The item of a request, on its queue; one whose ring write is denied is never admitted, and is refused as without room (00 R1). -/
def Dev.mbxItem (d : Dev) (m q : Nat) (pl : List Byte) : Dev :=
  let x : Item := { q := q, src := .mbox m, tin := d.mer, itag := BitVec.ofNat 64 (0xFF80 + m), plen := pl.length, exq := false
                    head := padTo 10 (pl.drop 6), ring := d.qFrond q / 8, roff := none }
  match d.arrive x pl with
  | (d1, true) => d1
  | (d1, false) => d1.refuse d.nextItem x 11

/-- A write of MBX_GO (R334, 08 R215). -/
def Dev.mbxStart (d : Dev) (m : Nat) (v : W32) : Dev :=
  let x := d.mbx m
  let k := rk .mbx 0 (0x100 + 4 * m)
  let n := fld v 0 9
  if !bit v 31 then d
  else if d.makesItems && d.rbit k 31 && !d.rbit k 30 && x.free && decide (1 ≤ n ∧ n ≤ 256) then
    (d.setMbx m { x with seq := x.nextSeq, busy := true }).mbxItem m (d.rf k 16 13) ((padTo 256 x.req).take n)
  else d.mbxRej m

/-- A write of MBX_ACK (R337). -/
def Dev.mbxAck (d : Dev) (m : Nat) (v : W32) : Dev :=
  let x := d.mbx m
  if bit v 31 && x.result.isSome && fld v 0 16 == x.seq.toNat then d.setMbx m { x with result := none } else d.mbxRej m

/-- What MBX_RES reads (R336): 0 while no result is held. -/
def Mbx.res (x : Mbx) : W32 :=
  match x.result with
  | none => 0
  | some (kind, bs) => BitVec.ofNat 32 (2 ^ 31 + kind % 8 * 2 ^ 28 + x.seq.toNat * 2 ^ 12 + bs.length % 256)

/-- What MBX_STS reads. -/
def Mbx.sts (x : Mbx) : W32 := BitVec.ofNat 32 (b2n x.busy * 2 ^ 31 + b2n x.rej * 2 ^ 30 + x.seq.toNat)

/-- The 240 bytes MBX_DATA reads (R336): 0 while no result is held. -/
def Mbx.data (x : Mbx) : List Byte :=
  match x.result with
  | none => zeros 240
  | some (_, bs) => padTo 240 bs

/-- A word with the bytes that a write enables replaced; byte lane 0 is bits 7:0. -/
def mergeLanes (be : BitVec 4) (old v : W32) : W32 :=
  let m : W32 := BitVec.ofNat 32 (((List.range 4).map (fun i => b2n (be.getLsbD i) * (0xFF * 2 ^ (8 * i)))).sum)
  (old &&& ~~~m) ||| (v &&& m)

/-- The bytes of a word in lane order, lowest address first. -/
def laneBytes (v : W32) : List Byte := (toBytes 4 v.toNat).reverse

/-- What a host write of one word does at a BAR2 offset, past its slot (R329, and the registers of MBX): bit 30 of MBX_STS is W1C, a write of
MBX_RES or MBX_DATA is logged as WRITE_RO (00 R11), and the lanes that a write leaves out stay as they are in MBX_REQ and the MSI-X table, and are 0
elsewhere (log entry 68). -/
def Dev.bar2Word (d : Dev) (off : Nat) (be : BitVec 4) (v : W32) : Dev :=
  let m := off / 0x200
  let o := off % 0x200
  let w := mergeLanes be 0 v
  if off % 4 ≠ 0 then d
  else if off < 0x8000 then
    if o < 0x100 then d.mbxFill m o (laneBytes (mergeLanes be (BitVec.ofNat 32 (ofBytes ((slice (padTo 256 (d.mbx m).req) o 4).reverse))) v))
    else if o = 0x100 then d.mbxStart m w
    else if o = 0x108 then d.mbxAck m w
    else if o = 0x10C && bit w 30 then d.setMbx m { d.mbx m with rej := false }
    else if o = 0x104 || 0x110 ≤ o then d.logErr (PageT.first .mbx) .writeRo true 0x300 (PageT.first .mbx) off
    else d
  else if off < 0x1_0000 then
    let n := (off - 0x8000) / 16
    let ws := (d.vectorWords n).modify (off % 16 / 4) (fun x => mergeLanes be x v)
    let g (i : Nat) : Nat := (ws.getD i 0).toNat
    d.setVector n (BitVec.ofNat 64 (g 0 + g 1 * 2 ^ 32)) (ws.getD 2 0) (!(g 3).testBit 0)
  else d

/-- A host write of one word in BAR2. -/
def Dev.bar2Write (d : Dev) (off : Nat) (be : BitVec 4) (v : W32) : Dev := d.bar2 off (fun y => y.bar2Word off be v)

/-- What a word of BAR2 holds (R329, R336): 0 at an offset that Table 12.5 does not name. -/
def Dev.bar2View (d : Dev) (off : Nat) : W32 :=
  let x := d.mbx (off / 0x200)
  let o := off % 0x200
  let lanes (bs : List Byte) (k : Nat) : W32 := BitVec.ofNat 32 (ofBytes ((slice bs k 4).reverse))
  if off < 0x8000 then
    if o < 0x100 then lanes (padTo 256 x.req) o
    else if o = 0x104 then x.res
    else if o = 0x10C then x.sts
    else if 0x110 ≤ o then lanes x.data (o - 0x110)
    else 0
  else if off < 0x1_0000 then (d.vectorWords ((off - 0x8000) / 16)).getD (off % 16 / 4) 0
  else if off < 0x1_0100 then BitVec.ofNat 32 (bitsOf 32 (fun i => d.pci.pend.contains ((off - 0x1_0000) * 8 + i)))
  else 0

/-- A host read of one word in BAR2, checked at the slot of page MBX: the completion's data is 0 when the slot denies it. -/
def Dev.bar2Read (d : Dev) (off : Nat) : Dev :=
  if d.mode = .datum then d
  else match d.slotCheck (d.regReq .host) (PageT.first .mbx) (off % 4096) .read with
    | (d1, true) => d1.emit (.hostRead (laneBytes (d1.bar2View (off / 4 * 4))))
    | (d1, false) => (d1.errTo .host).emit (.hostRead (zeros 4))

/-! ### Configuration space (R328, R331); the places of its registers are log entry 73 -/

/-- Bits of word w of the base addresses that the host writes, and the bits that read as they are: two words each for BAR0, BAR2 and BAR4. -/
def barWord (w : Nat) : W32 × W32 :=
  match pciBars[w / 2]? with
  | some (_, size, pre) => if w % 2 = 1 then (0xFFFF_FFFF, 0) else (BitVec.ofNat 32 (2 ^ 32 - size), if pre then 0xC else 0x4)
  | none => (0, 0)

/-- A word of the configuration space: the header, its base addresses, the Power Management, PCI Express and MSI-X capabilities and AER; 0
at every other offset. -/
def Pci.config (p : Pci) (o : Nat) : W32 :=
  let bits := fun l => BitVec.ofNat 32 ((l.map (fun (x : Nat × Nat) => x.1 * 2 ^ x.2)).sum)
  if 0x10 ≤ o ∧ o < 0x28 then SMap.get 0 p.bars ((o - 0x10) / 4) ||| (barWord ((o - 0x10) / 4)).2
  else match o with
  | 0x00 => bits [(pciHeader.device, 16), (pciHeader.vendor, 0)]
  | 0x04 => 0x0010_0006
  | 0x08 => bits [(pciHeader.classCode, 8), (pciHeader.revision, 0)]
  | 0x34 => 0x40
  | 0x40 => 0x0003_5001
  | 0x44 => if p.d3 then 3 else 0
  | 0x50 => 0x0002_9010
  | 0x54 => 0x8022
  | 0x58 => bits [(b2n p.extTag, 8), (if p.mps = 512 then 2 else if p.mps = 256 then 1 else 0, 5)]
  | 0x5C => 0x85
  | 0x60 => bits [(p.width.toNat, 20), (p.speed.toNat + 2, 16)]
  | 0x90 => bits [(b2n p.msixEn, 31), (b2n p.msixMask, 30), (0x7FF, 16), (0x11, 0)]
  | 0x94 => 0x8002
  | 0x98 => 0x1_0002
  | 0x100 => 0x0002_0001
  | 0x104 => p.aerUnc
  | 0x110 => p.aerCor
  | _ => 0

/-- The configuration space after a write: `m` the bits written, `v` their values. AER's status bits are cleared by a 1; a
Max_Payload_Size above 512 is not taken. -/
def Pci.configWrite (p : Pci) (o : Nat) (m v : W32) : Pci :=
  let new := (p.config o &&& ~~~m) ||| (v &&& m)
  if 0x10 ≤ o ∧ o < 0x28 then { p with bars := SMap.put p.bars ((o - 0x10) / 4) (new &&& (barWord ((o - 0x10) / 4)).1) }
  else match o with
  | 0x58 => { p with extTag := bit new 8, mps := if fld new 5 3 ≤ 2 then 128 * 2 ^ fld new 5 3 else p.mps }
  | 0x90 => { p with msixEn := bit new 31, msixMask := bit new 30 }
  | 0x104 => { p with aerUnc := p.aerUnc &&& ~~~(v &&& m) }
  | 0x110 => { p with aerCor := p.aerCor &&& ~~~(v &&& m) }
  | _ => p

/-- A host write into a word of the configuration space, while the link is up: the power states D0 and D3hot, and messages that an unmasked
and enabled MSI-X lets go (R331). -/
def Dev.configWrite (d : Dev) (o : Nat) (bs : List Byte) : Dev :=
  let w := o / 4 * 4
  let lanes (f : Byte → Byte) : W32 := BitVec.ofNat 32 (ofBytes ((padTo 4 (zeros (o % 4) ++ bs.map f)).reverse))
  let m := lanes (fun _ => 0xFF)
  let v := lanes (fun b => b)
  if d.mode = .datum || !d.pci.up then d
  else if w = 0x44 then
    match fld ((d.pci.config w &&& ~~~m) ||| (v &&& m)) 0 2 with
    | 0 => d.d3hot false
    | 3 => d.d3hot true
    | _ => d
  else ({ d with pci := d.pci.configWrite w m v }).sendPending

/-- A host read of a word of the configuration space: its bytes, lowest address first; none while the link is down. -/
def Dev.configRead (d : Dev) (o : Nat) : Dev :=
  if d.mode = .datum || !d.pci.up then d else d.emit (.hostRead (laneBytes (d.pci.config (o / 4 * 4))))

/-- A host read of one word at an offset of the model's own (log entry 13): BAR2 below 2^17, the register pages of BAR0 from 2^30 on, the
configuration space from 2^31 on. -/
def Dev.hostRead (fz : Fuses) (d : Dev) (o : Nat) : Dev :=
  if d.mode = .datum then d
  else if o < 2 ^ 17 then d.bar2Read o
  else if 2 ^ 31 ≤ o then d.configRead (o % 4096)
  else if o < 2 ^ 30 || 2 ^ 30 + 2 ^ 23 ≤ o then d
  else match d.busRead fz .host (o % 2 ^ 23 / 4096) (o % 4096 / 4 * 4) with
    | (d1, some v) => d1.emit (.hostRead (toBytes 4 v.toNat))
    | (d1, none) => d1.emit (.hostRead (zeros 4))

/-! ### The deep-store window (R329, R330) -/

/-- The error response to a host access; a read completes with zeros. -/
def Dev.hostFail (d : Dev) (read : Option Nat) : Dev :=
  match read with
  | some n => (d.errTo .host).emit (.hostRead (zeros n))
  | none => d.errTo .host

/-- A BAR4 access: bytes written, or `len` bytes read. -/
def Dev.bar4 (d : Dev) (off : Nat) (write : Option (List Byte)) (len : Nat) : Dev :=
  let a := d.rf (pcKey 0x104) 0 4 * 2 ^ 30 + off
  let n := match write with
    | some bs => bs.length
    | none => len
  if d.mode = .datum || off + n > 2 ^ 30 || n = 0 then d
  else if (d.rangeFault a n).isSome then d.hostFail (if write.isNone then some n else none)
  else match write with
    | some bs =>
      (match d.fabWrite (d.regReq .host) a bs with
        | (d1, none) => d1
        | (d1, some _) => d1.hostFail none)
    | none =>
      (match d.fabRead (d.regReq .host) a n with
        | (d1, .ok bs) => d1.emit (.hostRead bs)
        | (d1, .error _) => d1.hostFail (some n))

/-! ### The remote window (R327); the layout of its flits is log entry 41 -/

/-- The payload of an RREQ. -/
def rreqBytes (tag off : Nat) (write : Option W32) : List Byte :=
  toBytes 1 tag ++ toBytes 1 (b2n write.isSome) ++ toBytes 3 off ++ toBytes 4 (match write with
    | some v => v.toNat
    | none => 0)

/-- A host access to the remote window at an offset of BAR0's upper half. -/
def Dev.remoteWindow (d : Dev) (off : Nat) (write : Option W32) : Dev :=
  let t := d.rf (ukKey 0x110) 0 3
  let tag := d.uk.nextTag
  if d.mode = .datum then d
  else if !d.live t then d.hostFail (if write.isNone then some 4 else none)
  else
    ({ d with uk := { d.uk with remote := d.uk.remote ++ [RemoteAcc.mk tag write.isNone t], nextTag := (tag + 1) % 256 } }).sendTo t 0xA0
      (rreqBytes tag (off % 2 ^ 23) write)

/-- An RREQ from device t: the access is made here, and answered. -/
def Dev.takeRreq (fz : Fuses) (d : Dev) (t : Fin 8) (dst : Nat) (pl : List Byte) : Dev :=
  d.arriveFlits t.val dst 0xA0 [pl] (fun y =>
    let off := beAt pl 2 3 % 2 ^ 23
    let rsp (z : Dev) (st v : Nat) : Dev := z.sendTo t.val 0xA1 (toBytes 1 (beAt pl 0 1) ++ toBytes 1 st ++ toBytes 4 v)
    if beAt pl 1 1 % 2 = 1 then
      (match y.busWrite fz (.peer t) (off / 4096) (off % 4096) 0xF (BitVec.ofNat 32 (beAt pl 5 4)) with
        | (z, ok) => rsp z (b2n !ok) 0)
    else
      (match y.busRead fz (.peer t) (off / 4096) (off % 4096) with
        | (z, some v) => rsp z 0 v.toNat
        | (z, none) => rsp z 1 0))

/-- A remote access ended: its read data, or the error response. -/
def Dev.endRemote (d : Dev) (r : RemoteAcc) (data : Option Nat) : Dev :=
  let d1 := { d with uk := { d.uk with remote := d.uk.remote.filter (fun x => x != r) } }
  match data with
  | some v => if r.read then d1.emit (.hostRead (toBytes 4 v)) else d1
  | none => d1.hostFail (if r.read then some 4 else none)

/-- An RRSP from device t. -/
def Dev.takeRrsp (d : Dev) (t dst : Nat) (pl : List Byte) : Dev :=
  d.arriveFlits t dst 0xA1 [pl] (fun y =>
    match y.uk.remote.find? (fun r => r.tag == beAt pl 0 1 && r.dev == t) with
    | none => y
    | some r => y.endRemote r (if beAt pl 1 1 = 0 then some (beAt pl 2 4) else none))

/-- No RRSP within 8 µs. -/
def Dev.remoteTimeout (d : Dev) (tag : Nat) : Dev :=
  match d.uk.remote.find? (fun r => r.tag == tag) with
  | none => d
  | some r => d.endRemote r none

/-! ### Commits and HEALTH records that arrive (R322, R324, 13 R367) -/

/-- A commit message from device t, taken whole. -/
def Dev.takeCmsg (d : Dev) (t dst : Nat) (msg : List Byte) : Dev :=
  d.arriveFlits t dst 0x50 (commitParts (beAt msg 34 1) (beAt msg 40 8) msg) (fun y => y.takeCommit t msg)

/-- A commit acknowledgement from device t. -/
def Dev.takeCack (d : Dev) (t dst : Nat) (pl : List Byte) : Dev :=
  d.arriveFlits t dst 0x51 [pl] (fun y => y.commitAck t (beAt pl 0 1) (beAt pl 1 1) (beAt pl 4 8))

/-- A HEALTH flit from device t: its record is entered in this device's log (log entry 42). -/
def Dev.takeHealth (d : Dev) (t dst : Nat) (rec_ : List Byte) : Dev := d.arriveFlits t dst 0x05 [rec_] (fun y => y.healthLog (padTo 32 rec_))

/-! ### Register accesses without an answer (11 R295) -/

/-- Bits of a value as the JTAG port shifts them out, least significant first (14 R384). -/
def shiftOut (n v : Nat) : List Bool := (List.range n).map (fun i => v.testBit i)

/-- The 80 bits of DBGMEM's data register (14 Table 14.8) after an access: data, address, and 1 for a write (log entry 18). -/
def dbgOut (a : Nat) (write : Bool) (data : Nat) : List Bool := shiftOut 32 data ++ shiftOut 40 a ++ shiftOut 8 (b2n write)

/-- The recovery ladder at the step for a register-bus time-out of a page (13 Table 13.7 level 6). -/
def Dev.busLadder (d : Dev) (t : PageT) (i : Nat) : Dev :=
  match t with
  | .coreUc | .coreProt => d.stepCore i 6
  | _ => match pageThallus t i with
    | some h => d.stepThallus h 6
    | none => d.escalate6 6

/-- What a master gets with the error response of an access that has no answer: a read's 0, and the end of what asked for it (log
entry 68). -/
def Dev.noAnswer (d : Dev) (m : RegMaster) (page off : Nat) (data : Option W32) : Dev :=
  let write := data.isSome
  match m with
  | .host => if write then d else d.emit (.hostRead (zeros 4))
  | .debug => d.emit (.jtag (dbgOut (0xF0_0000_0000 + page * 4096 + off) write (data.getD 0).toNat))
  | .peer p => let (tag, y) := d.drawFree; y.sendTo p.val 0xA1 (toBytes 1 tag.toNat ++ toBytes 1 1 ++ toBytes 4 0)
  | .crozier =>
    if !d.czReads || (d.byte czSlot).toNat ≠ (if write then 2 else 3) then d
    else if write then d.czEnd 0 else (d.czPut 0x10 (toBytes 4 0)).czEnd 0

/-- A page does not answer an access (R295): the error response, TIMEOUT logged in page DEVCTL, and the ladder. `made`: the write was made. -/
def Dev.busTimeout (fz : Fuses) (d : Dev) (m : RegMaster) (page off : Nat) (write : Option W32) (made : Bool) : Dev :=
  if !d.reaches m write.isSome then d
  else match d.access m page off write.isSome with
    | (d1, .error _) => d1
    | (d1, .ok (r, i)) =>
      let d2 := match write, regDefAt r.type off with
        | some v, some (rd, idx) => if made then d1.writeReg fz m r.type i page off rd idx v else d1
        | _, _ => d1
      if d2.mode = .datum then d2
      else (((d2.errTo m).noAnswer m page off write).logErr 0 .timeout write.isSome (masterId m) page off).busLadder r.type i

end Sys2Proof.Machine
end

