-- ==== Sys2Proof/Machine/ExecBus.lean ====
section
/-!
DEFINITION. The writes of the register pages, one row each (11 and the chapters of the pages).
-/
namespace Sys2Proof.Machine

/-- A register write (11 R290, R294), or a host write of a word in BAR2 (12 R329). -/
def execRegisterWrite (m : RegMaster) (page : Fin 2304) (off : Nat) (be : BitVec 4) (v : W32) (s : State) : Host.Outcome State Fault Refusal :=
  if page.val < 2048 then onBus m page.val off be v s
  else onDev (fun d => if m = .host then d.bar2Write ((page.val - 2048) * 0x200 + off % 0x200) be v else d) s

/-- A write of SWAP_CTL.ARM (11 R302). -/
def execSwapArm (m : RegMaster) (arm : Bool) (s : State) : Host.Outcome State Fault Refusal :=
  onBus m (PageT.first .devctl) 0x108 0xF (if arm then 1 else 0) s

/-- A write of SWAP_CTL.NOW (11 R302). -/
def execSwapNow (m : RegMaster) (s : State) : Host.Outcome State Fault Refusal :=
  onBus m (PageT.first .devctl) 0x108 0xF 2 s

/-- A write of SWAP_CTL.DISCARD (11 R303). -/
def execSwapDiscard (m : RegMaster) (s : State) : Host.Outcome State Fault Refusal :=
  onBus m (PageT.first .devctl) 0x108 0xF 4 s

/-- A write of PAGE_CTL.RESYNC that keeps the other fields (11 R303). -/
def execPageResync (m : RegMaster) (page : Fin 2048) (s : State) : Host.Outcome State Fault Refusal :=
  onBus m page.val 8 0xF (s.dev.reg (page.val * 4096 + 8) ||| 0x4000_0000) s

/-- A write of DB_ACK[c].POP (08 R209). -/
def execDbAck (m : RegMaster) (c : CoreId) (s : State) : Host.Outcome State Fault Refusal :=
  onBus m (PageT.first .gratDb) (0x104 + 8 * c.val) 0xF 1 s

/-- A write of HIRQ_SET[i] (12 R338). -/
def execHirqSet (m : RegMaster) (i : Fin 8) (v : W32) (s : State) : Host.Outcome State Fault Refusal :=
  onBus m (PageT.first .mbx) (0x200 + 4 * i.val) 0xF v s

/-- A write of CH_CONS (09 R253). -/
def execChConsWrite (m : RegMaster) (chain : Fin 64) (v : W32) (s : State) : Host.Outcome State Fault Refusal :=
  onBus m (PageT.first .cairnCh + chain.val / 32) (0x110 + 32 * (chain.val % 32)) 0xF v s

/-- A write of CAIRN_CTL.CK_NOW that keeps CKSTREAM (09 R256). -/
def execCkNow (m : RegMaster) (s : State) : Host.Outcome State Fault Refusal :=
  onBus m (PageT.first .cairn) 0x100 0xF (s.dev.reg (caKey 0x100) ||| 1) s

/-- A write of PD_CTL (13 R354). -/
def execPowerDownRequest (m : RegMaster) (v : W32) (s : State) : Host.Outcome State Fault Refusal :=
  onBus m (PageT.first .power) 0x100 0xF v s

/-- A write of PD_CTL (13 R354). -/
def execPowerUpRequest (m : RegMaster) (v : W32) (s : State) : Host.Outcome State Fault Refusal :=
  onBus m (PageT.first .power) 0x100 0xF v s

/-- A write of DS_CTL.TRAIN that keeps INTLV (09 R230). -/
def execDsTrain (m : RegMaster) (s : State) : Host.Outcome State Fault Refusal :=
  onBus m (PageT.first .dstore) 0x110 0xF (s.dev.reg (rk .dstore 0 0x110) ||| 0x8000_0000) s

/-- A write of SK_DATA (10 R279). -/
def execSkData (m : RegMaster) (v : W32) (s : State) : Host.Outcome State Fault Refusal :=
  onBus m (PageT.first .skey) 0x10C 0xF v s

/-- A write of GW_CTL[w] (10 R283). -/
def execGwCtlWrite (m : RegMaster) (g : Fin 549) (w : Fin 16) (v : W32) (s : State) : Host.Outcome State Fault Refusal :=
  onBus m (PageT.first .gate + g.val) (0x100 + 16 * w.val) 0xF v s

/-- A write of GW_BASE[w], or of GW_SIZE[w] (10 R283). -/
def execGwRangeWrite (m : RegMaster) (g : Fin 549) (w : Fin 16) (size : Bool) (v : W32) (s : State) : Host.Outcome State Fault Refusal :=
  onBus m (PageT.first .gate + g.val) ((if size then 0x108 else 0x104) + 16 * w.val) 0xF v s

/-- A write of a GSLOT page's GSLOT_CAPSTS, or of another page's GATE_CAPSTS (10 R286). -/
def execCaptureClear (m : RegMaster) (page : Fin 2048) (v : W32) (s : State) : Host.Outcome State Fault Refusal :=
  onBus m page.val (if (pageOf page.val).any (fun e => e.1.type = .gslot) then 0x910 else 0x220) 0xF v s

/-- A write of GL_TAIL (10 R287). -/
def execGlTailWrite (m : RegMaster) (v : W32) (s : State) : Host.Outcome State Fault Refusal :=
  onBus m (PageT.first .gatelog) 0x504 0xF v s

/-- A write of a word of a block-register image (10 R275). -/
def execBrImageWrite (m : RegMaster) (c : CoreId) (n : Fin 16) (word : Fin 5) (v : W32) (s : State) : Host.Outcome State Fault Refusal :=
  onBus m (PageT.first .coreProt + c.val) (0x200 + 32 * n.val + 4 * word.val) 0xF v s

/-- A write of a page's LOCK (11 R298). -/
def execLockWrite (m : RegMaster) (page : Fin 2048) (v : W32) (s : State) : Host.Outcome State Fault Refusal :=
  onBus m page.val 0x28 0xF v s

/-- A write of UC_LOAD_CTL.START (07 R182). -/
def execUcLoadStart (m : RegMaster) (s : State) : Host.Outcome State Fault Refusal :=
  onBus m (PageT.first .ucBcast) 0x100 0xF 1 s

/-- A write of MODE_REQ naming DATUM (13 R346). -/
def execModeReqDatum (m : RegMaster) (discard : Bool) (s : State) : Host.Outcome State Fault Refusal :=
  onBus m (PageT.first .mode) 0x104 0xF (if discard then 0x4D4F_0010 else 0x4D4F_0000) s

/-- A write of MODE_REQ naming STANDBY (13 R340). -/
def execModeReqStandby (m : RegMaster) (s : State) : Host.Outcome State Fault Refusal :=
  onBus m (PageT.first .mode) 0x104 0xF 0x4D4F_0002 s

/-- A write of MODE_REQ naming RUN (13 R340, 09 R231). -/
def execModeReqRun (m : RegMaster) (s : State) : Host.Outcome State Fault Refusal :=
  onBus m (PageT.first .mode) 0x104 0xF 0x4D4F_0003 s

/-- A write of MODE_REQ naming DRAIN (13 R360). -/
def execModeReqDrain (m : RegMaster) (s : State) : Host.Outcome State Fault Refusal :=
  onBus m (PageT.first .mode) 0x104 0xF 0x4D4F_0005 s

/-- A write of HEALTH_WARM (13 R368). -/
def execHealthWarm (m : RegMaster) (v : W32) (s : State) : Host.Outcome State Fault Refusal :=
  onBus m (PageT.first .health) 0x108 0xF v s

/-- A write of HL_TAIL (13 R369). -/
def execHlTailWrite (m : RegMaster) (v : W32) (s : State) : Host.Outcome State Fault Refusal :=
  onBus m (PageT.first .health) 0x604 0xF v s

/-- A write of FRFENCE (13 R355). -/
def execFrfenceWrite (m : RegMaster) (v : W32) (s : State) : Host.Outcome State Fault Refusal :=
  onBus m (PageT.first .power) 0x108 0xF v s

/-- A write of MER_CTL.LOAD (13 R343). -/
def execMeridianLoad (m : RegMaster) (s : State) : Host.Outcome State Fault Refusal :=
  onBus m (PageT.first .datum) 0x110 0xF 1 s

/-- A write of CIV_OFF_LO or CIV_OFF_HI (13 R344). -/
def execCivOffWrite (m : RegMaster) (hi : Bool) (v : W32) (s : State) : Host.Outcome State Fault Refusal :=
  onBus m (PageT.first .datum) (if hi then 0x118 else 0x114) 0xF v s

/-- A write of LG_CFG (12 R307). -/
def execLgCfgWrite (m : RegMaster) (g : Fin 4) (v : W32) (s : State) : Host.Outcome State Fault Refusal :=
  onBus m (PageT.first .lg + g.val) 0x100 0xF v s

/-- A write of MAC_CFG (12 R306). -/
def execMacCfgWrite (m : RegMaster) (p : Fin 16) (v : W32) (s : State) : Host.Outcome State Fault Refusal :=
  onBus m (PageT.first .mac + p.val) 0x100 0xF v s

/-- A write of RZ_METER[p] (08 R193). -/
def execRzMeterWrite (m : RegMaster) (p : Fin 16) (v : W32) (s : State) : Host.Outcome State Fault Refusal :=
  onBus m (PageT.first .rz) (0x140 + 4 * p.val) 0xF v s

/-- A write of UK_CTL (12 R317). -/
def execUkCtlWrite (m : RegMaster) (v : W32) (s : State) : Host.Outcome State Fault Refusal :=
  onBus m (PageT.first .uaska) 0x100 0xF v s

/-- A write of PTP_TXTS3.POP (12 R315). -/
def execPtpTxtsPop (m : RegMaster) (s : State) : Host.Outcome State Fault Refusal :=
  onBus m (PageT.first .ptp) 0x10C 0xF 1 s

/-- A write of AT_CTL.GO (14 R381). -/
def execAtGo (m : RegMaster) (s : State) : Host.Outcome State Fault Refusal :=
  onBus m (PageT.first .cartouche) 0x1A0 0xF 1 s

/-- A write of SV_CTL.CHAL (14 R385). -/
def execSvChal (m : RegMaster) (s : State) : Host.Outcome State Fault Refusal :=
  onBus m (PageT.first .survey) 0x100 0xF 1 s

/-- A write of SV_DATA (14 R385). -/
def execSvDataWrite (m : RegMaster) (v : W32) (s : State) : Host.Outcome State Fault Refusal :=
  onBus m (PageT.first .survey) 0x140 0xF v s

/-- A write of SV_CTL.SUBMIT (14 R386). -/
def execSvSubmit (m : RegMaster) (s : State) : Host.Outcome State Fault Refusal :=
  onBus m (PageT.first .survey) 0x100 0xF 2 s

/-- A write of SV_CTL.END (14 R388). -/
def execSvEnd (m : RegMaster) (s : State) : Host.Outcome State Fault Refusal :=
  onBus m (PageT.first .survey) 0x100 0xF 4 s

/-- A write of SV_CTL.WARM (14 R387). -/
def execSvWarm (m : RegMaster) (s : State) : Host.Outcome State Fault Refusal :=
  onBus m (PageT.first .survey) 0x100 0xF 8 s

/-- A write of CH_CTL.ABORT that keeps the other fields (09 R244). -/
def execDmaAbort (m : RegMaster) (ch : Fin 1024) (s : State) : Host.Outcome State Fault Refusal :=
  onBus m (PageT.first .dmaCh + ch.val / 64) (0x100 + 32 * (ch.val % 64)) 0xF (s.dev.reg (dcKey ch.val 0) ||| 2) s

/-- A write of CH_CTL.GO that keeps the other fields; the blocks moved before the next command follow (09 R236). -/
def execDmaGo (m : RegMaster) (ch : Fin 1024) (blocks : Nat) (s : State) : Host.Outcome State Fault Refusal :=
  onDev (fun d => Dev.moveBlocks ch.val blocks (d.busWrite s.fuse m (PageT.first .dmaCh + ch.val / 64) (0x100 + 32 * (ch.val % 64)) 0xF (d.reg (dcKey ch.val 0) ||| 1)).1) s

/-- A write of SK_FILL; the frames written before the next command follow (10 R279). -/
def execSkFill (m : RegMaster) (v : W32) (frames : Nat) (s : State) : Host.Outcome State Fault Refusal :=
  onDev (fun d => Dev.runFill frames (d.busWrite s.fuse m (PageT.first .skey) 0x110 0xF v).1) s

/-- A page does not answer an access (11 R295). -/
def execRegisterBusTimeout (m : RegMaster) (page : Fin 2048) (off : Nat) (write : Option W32) (made : Bool) (s : State) : Host.Outcome State Fault Refusal :=
  onDev (fun d => d.busTimeout s.fuse m page.val off write made) s

end Sys2Proof.Machine
end

