-- ==== Sys2Proof/Machine/Abandon.lean ====
section
/-!
DEFINITION. Runs that an interrupt abandons at a walk (05 R129, 06 R158): the meanings of the instructions that can make one.
-/
namespace Sys2Proof.Machine

/-- The run of an instruction: a whole one, the runs of an interruptible one, or one that makes no walk. -/
inductive RunOf where
  | short (sem : Nat → Dec → X Ret)
  | long (l : Long)
  | noWalk

/-- The runs of the instructions that access memory. -/
def runOf : Op → RunOf
  | .ret => .short semRet
  | .ld => .short semLd
  | .st => .short semSt
  | .add => .short semAdd
  | .sub => .short semSub
  | .mul => .short semMul
  | .div => .short semDiv
  | .rem => .short semRem
  | .divu => .short semDivu
  | .remu => .short semRemu
  | .and => .short semAnd
  | .or => .short semOr
  | .xor => .short semXor
  | .shl => .short semShl
  | .shr => .short semShr
  | .sar => .short semSar
  | .rol => .short semRol
  | .ror => .short semRor
  | .ldb => .short semLdb
  | .stb => .short semStb
  | .ldx1 => .short (semLdx 5)
  | .ldx2 => .short (semLdx 6)
  | .stx1 => .short (semStx 5)
  | .stx2 => .short (semStx 6)
  | .adx1 => .short (semAdx 5)
  | .adx2 => .short (semAdx 6)
  | .ldsp => .short semLdsp
  | .stsp => .short (semStx 7)
  | .adsp => .short (semAdx 7)
  | .mfcr => .short semMfcr
  | .mtcr => .short semMtcr
  | .doneI => .short semDone
  | .post => .short semPost
  | .doorb => .short semDoorb
  | .jmpr => .short semJmpr
  | .callr => .short semCallr
  | .invt => .short semInvt
  | .stpw => .short semStpw
  | .ldpw => .short semLdpw
  | .mfb => .short semMfb
  | .mtb => .short semMtb
  | .dld => .short semDld
  | .dst => .short semDst
  | .dadd => .short (semAddSub false)
  | .dsub => .short (semAddSub true)
  | .dmul => .long ⟨setupLong 8 false false, stepMul⟩
  | .ddiv => .long ⟨setupLong 9 true false, stepDiv false⟩
  | .drem => .long ⟨setupLong 10 true true, stepDiv true⟩
  | .dcvb => .short semDcvb
  | .dcvd => .short semDcvd
  | .tally => .short semTally
  | .dcmpb => .short semDcmpb
  | .daddm => .long ⟨setupMm 11, stepMm false⟩
  | .dsubm => .long ⟨setupMm 12, stepMm true⟩
  | .packz => .short semPackz
  | .unpkz => .short semUnpkz
  | .mvs => .long ⟨setupMvs, stepMvs⟩
  | .trs => .long ⟨setupTrs, stepTrs⟩
  | .scn => .long ⟨setupScn, stepScn⟩
  | .edit => .long ⟨setupEdit 5, stepEdit false⟩
  | .edmk => .long ⟨setupEdit 6, stepEdit true⟩
  | .cls => .long ⟨setupCls, stepCls⟩
  | .call => .short semCall
  | .ld8u => .short (semRmLoad 1 false)
  | .ld8s => .short (semRmLoad 1 true)
  | .ld16u => .short (semRmLoad 2 false)
  | .ld16s => .short (semRmLoad 2 true)
  | .ld32u => .short (semRmLoad 4 false)
  | .ld32s => .short (semRmLoad 4 true)
  | .ld64 => .short (semRmLoad 8 false)
  | .st8 => .short (semRmStore 1)
  | .st16 => .short (semRmStore 2)
  | .st32 => .short (semRmStore 4)
  | .st64 => .short (semRmStore 8)
  | .nop | .sync | .fence | .rett | .getw | .wait | .invall | .neg | .lda | .lax1 | .lax2 | .lasp | .inva | .dscl | .bcmp | .jmp | .bcmpl
    | .rrAdd | .rrSub | .rrMul | .mulhs | .mulhu | .rrDiv | .rrDivu | .rrRem | .rrRemu | .rrAnd | .rrOr | .rrXor | .andn | .rrShl | .rrShr
    | .rrSar | .rrRol | .rrRor | .rrNeg | .not | .mov | .slt | .sltu | .faddS | .faddD | .fsubS | .fsubD | .fmulS | .fmulD | .fdivS |
    .fdivD | .fsqrtS | .fsqrtD | .fminS | .fminD | .fmaxS | .fmaxD | .feqS | .feqD | .fltS | .fltD | .fleS | .fleD | .fcvtDS | .fcvtSD |
    .fcvtSL | .fcvtDL | .fcvtLS | .fcvtLD | .ldi | .ldhi | .addi | .andi | .ori | .xori | .shli | .shri | .sari | .roli | .muli => .noWalk

/-- The run of core c at its boundary or trap point, begun with an interrupt that becomes pending `n` cycles into it; where a walk's test
finds it with no byte stored, the run is abandoned: its cycles are charged, the block register it filled stays filled, and the
interrupt is taken (R129). A run that comes to no such test is not abandoned: nothing happens. -/
def Dev.abandonRun (d : Dev) (c n : Nat) : Dev :=
  if !d.executes c || (asyncDue d c).isNone then d
  else match decodeNext d c with
    | .error _ => d
    | .ok i =>
      if !d.romRuns c i.op then d
      else
        let y := d.modCore c (fun x => { x with stored := false, spent := 0, unbilled := 0, paid := false, intAt := some n })
        let clear (z : Dev) : Dev := z.modCore c (fun x => { x with intAt := none })
        match runOf i.op, (d.core c).flight with
        | .short sem, _ =>
          (match (sem c i).run (decodeCycle c y) with
            | .error .abandon z => endStop c (clear z) .abandon
            | .error .uncorr z => endStop c (clear z) .uncorr
            | _ => d)
        | .long l, none =>
          (match (l.setup c i).run (decodeCycle c y) with
            | .error .abandon z => endStop c (clear z) .abandon
            | .error .uncorr z => endStop c (clear z) .uncorr
            | _ => d)
        | .long l, some f =>
          (match (l.step c i f).run y with
            | .error .abandon z => endRun c f (clear z) .abandon
            | .error .uncorr z => endRun c f (clear z) .uncorr
            | _ => d)
        | .noWalk, _ => d

end Sys2Proof.Machine
end

