-- ==== Sys2Proof/Machine/ExecCore.lean ====
section
/-!
DEFINITION. The events of the cores (05, 06, 07, 10, 13).
-/
namespace Sys2Proof.Machine

/-- An asynchronous trap taken at core c, or a run abandoned for one that became pending some cycles into it (05 R122, R129). -/
def execTakeInterrupt (c : CoreId) (abandon : Option Nat) (s : State) : Host.Outcome State Fault Refusal :=
  onDev (fun d => match abandon with
    | none => d.takeAny c.val
    | some n => d.abandonRun c.val n) s

/-- CTIMER of core c reaches 0 (05 R127). -/
def execCoreTimerExpiry (c : CoreId) (s : State) : Host.Outcome State Fault Refusal := onDev (fun d => d.timerOut c.val) s

/-- BUDGET of core c reaches 0 (08 R205). -/
def execBudgetOverrun (c : CoreId) (s : State) : Host.Outcome State Fault Refusal := onDev (fun d => d.budgetOut c.val) s

/-- The grace of core c reaches 0 (08 R205). -/
def execGraceExhausted (c : CoreId) (s : State) : Host.Outcome State Fault Refusal := onDev (fun d => d.graceEnds c.val) s

/-- The sequencer watchdog of core c expires (07 R178). -/
def execWatchdogExpiry (c : CoreId) (s : State) : Host.Outcome State Fault Refusal := onDev (fun d => d.watchdogOut c.val) s

/-- A machine check of core c (07 R172, R173). -/
def execMachineCheck (c : CoreId) (cause : MckCause) (s : State) : Host.Outcome State Fault Refusal := onDev (fun d => d.microCheck c.val cause) s

/-- The prefetch walk of core c completes (10 R271). -/
def execPrefetchWalk (c : CoreId) (s : State) : Host.Outcome State Fault Refusal := onDev (fun d => d.prefetchDone c.val) s

/-- The oldest write-buffer entry of core c is written (05 R143). -/
def execWriteBufferDrain (c : CoreId) (s : State) : Host.Outcome State Fault Refusal := onDev (fun d => drainOne c.val d) s

/-- Core c receives its next item (08 R203, 05 R134). -/
def execItemDispatch (c : CoreId) (stopAfter : Option Nat) (s : State) : Host.Outcome State Fault Refusal := onDev (fun d => d.dispatch c.val stopAfter) s

/-- The context on core c runs past its watchdog (13 R363). -/
def execContextWatchdogExpiry (c : CoreId) (s : State) : Host.Outcome State Fault Refusal := onDev (fun d => d.ctxWatchdog c.val) s

/-- Core c misses its heartbeat (13 R363). -/
def execCoreHeartbeatExpiry (c : CoreId) (s : State) : Host.Outcome State Fault Refusal := onDev (fun d => d.heartbeatOut c.val) s

/-- A core-port transfer of frond f exceeds 64 cc (13 R363). -/
def execFrondSlotTimeout (f : Fin 32) (s : State) : Host.Outcome State Fault Refusal := onDev (fun d => if d.makesItems && d.thOn (f.val / 8) then d.stepFrond f.val 4 else d) s

/-- The loader refills core c (07 R185, R177). -/
def execPatchRefill (c : CoreId) (parityOk : Bool) (s : State) : Host.Outcome State Fault Refusal := onDev (fun d => d.refill c.val parityOk) s

end Sys2Proof.Machine
end

