-- ==== Sys2Proof/Machine/ExecDecimal.lean ====
section
/-!
DEFINITION. The decimal instructions (02).
-/
namespace Sys2Proof.Machine

/-- DLD (02 Table 2.4). -/
def execDld (c : CoreId) (s : State) : Host.Outcome State Fault Refusal := onDev (runInstr c.val .dld semDld) s

/-- DST (02 Table 2.4). -/
def execDst (c : CoreId) (s : State) : Host.Outcome State Fault Refusal := onDev (runInstr c.val .dst semDst) s

/-- DADD (02 Table 2.4). -/
def execDadd (c : CoreId) (s : State) : Host.Outcome State Fault Refusal := onDev (runInstr c.val .dadd (semAddSub false)) s

/-- DSUB (02 Table 2.4). -/
def execDsub (c : CoreId) (s : State) : Host.Outcome State Fault Refusal := onDev (runInstr c.val .dsub (semAddSub true)) s

/-- DSCL (02 Table 2.4). -/
def execDscl (c : CoreId) (s : State) : Host.Outcome State Fault Refusal := onDev (runInstr c.val .dscl semDscl) s

/-- DCVB (02 Table 2.4). -/
def execDcvb (c : CoreId) (s : State) : Host.Outcome State Fault Refusal := onDev (runInstr c.val .dcvb semDcvb) s

/-- DCVD (02 Table 2.4). -/
def execDcvd (c : CoreId) (s : State) : Host.Outcome State Fault Refusal := onDev (runInstr c.val .dcvd semDcvd) s

/-- TALLY (02 R70 to R73). -/
def execTally (c : CoreId) (s : State) : Host.Outcome State Fault Refusal := onDev (runInstr c.val .tally semTally) s

/-- DCMPB (02 Table 2.4). -/
def execDcmpb (c : CoreId) (s : State) : Host.Outcome State Fault Refusal := onDev (runInstr c.val .dcmpb semDcmpb) s

/-- DMUL, passing `points` trap points (02 R69). -/
def execDmul (c : CoreId) (points : Nat) (s : State) : Host.Outcome State Fault Refusal :=
  onDev (runLong c.val .dmul ⟨setupLong 8 false false, stepMul⟩ points) s

/-- DDIV, passing `points` trap points (02 R69). -/
def execDdiv (c : CoreId) (points : Nat) (s : State) : Host.Outcome State Fault Refusal :=
  onDev (runLong c.val .ddiv ⟨setupLong 9 true false, stepDiv false⟩ points) s

/-- DREM, passing `points` trap points (02 R69). -/
def execDrem (c : CoreId) (points : Nat) (s : State) : Host.Outcome State Fault Refusal :=
  onDev (runLong c.val .drem ⟨setupLong 10 true true, stepDiv true⟩ points) s

/-- DADDM, passing `points` trap points (02 R68). -/
def execDaddm (c : CoreId) (points : Nat) (s : State) : Host.Outcome State Fault Refusal :=
  onDev (runLong c.val .daddm ⟨setupMm 11, stepMm false⟩ points) s

/-- DSUBM, passing `points` trap points (02 R68). -/
def execDsubm (c : CoreId) (points : Nat) (s : State) : Host.Outcome State Fault Refusal :=
  onDev (runLong c.val .dsubm ⟨setupMm 12, stepMm true⟩ points) s

end Sys2Proof.Machine
end

