-- ==== Sys2Proof/Machine/ExecFloat.lean ====
section
/-!
DEFINITION. The binary floating-point instructions (04 R106 to R114).
-/
namespace Sys2Proof.Machine

/-- FADD.S (04 R108). -/
def execFaddS (c : CoreId) (s : State) : Host.Outcome State Fault Refusal := onDev (runInstr c.val .faddS (semRrf 4 (fop2 fmtS fadd))) s

/-- FADD.D (04 R108). -/
def execFaddD (c : CoreId) (s : State) : Host.Outcome State Fault Refusal := onDev (runInstr c.val .faddD (semRrf 4 (fop2 fmtD fadd))) s

/-- FSUB.S (04 R108). -/
def execFsubS (c : CoreId) (s : State) : Host.Outcome State Fault Refusal := onDev (runInstr c.val .fsubS (semRrf 4 (fop2 fmtS fsub))) s

/-- FSUB.D (04 R108). -/
def execFsubD (c : CoreId) (s : State) : Host.Outcome State Fault Refusal := onDev (runInstr c.val .fsubD (semRrf 4 (fop2 fmtD fsub))) s

/-- FMUL.S (04 R108). -/
def execFmulS (c : CoreId) (s : State) : Host.Outcome State Fault Refusal := onDev (runInstr c.val .fmulS (semRrf 5 (fop2 fmtS fmul))) s

/-- FMUL.D (04 R108). -/
def execFmulD (c : CoreId) (s : State) : Host.Outcome State Fault Refusal := onDev (runInstr c.val .fmulD (semRrf 5 (fop2 fmtD fmul))) s

/-- FDIV.S (04 R108). -/
def execFdivS (c : CoreId) (s : State) : Host.Outcome State Fault Refusal := onDev (runInstr c.val .fdivS (semRrf 16 (fop2 fmtS fdiv))) s

/-- FDIV.D (04 R108). -/
def execFdivD (c : CoreId) (s : State) : Host.Outcome State Fault Refusal := onDev (runInstr c.val .fdivD (semRrf 28 (fop2 fmtD fdiv))) s

/-- FSQRT.S (04 R108). -/
def execFsqrtS (c : CoreId) (s : State) : Host.Outcome State Fault Refusal := onDev (runInstr c.val .fsqrtS (semRrf 18 (fop2 fmtS (fun f r u a _ => fsqrt f r u a)))) s

/-- FSQRT.D (04 R108). -/
def execFsqrtD (c : CoreId) (s : State) : Host.Outcome State Fault Refusal := onDev (runInstr c.val .fsqrtD (semRrf 32 (fop2 fmtD (fun f r u a _ => fsqrt f r u a)))) s

/-- FMIN.S (04 R108). -/
def execFminS (c : CoreId) (s : State) : Host.Outcome State Fault Refusal := onDev (runInstr c.val .fminS (semRrf 3 (fminmax false fmtS))) s

/-- FMIN.D (04 R108). -/
def execFminD (c : CoreId) (s : State) : Host.Outcome State Fault Refusal := onDev (runInstr c.val .fminD (semRrf 3 (fminmax false fmtD))) s

/-- FMAX.S (04 R108). -/
def execFmaxS (c : CoreId) (s : State) : Host.Outcome State Fault Refusal := onDev (runInstr c.val .fmaxS (semRrf 3 (fminmax true fmtS))) s

/-- FMAX.D (04 R108). -/
def execFmaxD (c : CoreId) (s : State) : Host.Outcome State Fault Refusal := onDev (runInstr c.val .fmaxD (semRrf 3 (fminmax true fmtD))) s

/-- FEQ.S (04 R108). -/
def execFeqS (c : CoreId) (s : State) : Host.Outcome State Fault Refusal := onDev (runInstr c.val .feqS (semRrf 3 (fcmp fmtS feq))) s

/-- FEQ.D (04 R108). -/
def execFeqD (c : CoreId) (s : State) : Host.Outcome State Fault Refusal := onDev (runInstr c.val .feqD (semRrf 3 (fcmp fmtD feq))) s

/-- FLT.S (04 R108). -/
def execFltS (c : CoreId) (s : State) : Host.Outcome State Fault Refusal := onDev (runInstr c.val .fltS (semRrf 3 (fcmp fmtS flt))) s

/-- FLT.D (04 R108). -/
def execFltD (c : CoreId) (s : State) : Host.Outcome State Fault Refusal := onDev (runInstr c.val .fltD (semRrf 3 (fcmp fmtD flt))) s

/-- FLE.S (04 R108). -/
def execFleS (c : CoreId) (s : State) : Host.Outcome State Fault Refusal := onDev (runInstr c.val .fleS (semRrf 3 (fcmp fmtS fle))) s

/-- FLE.D (04 R108). -/
def execFleD (c : CoreId) (s : State) : Host.Outcome State Fault Refusal := onDev (runInstr c.val .fleD (semRrf 3 (fcmp fmtD fle))) s

/-- FCVT.D.S (04 R108). -/
def execFcvtDS (c : CoreId) (s : State) : Host.Outcome State Fault Refusal := onDev (runInstr c.val .fcvtDS (semRrf 4 (fun r u a _ => fcvtF fmtD r u (fdec fmtS a)))) s

/-- FCVT.S.D (04 R108). -/
def execFcvtSD (c : CoreId) (s : State) : Host.Outcome State Fault Refusal := onDev (runInstr c.val .fcvtSD (semRrf 4 (fun r u a _ => fcvtF fmtS r u (fdec fmtD a)))) s

/-- FCVT.S.L (04 R108). -/
def execFcvtSL (c : CoreId) (s : State) : Host.Outcome State Fault Refusal := onDev (runInstr c.val .fcvtSL (semRrf 4 (fun r u a _ => fcvtI fmtS r u a))) s

/-- FCVT.D.L (04 R108). -/
def execFcvtDL (c : CoreId) (s : State) : Host.Outcome State Fault Refusal := onDev (runInstr c.val .fcvtDL (semRrf 4 (fun r u a _ => fcvtI fmtD r u a))) s

/-- FCVT.L.S (04 R108). -/
def execFcvtLS (c : CoreId) (s : State) : Host.Outcome State Fault Refusal := onDev (runInstr c.val .fcvtLS (semRrf 4 (fun r _ a _ => fcvtL r (fdec fmtS a)))) s

/-- FCVT.L.D (04 R108). -/
def execFcvtLD (c : CoreId) (s : State) : Host.Outcome State Fault Refusal := onDev (runInstr c.val .fcvtLD (semRrf 4 (fun r _ a _ => fcvtL r (fdec fmtD a)))) s

end Sys2Proof.Machine
end

