-- ==== Sys2Proof/Machine/ExecItem.lean ====
section
/-!
DEFINITION. The steps of the Graticule, of Cairn and of the network lanes (08, 09, 12).
-/
namespace Sys2Proof.Machine

/-- The oldest arrived item decided, where admission decides (08 R198, R215). -/
def Dev.admitOldest (d : Dev) : Dev :=
  match d.oldestArrived with
  | some (n, x) => if d.makesItems then d.decideItem n x else d
  | none => d

/-- An admitted item staged in its turn (08 R202). -/
def Dev.stageNext (d : Dev) (n : Nat) : Dev :=
  match d.item? n with
  | some x => if d.makesItems && x.phase == .admitted && d.turnOf n x.q then d.stage n x else d
  | none => d

/-- The entry of an item sealed in its turn (09 R251, R252). -/
def Dev.sealOne (d : Dev) (n : Nat) : Dev :=
  match d.item? n with
  | some x => if d.makesItems && x.phase == .texts && d.sealNext n x then d.sealItem n x else d
  | none => d

/-- A frame arrives at port p (12 R309, 08 R192). -/
def execFrameReceive (p : Fin 16) (frame : List Byte) (fcsGood : Bool) (s : State) : Host.Outcome State Fault Refusal :=
  onDev (fun d => d.receive p.val frame fcsGood) s

/-- The Graticule decides the oldest arrived item (08 R198). -/
def execAdmitItem (s : State) : Host.Outcome State Fault Refusal :=
  onDev (fun d => d.admitOldest) s

/-- The item's payload is copied to its stage area (08 R202). -/
def execStageItem (item : Nat) (s : State) : Host.Outcome State Fault Refusal :=
  onDev (fun d => d.stageNext item) s

/-- A completed item's texts are read (08 R207). -/
def execDoneTextRead (item : Nat) (s : State) : Host.Outcome State Fault Refusal :=
  onDev (fun d => if d.makesItems then d.readTexts item else d) s

/-- Cairn seals the item's entry (09 R252). -/
def execCairnSeal (item : Nat) (s : State) : Host.Outcome State Fault Refusal :=
  onDev (fun d => d.sealOne item) s

/-- The item's commit timer ends (12 R324). -/
def execCommitTimeout (item : Nat) (s : State) : Host.Outcome State Fault Refusal :=
  onDev (fun d => if d.makesItems then d.commitTimeout item else d) s

/-- The next frame of port p leaves (12 R312). -/
def execFrameTransmit (p : Fin 16) (s : State) : Host.Outcome State Fault Refusal :=
  onDev (fun d => d.transmit p.val) s

/-- The next fine tick (08 R199). -/
def execFineTick (s : State) : Host.Outcome State Fault Refusal :=
  onDev (fun d => d.fineTick) s

/-- Queue q moves to frond f (08 R218). -/
def execQueueMigration (q : Fin 8192) (f : Fin 32) (s : State) : Host.Outcome State Fault Refusal :=
  onDev (fun d => if d.makesItems then d.migrate q.val f.val else d) s

/-- The swap cycle (11 R299, R302). -/
def execShadowSwap (s : State) : Host.Outcome State Fault Refusal :=
  onDev (fun d => d.swapCycle) s

/-- Cartouche has the shadow digest (14 R382). -/
def execShadowDigestDone (s : State) : Host.Outcome State Fault Refusal :=
  onDev (fun d => d.digestDone) s

/-- XOFF of port p sent or repeated, or XON sent (12 R310). -/
def execPfcXoffRepeat (p : Fin 16) (s : State) : Host.Outcome State Fault Refusal :=
  onDev (fun d => d.pfcPort true p.val) s

end Sys2Proof.Machine
end

