-- ==== Sys2Proof/Machine/ExecLedger.lean ====
section
/-!
DEFINITION. The LEDGER-mode binary instructions: the accumulator (01 R40; 04 R98, R99, R103 to R105) and the index registers (05 R139).
-/
namespace Sys2Proof.Machine

/-- NEG (04 Table 4.1). -/
def execNeg (c : CoreId) (s : State) : Host.Outcome State Fault Refusal := onDev (runInstr c.val .neg semNeg) s

/-- LD (04 Table 4.1). -/
def execLd (c : CoreId) (s : State) : Host.Outcome State Fault Refusal := onDev (runInstr c.val .ld semLd) s

/-- ST (04 Table 4.1). -/
def execSt (c : CoreId) (s : State) : Host.Outcome State Fault Refusal := onDev (runInstr c.val .st semSt) s

/-- ADD (04 Table 4.1). -/
def execAdd (c : CoreId) (s : State) : Host.Outcome State Fault Refusal := onDev (runInstr c.val .add semAdd) s

/-- SUB (04 Table 4.1). -/
def execSub (c : CoreId) (s : State) : Host.Outcome State Fault Refusal := onDev (runInstr c.val .sub semSub) s

/-- MUL (04 Table 4.1). -/
def execMul (c : CoreId) (s : State) : Host.Outcome State Fault Refusal := onDev (runInstr c.val .mul semMul) s

/-- DIV (04 Table 4.1). -/
def execDiv (c : CoreId) (s : State) : Host.Outcome State Fault Refusal := onDev (runInstr c.val .div semDiv) s

/-- REM (04 Table 4.1). -/
def execRem (c : CoreId) (s : State) : Host.Outcome State Fault Refusal := onDev (runInstr c.val .rem semRem) s

/-- DIVU (04 Table 4.1). -/
def execDivu (c : CoreId) (s : State) : Host.Outcome State Fault Refusal := onDev (runInstr c.val .divu semDivu) s

/-- REMU (04 Table 4.1). -/
def execRemu (c : CoreId) (s : State) : Host.Outcome State Fault Refusal := onDev (runInstr c.val .remu semRemu) s

/-- AND (04 Table 4.1). -/
def execAnd (c : CoreId) (s : State) : Host.Outcome State Fault Refusal := onDev (runInstr c.val .and semAnd) s

/-- OR (04 Table 4.1). -/
def execOr (c : CoreId) (s : State) : Host.Outcome State Fault Refusal := onDev (runInstr c.val .or semOr) s

/-- XOR (04 Table 4.1). -/
def execXor (c : CoreId) (s : State) : Host.Outcome State Fault Refusal := onDev (runInstr c.val .xor semXor) s

/-- SHL (04 Table 4.1). -/
def execShl (c : CoreId) (s : State) : Host.Outcome State Fault Refusal := onDev (runInstr c.val .shl semShl) s

/-- SHR (04 Table 4.1). -/
def execShr (c : CoreId) (s : State) : Host.Outcome State Fault Refusal := onDev (runInstr c.val .shr semShr) s

/-- SAR (04 Table 4.1). -/
def execSar (c : CoreId) (s : State) : Host.Outcome State Fault Refusal := onDev (runInstr c.val .sar semSar) s

/-- ROL (04 Table 4.1). -/
def execRol (c : CoreId) (s : State) : Host.Outcome State Fault Refusal := onDev (runInstr c.val .rol semRol) s

/-- ROR (04 Table 4.1). -/
def execRor (c : CoreId) (s : State) : Host.Outcome State Fault Refusal := onDev (runInstr c.val .ror semRor) s

/-- LDB (04 Table 4.1). -/
def execLdb (c : CoreId) (s : State) : Host.Outcome State Fault Refusal := onDev (runInstr c.val .ldb semLdb) s

/-- STB (04 Table 4.1). -/
def execStb (c : CoreId) (s : State) : Host.Outcome State Fault Refusal := onDev (runInstr c.val .stb semStb) s

/-- LDA (04 Table 4.1). -/
def execLda (c : CoreId) (s : State) : Host.Outcome State Fault Refusal := onDev (runInstr c.val .lda semLda) s

/-- LDX1 (05 R139, 01 R16). -/
def execLdx1 (c : CoreId) (s : State) : Host.Outcome State Fault Refusal := onDev (runInstr c.val .ldx1 (semLdx 5)) s

/-- LDX2 (05 R139, 01 R16). -/
def execLdx2 (c : CoreId) (s : State) : Host.Outcome State Fault Refusal := onDev (runInstr c.val .ldx2 (semLdx 6)) s

/-- STX1 (05 R139, 01 R16). -/
def execStx1 (c : CoreId) (s : State) : Host.Outcome State Fault Refusal := onDev (runInstr c.val .stx1 (semStx 5)) s

/-- STX2 (05 R139, 01 R16). -/
def execStx2 (c : CoreId) (s : State) : Host.Outcome State Fault Refusal := onDev (runInstr c.val .stx2 (semStx 6)) s

/-- ADX1 (05 R139, 01 R16). -/
def execAdx1 (c : CoreId) (s : State) : Host.Outcome State Fault Refusal := onDev (runInstr c.val .adx1 (semAdx 5)) s

/-- ADX2 (05 R139, 01 R16). -/
def execAdx2 (c : CoreId) (s : State) : Host.Outcome State Fault Refusal := onDev (runInstr c.val .adx2 (semAdx 6)) s

/-- LAX1 (05 R139, 01 R16). -/
def execLax1 (c : CoreId) (s : State) : Host.Outcome State Fault Refusal := onDev (runInstr c.val .lax1 (semLoadAddr 5)) s

/-- LAX2 (05 R139, 01 R16). -/
def execLax2 (c : CoreId) (s : State) : Host.Outcome State Fault Refusal := onDev (runInstr c.val .lax2 (semLoadAddr 6)) s

/-- LDSP (05 R139, 01 R16). -/
def execLdsp (c : CoreId) (s : State) : Host.Outcome State Fault Refusal := onDev (runInstr c.val .ldsp semLdsp) s

/-- STSP (05 R139, 01 R16). -/
def execStsp (c : CoreId) (s : State) : Host.Outcome State Fault Refusal := onDev (runInstr c.val .stsp (semStx 7)) s

/-- ADSP (05 R139, 01 R16). -/
def execAdsp (c : CoreId) (s : State) : Host.Outcome State Fault Refusal := onDev (runInstr c.val .adsp (semAdx 7)) s

/-- LASP (05 R139, 01 R16). -/
def execLasp (c : CoreId) (s : State) : Host.Outcome State Fault Refusal := onDev (runInstr c.val .lasp (semLoadAddr 7)) s

end Sys2Proof.Machine
end

