-- ==== Sys2Proof/Machine/Package.lean ====
section
/-!
DEFINITION. The board's balls (15 R399, R400) and ports: JTAG (14 R384, R385, R387, R388) and the I2C status target (15 R407).
-/
namespace Sys2Proof.Machine

/-! ### JTAG -/

/-- `n` bits that the spec leaves open (log entry 9). -/
def Dev.freeBits (d : Dev) (n : Nat) : List Bool × Dev :=
  ((List.range n).map (fun i => (Config.freeValue (d.free + i / 64)).getLsbD (i % 64)), { d with free := d.free + n / 64 + 1 })

/-- An instruction loaded, while the port runs: in every mode but DATUM. -/
def Dev.jtagIn (d : Dev) (code : Byte) (f : Dev → Dev) : Dev :=
  if d.mode = .datum then d else f { d with board := { d.board with jtag := code } }

/-- The bypass register shifted: its one bit captures 0. -/
def Dev.bypass (d : Dev) : Dev := d.jtagIn 0xFF (fun y => y.emit (.jtag [false]))

/-! ### The balls (15 Tables 15.5, 15.9) -/

/-- The LVCMOS signal balls, one boundary cell each, in the order of Table 15.5 (log entry 66). -/
inductive Ball where
  | porstN | pwrok | perstN | attnN
  | evtIn (j : Nat)
  | evtOut (i : Nat)
  | qspiClk | qspiCsN
  | qspiIo (i : Nat)
  | i2cScl | i2cSda | tck | tms | tdi | tdo | trstN | uartTxd | uartRxd
  | strap (i : Nat)
  | testmode | thermtripN | alertN | ppsIn | ppsOut
  deriving DecidableEq, Repr

/-- All 35 of them. -/
def balls : List Ball :=
  [.porstN, .pwrok, .perstN, .attnN] ++ (List.range 4).map .evtIn ++ (List.range 4).map .evtOut ++ [.qspiClk, .qspiCsN] ++
    (List.range 4).map .qspiIo ++ [.i2cScl, .i2cSda, .tck, .tms, .tdi, .tdo, .trstN, .uartTxd, .uartRxd] ++ (List.range 3).map .strap ++
    [.testmode, .thermtripN, .alertN, .ppsIn, .ppsOut]

/-- What the device does to a ball. -/
inductive Drive where
  /-- high-impedance, a released open drain, or an input -/
  | z
  | low
  | high
  /-- driven, at a level that the spec leaves open while nothing is transferred -/
  | active
  deriving DecidableEq, Repr

/-- A push-pull output at a level. -/
def Drive.of (b : Bool) : Drive := if b then .high else .low

/-- Whether a ball is an open drain. -/
def Ball.openDrain : Ball → Bool
  | .i2cScl | .i2cSda | .thermtripN | .alertN => true
  | _ => false

/-- Whether the device can drive a ball. -/
def Ball.isOut : Ball → Bool
  | .evtOut _ | .qspiClk | .qspiCsN | .qspiIo _ | .i2cScl | .i2cSda | .tdo | .uartTxd | .thermtripN | .alertN | .ppsOut => true
  | _ => false

/-- An internal pull of a ball. -/
inductive Pull where
  | none | up | down
  deriving DecidableEq, Repr

/-- The pull of a ball (Table 15.5). -/
def Ball.pull : Ball → Pull
  | .perstN | .attnN | .qspiCsN | .qspiIo _ | .tms | .tdi | .trstN | .uartRxd => .up
  | .pwrok | .evtIn _ | .tck | .strap _ | .testmode | .ppsIn => .down
  | .porstN | .evtOut _ | .qspiClk | .i2cScl | .i2cSda | .tdo | .uartTxd | .thermtripN | .alertN | .ppsOut => .none

/-- The pull that acts on a ball: its own while VDD_IO is present (R391, R400). -/
def Dev.pull (d : Dev) (b : Ball) : Pull := if d.ioOn then b.pull else .none

/-- What the functions of the device do to a ball with VDD_IO present (Table 15.9). -/
def Dev.function (d : Dev) : Ball → Drive
  | .evtOut i => .of (d.evtOut i)
  | .ppsOut => .of d.ppsPin
  | .qspiCsN => if d.mode = .datum then .z else .high
  | .qspiClk | .qspiIo _ | .uartTxd => if d.mode = .datum then .z else .active
  | .thermtripN => if d.tripped then .low else .z
  | .alertN => if d.alertLow then .low else .z
  | _ => .z

/-- Boundary cell of a ball. -/
def Dev.cellOf (d : Dev) (b : Ball) : Bool := d.board.boundary.getD (balls.idxOf b) false

/-- What the device does to a ball: nothing while VDD_IO is absent; under EXTEST and CLAMP what its cell says, under HIGHZ nothing. -/
def Dev.drives (d : Dev) (b : Ball) : Drive :=
  if !d.ioOn then .z
  else if d.mode = .datum then d.function b
  else match d.board.jtag.toNat with
    | 0 | 3 => if b.isOut then (if b.openDrain && d.cellOf b then .z else .of (d.cellOf b)) else .z
    | 4 => .z
    | _ => d.function b

/-- The level of a ball, where the model knows it: as it is driven, as the board drives it, or, of an output that nothing drives, as its pull says. -/
def Dev.ballLevel (d : Dev) (b : Ball) : Option Bool :=
  match d.drives b, b with
  | .low, _ => some false
  | .high, _ => some true
  | .z, .qspiCsN => if d.pull .qspiCsN = .up then some true else none
  | _, .porstN => some d.board.porst
  | _, .pwrok => some d.board.pwrok
  | _, _ => none

/-- EXTEST, CLAMP or HIGHZ: BYPASS in its place, with JREF, while admitted items may run. -/
def Dev.testIn (d : Dev) (code : Byte) (f : Dev → Dev) : Dev :=
  if d.makesItems then (d.setRf svSts 30 1 1).bypass else d.jtagIn code f

/-- What the boundary register captures: the level of a ball where the model knows it, else a free value (log entry 66). -/
def Dev.captureCells (d : Dev) : List Bool × Dev :=
  let (bs, d1) := d.freeBits balls.length
  ((balls.zip bs).map (fun e => (d.ballLevel e.1).getD e.2), d1)

/-- The boundary register captured and shifted by the bits of `v`, the first of them the first in: what it held moves out from its low
end, and the update takes what stands in it then. -/
def Dev.shiftBoundary (d : Dev) (v : List Bool) : Dev :=
  let (bs, d1) := d.captureCells
  { d1 with board := { d1.board with boundary := (bs ++ v).drop v.length } }.emit (.jtag ((bs ++ v).take v.length))

/-- EXTEST. -/
def Dev.extest (d : Dev) (v : List Bool) : Dev := d.testIn 0 (fun y => y.shiftBoundary v)
/-- SAMPLE/PRELOAD. -/
def Dev.sample (d : Dev) (v : List Bool) : Dev := d.jtagIn 2 (fun y => y.shiftBoundary v)
/-- CLAMP. -/
def Dev.clamp (d : Dev) : Dev := d.testIn 3 (fun y => y.emit (.jtag [false]))
/-- HIGHZ. -/
def Dev.highz (d : Dev) : Dev := d.testIn 4 (fun y => y.emit (.jtag [false]))

/-- The IDCODE: version STEP_MAJOR modulo 16, part number 0x9640, manufacturer 0x2B3. -/
def idcodeWord : Nat := Config.stepMajor.toNat % 16 * 2 ^ 28 + 0x9640 * 2 ^ 12 + 0x2B3 * 2 + 1

/-- IDCODE. -/
def Dev.idcode (d : Dev) : Dev := d.jtagIn 1 (fun y => y.emit (.jtag (shiftOut 32 idcodeWord)))

/-- The words of SV_NONCE. -/
def Dev.nonceWords (d : Dev) : List W32 := (List.range 8).map (fun i => (d.viewSurvey (0x120 + 4 * i)).getD 0)

/-- SVCHAL: its register is shifted out while `v` is shifted in; after a challenge, which a 1 makes, the next 8 shifts give the words of
the nonce. What any other shift gives is a free value (log entry 66). -/
def Dev.svchalIn (d : Dev) (v : W32) : Dev :=
  d.jtagIn 0x10 (fun y =>
    let (bs, y1) := match y.nonceWords[y.board.svNext]? with
      | some w => (shiftOut 32 w.toNat, { y with board := { y.board with svNext := y.board.svNext + 1 } })
      | none => y.freeBits 32
    let z := y1.emit (.jtag bs)
    if v = 1 then let c := z.challenge; { c with board := { c.board with svNext := 0 } } else z)

/-- SVRESP: a response word; the 1,988th submits. -/
def Dev.svrespIn (fz : Fuses) (d : Dev) (v : W32) : Dev :=
  d.jtagIn 0x11 (fun y => let z := y.svWord v; if z.sv.words.length = 1988 then z.submit fz else z)

/-- SVSTAT. -/
def Dev.svstat (d : Dev) : Dev := d.jtagIn 0x12 (fun y => y.emit (.jtag (shiftOut 32 ((y.viewSurvey 0x104).getD 0).toNat)))

/-- Whether the open session grants a right. -/
def Dev.hasRight (d : Dev) (b : Nat) : Bool := d.survey.any (fun e => e.2.testBit b)

/-- Register page and offset of a physical address. -/
def pageAt (a : Nat) : Option (Nat × Nat) :=
  if 0xF0_0000_0000 ≤ a ∧ a < 0xF0_0080_0000 then some ((a - 0xF0_0000_0000) / 4096, a % 4096) else none

/-- Free bits shifted out: what a data register holds where the spec does not say (log entry 18). -/
def Dev.shiftFree (d : Dev) (n : Nat) : Dev := let (bs, d1) := d.freeBits n; d1.emit (.jtag bs)

/-- What a debug access to memory finds, and the data register of DBGMEM after it (log entry 18): denied, the error response, and of a read
free bits. -/
def Dev.dbgStore (d : Dev) (a : Nat) (write : Option W32) : Dev :=
  if (d.rangeFault a 4).isSome then (d.errTo .debug).shiftFree 80
  else match write with
    | some v =>
      (match d.fabWrite (d.regReq .debug) a (toBytes 4 v.toNat) with
        | (d1, none) => d1.emit (.jtag (dbgOut a true v.toNat))
        | (d1, some _) => (d1.errTo .debug).emit (.jtag (dbgOut a true v.toNat)))
    | none =>
      (match d.fabRead (d.regReq .debug) a 4 with
        | (d1, .ok bs) => d1.emit (.jtag (dbgOut a false (ofBytes bs)))
        | (d1, .error _) => (d1.errTo .debug).shiftFree 80)

/-- DBGMEM, with the right of the session: 80 bits are shifted out. -/
def Dev.dbgmem (fz : Fuses) (d : Dev) (a : Nat) (write : Option W32) : Dev :=
  d.jtagIn 0x20 (fun y =>
    if !y.hasRight (b2n write.isSome) then y.shiftFree 80
    else match pageAt a, write with
      | some (page, off), some v => (y.busWrite fz .debug page off 0xF v).1.emit (.jtag (dbgOut a true v.toNat))
      | some (page, off), none =>
        (match y.busRead fz .debug page off with
          | (z, some v) => z.emit (.jtag (dbgOut a false v.toNat))
          | (z, none) => z.emit (.jtag (dbgOut a false 0)))
      | none, w => y.dbgStore a w)

/-- DBGCORE: a bank register of a held or stopped core, in the 48 bits of its data register (log entry 18). -/
def Dev.dbgcore (d : Dev) (c bank r : Nat) : Dev :=
  d.jtagIn 0x21 (fun y =>
    if !y.hasRight 2 || !y.coreStill c || bank > 8 || r ≥ 50 then y.shiftFree 48
    else y.emit (.jtag (shiftOut 48 (((y.core c).bank bank).readIdx bank r).toNat)))

/-- TRST_N: the port reset, and a session ended. -/
def Dev.trst (d : Dev) : Dev :=
  if d.mode = .datum then d else ({ d with board := { d.board with boundary := [], jtag := 1, svNext := 8 } }).endSurvey

/-! ### I2C -/

/-- The status block (Table 15.11). -/
def Dev.i2cBlock (d : Dev) : List Byte :=
  toBytes 1 (d.rf modeSts 24 4 * 16 + d.mode.code) ++ toBytes 1 (d.rf thermSts 16 8) ++ toBytes 1 (d.rf clkSts 8 1 * 128 + d.rf clkSts 0 3) ++
    toBytes 1 (d.rf thermSts 31 1 * 128 + b2n d.hot * 64 + d.rf modeSts 23 1 * 32 + d.rf modeSts 21 1 * 16 + d.rf railSts 31 1 * 8) ++
    toBytes 2 (d.rf (rk .health 0 0x600) 0 16) ++ toBytes 2 (d.rf (rk .health 0 0x604) 0 16) ++ toBytes 8 d.mer

/-- A read of `len` bytes from the index on, wrapping at 16. -/
def Dev.i2cRead (d : Dev) (len : Nat) : Dev :=
  if d.mode = .datum then d else d.emit (.i2c ((List.range len).map (fun i => d.i2cBlock.getD ((d.board.i2c + i) % 16) 0)))

/-- A write: its first data byte is the index, and a further one is not acknowledged and writes nothing. -/
def Dev.i2cIndex (d : Dev) (bytes : List Byte) : Dev :=
  if d.mode = .datum then d.emit (.i2cAck (bytes.map (fun _ => false)))
  else match bytes with
    | [] => d.emit (.i2cAck [])
    | v :: t => { d with board := { d.board with i2c := v.toNat % 16 } }.emit (.i2cAck (true :: t.map (fun _ => false)))

end Sys2Proof.Machine
end

