-- ==== Sys2Proof/Machine/ExecPorts.lean ====
section
/-!
DEFINITION. The steps of the links, the ring, the host port, the mailboxes, JTAG and I2C (12, 14, 15).
-/
namespace Sys2Proof.Machine

/-- Training passes (12 R316). -/
def execLinkTrained (g k : Fin 4) (s : State) : Host.Outcome State Fault Refusal :=
  onDev (fun d => d.linkTrained g.val k.val) s

/-- A training attempt fails (13 R363). -/
def execLinkTrainingFailed (g k : Fin 4) (s : State) : Host.Outcome State Fault Refusal :=
  onDev (fun d => d.trainingFailed g.val k.val) s

/-- A port or link loses lock (12 R318). -/
def execLinkLoss (g k : Fin 4) (s : State) : Host.Outcome State Fault Refusal :=
  onDev (fun d => d.linkLoss g.val k.val) s

/-- A HELLO arrives (12 R319). -/
def execHello (west : Bool) (payload : List Byte) (s : State) : Host.Outcome State Fault Refusal :=
  onDev (fun d => d.takeHello west payload) s

/-- A BEAT interval has passed (12 R320). -/
def execBeatSend (s : State) : Host.Outcome State Fault Refusal :=
  onDev (fun d => d.sendBeat) s

/-- A BEAT arrives (12 R320). -/
def execBeat (west : Bool) (src : Fin 8) (payload : List Byte) (s : State) : Host.Outcome State Fault Refusal :=
  onDev (fun d => d.takeBeat west src.val payload) s

/-- A TOPO arrives (12 R320). -/
def execTopo (west : Bool) (src : Fin 8) (payload : List Byte) (s : State) : Host.Outcome State Fault Refusal :=
  onDev (fun d => d.takeTopo west src.val payload) s

/-- A LEAVE arrives (12 R326). -/
def execLeave (src : Fin 8) (s : State) : Host.Outcome State Fault Refusal :=
  onDev (fun d => d.takeLeave src.val) s

/-- A member is lost (12 R320). -/
def execMemberLost (t : Fin 8) (s : State) : Host.Outcome State Fault Refusal :=
  onDev (fun d => d.memberLost t.val) s

/-- A HEALTH flit arrives (13 R367). -/
def execHealthFlit (src dst : Fin 8) (record : List Byte) (s : State) : Host.Outcome State Fault Refusal :=
  onDev (fun d => d.takeHealth src.val dst.val record) s

/-- A commit message arrives whole (12 R322). -/
def execCmsg (src dst : Fin 8) (msg : List Byte) (s : State) : Host.Outcome State Fault Refusal :=
  onDev (fun d => d.takeCmsg src.val dst.val msg) s

/-- A commit acknowledgement arrives (12 R324). -/
def execCack (src dst : Fin 8) (payload : List Byte) (s : State) : Host.Outcome State Fault Refusal :=
  onDev (fun d => d.takeCack src.val dst.val payload) s

/-- A flit with NAK arrives (12 R318). -/
def execNak (west : Bool) (ack : BitVec 16) (s : State) : Host.Outcome State Fault Refusal :=
  onDev (fun d => d.takeNak west ack) s

/-- The oldest unacknowledged flit has waited 1 µs (12 R318). -/
def execReplayTimeout (west : Bool) (s : State) : Host.Outcome State Fault Refusal :=
  onDev (fun d => d.replay west) s

/-- A bad flit or a gap (12 R318). -/
def execFlitBadCrcOrGap (west : Bool) (s : State) : Host.Outcome State Fault Refusal :=
  onDev (fun d => d.badFlit west) s

/-- An IDLE flit arrives (12 R318). -/
def execIdle (west : Bool) (ack : BitVec 16) (crd : Byte) (s : State) : Host.Outcome State Fault Refusal :=
  onDev (fun d => d.takeIdle west ack crd) s

/-- A remote request arrives (12 R327). -/
def execRreq (src dst : Fin 8) (payload : List Byte) (s : State) : Host.Outcome State Fault Refusal :=
  onDev (fun d => d.takeRreq s.fuse src dst.val payload) s

/-- A remote response arrives (12 R327). -/
def execRrsp (src dst : Fin 8) (payload : List Byte) (s : State) : Host.Outcome State Fault Refusal :=
  onDev (fun d => d.takeRrsp src.val dst.val payload) s

/-- No RRSP within 8 µs (12 R327). -/
def execRemoteAccessTimeout (tag : Nat) (s : State) : Host.Outcome State Fault Refusal :=
  onDev (fun d => d.remoteTimeout tag) s

/-- A host access to the remote window (12 R327). -/
def execRemoteWindowAccess (off : Nat) (write : Option W32) (s : State) : Host.Outcome State Fault Refusal :=
  onDev (fun d => d.remoteWindow off write) s

/-- A host access to the deep-store window (12 R329), a host read of a word of BAR2 or of a register, or one of the configuration space (12
R328; log entries 13 and 73). -/
def execBar4Access (off : Nat) (write : Option (List Byte)) (len : Nat) (s : State) : Host.Outcome State Fault Refusal :=
  onDev (fun d => if off < 2 ^ 30 then d.bar4 off write len
    else match write with
      | none => d.hostRead s.fuse (off - 2 ^ 30)
      | some bs => if 2 ^ 31 + 2 ^ 30 ≤ off then d.configWrite (off % 4096) bs else d) s

/-- The PCIe link goes down (12 R333). -/
def execPcieLinkDown (s : State) : Host.Outcome State Fault Refusal :=
  onDev (fun d => d.linkOut) s

/-- PCIe fundamental reset (15 R391). -/
def execPerstN (s : State) : Host.Outcome State Fault Refusal :=
  onDev (fun d => d.linkOut) s

/-- The PCIe link comes up (12 R333). -/
def execPcieLinkUp (speed : BitVec 2) (width : BitVec 4) (mps : Fin 3) (s : State) : Host.Outcome State Fault Refusal :=
  onDev (fun d => d.linkIn speed width (128 * 2 ^ mps.val)) s

/-- The function enters or leaves D3hot (12 R328). -/
def execD3hot (enter : Bool) (s : State) : Host.Outcome State Fault Refusal :=
  onDev (fun d => d.d3hot enter) s

/-- A vector is written and unmasked (12 R331). -/
def execMsixUnmask (v : Fin 2048) (addr : W64) (data : W32) (s : State) : Host.Outcome State Fault Refusal :=
  onDev (fun d => d.msixUnmask v.val addr data) s

/-- A host write into MBX_REQ (12 R334). -/
def execMbxReqWrite (mb : Fin 64) (off : Fin 256) (bytes : List Byte) (s : State) : Host.Outcome State Fault Refusal :=
  onDev (fun d => d.bar2 (0x200 * mb.val + off.val) (fun y => y.mbxFill mb.val off.val bytes)) s

/-- A write of MBX_GO (12 R334). -/
def execMbxGo (mb : Fin 64) (v : W32) (s : State) : Host.Outcome State Fault Refusal :=
  onDev (fun d => d.bar2 (0x200 * mb.val + 0x100) (fun y => y.mbxStart mb.val v)) s

/-- A write of MBX_ACK (12 R337). -/
def execMbxAck (mb : Fin 64) (v : W32) (s : State) : Host.Outcome State Fault Refusal :=
  onDev (fun d => d.bar2 (0x200 * mb.val + 0x108) (fun y => y.mbxAck mb.val v)) s

/-- A stream read is not completed in time (12 R332). -/
def execStreamTimeout (s : State) : Host.Outcome State Fault Refusal :=
  onDev (fun d => d.streamTimeout) s

/-- TRST_N asserted (14 R388). -/
def execTrstN (s : State) : Host.Outcome State Fault Refusal :=
  onDev (fun d => d.trst) s

/-- JTAG EXTEST (14 R384). -/
def execExtest (v : List Bool) (s : State) : Host.Outcome State Fault Refusal :=
  onDev (fun d => d.extest v) s

/-- JTAG IDCODE (14 R384). -/
def execIdcode (s : State) : Host.Outcome State Fault Refusal :=
  onDev (fun d => d.idcode) s

/-- JTAG SAMPLE/PRELOAD (14 R384). -/
def execSamplePreload (v : List Bool) (s : State) : Host.Outcome State Fault Refusal :=
  onDev (fun d => d.sample v) s

/-- JTAG CLAMP (14 R384). -/
def execClamp (s : State) : Host.Outcome State Fault Refusal :=
  onDev (fun d => d.clamp) s

/-- JTAG HIGHZ (14 R384). -/
def execHighz (s : State) : Host.Outcome State Fault Refusal :=
  onDev (fun d => d.highz) s

/-- JTAG SVCHAL (14 R385). -/
def execSvchal (v : W32) (s : State) : Host.Outcome State Fault Refusal :=
  onDev (fun d => d.svchalIn v) s

/-- JTAG SVRESP (14 R385). -/
def execSvresp (v : W32) (s : State) : Host.Outcome State Fault Refusal :=
  onDev (fun d => d.svrespIn s.fuse v) s

/-- JTAG SVSTAT (14 R384). -/
def execSvstat (s : State) : Host.Outcome State Fault Refusal :=
  onDev (fun d => d.svstat) s

/-- JTAG DBGMEM (14 R387). -/
def execDbgmem (addr : BitVec 40) (write : Option W32) (s : State) : Host.Outcome State Fault Refusal :=
  onDev (fun d => d.dbgmem s.fuse addr.toNat write) s

/-- JTAG DBGCORE (14 R387). -/
def execDbgcore (c : CoreId) (bank : BitVec 4) (reg : BitVec 6) (s : State) : Host.Outcome State Fault Refusal :=
  onDev (fun d => d.dbgcore c.val bank.toNat reg.toNat) s

/-- JTAG BYPASS (14 R384). -/
def execBypass (s : State) : Host.Outcome State Fault Refusal :=
  onDev (fun d => d.bypass) s

/-- A read of the status block (15 R407). -/
def execI2cRead (len : Nat) (s : State) : Host.Outcome State Fault Refusal :=
  onDev (fun d => d.i2cRead len) s

/-- A write of the index (15 R407). -/
def execI2cIndexWrite (bytes : List Byte) (s : State) : Host.Outcome State Fault Refusal :=
  onDev (fun d => d.i2cIndex bytes) s

end Sys2Proof.Machine
end

