-- ==== Sys2Proof/Machine/ExecRegister.lean ====
section
/-!
DEFINITION. The REGISTER-mode instructions (04).
-/
namespace Sys2Proof.Machine

/-- ADD of REGISTER mode (04 R100). -/
def execRrAdd (c : CoreId) (s : State) : Host.Outcome State Fault Refusal := onDev (runInstr c.val .rrAdd (semRri 2 aluAdd)) s

/-- SUB of REGISTER mode (04 R100). -/
def execRrSub (c : CoreId) (s : State) : Host.Outcome State Fault Refusal := onDev (runInstr c.val .rrSub (semRri 2 aluSub)) s

/-- MUL of REGISTER mode (04 R100). -/
def execRrMul (c : CoreId) (s : State) : Host.Outcome State Fault Refusal := onDev (runInstr c.val .rrMul (semRri 4 aluMul)) s

/-- MULHS of REGISTER mode (04 R100). -/
def execMulhs (c : CoreId) (s : State) : Host.Outcome State Fault Refusal := onDev (runInstr c.val .mulhs (semRri 4 aluMulhs)) s

/-- MULHU of REGISTER mode (04 R100). -/
def execMulhu (c : CoreId) (s : State) : Host.Outcome State Fault Refusal := onDev (runInstr c.val .mulhu (semRri 4 aluMulhu)) s

/-- DIV of REGISTER mode (04 R100). -/
def execRrDiv (c : CoreId) (s : State) : Host.Outcome State Fault Refusal := onDev (runInstr c.val .rrDiv (semRri 34 aluDiv)) s

/-- DIVU of REGISTER mode (04 R100). -/
def execRrDivu (c : CoreId) (s : State) : Host.Outcome State Fault Refusal := onDev (runInstr c.val .rrDivu (semRri 34 aluDivu)) s

/-- REM of REGISTER mode (04 R100). -/
def execRrRem (c : CoreId) (s : State) : Host.Outcome State Fault Refusal := onDev (runInstr c.val .rrRem (semRri 34 aluRem)) s

/-- REMU of REGISTER mode (04 R100). -/
def execRrRemu (c : CoreId) (s : State) : Host.Outcome State Fault Refusal := onDev (runInstr c.val .rrRemu (semRri 34 aluRemu)) s

/-- AND of REGISTER mode (04 R100). -/
def execRrAnd (c : CoreId) (s : State) : Host.Outcome State Fault Refusal := onDev (runInstr c.val .rrAnd (semRri 2 aluAnd)) s

/-- OR of REGISTER mode (04 R100). -/
def execRrOr (c : CoreId) (s : State) : Host.Outcome State Fault Refusal := onDev (runInstr c.val .rrOr (semRri 2 aluOr)) s

/-- XOR of REGISTER mode (04 R100). -/
def execRrXor (c : CoreId) (s : State) : Host.Outcome State Fault Refusal := onDev (runInstr c.val .rrXor (semRri 2 aluXor)) s

/-- ANDN of REGISTER mode (04 R100). -/
def execAndn (c : CoreId) (s : State) : Host.Outcome State Fault Refusal := onDev (runInstr c.val .andn (semRri 2 aluAndn)) s

/-- SHL of REGISTER mode (04 R100). -/
def execRrShl (c : CoreId) (s : State) : Host.Outcome State Fault Refusal := onDev (runInstr c.val .rrShl (semRri 2 aluShl)) s

/-- SHR of REGISTER mode (04 R100). -/
def execRrShr (c : CoreId) (s : State) : Host.Outcome State Fault Refusal := onDev (runInstr c.val .rrShr (semRri 2 aluShr)) s

/-- SAR of REGISTER mode (04 R100). -/
def execRrSar (c : CoreId) (s : State) : Host.Outcome State Fault Refusal := onDev (runInstr c.val .rrSar (semRri 2 aluSar)) s

/-- ROL of REGISTER mode (04 R100). -/
def execRrRol (c : CoreId) (s : State) : Host.Outcome State Fault Refusal := onDev (runInstr c.val .rrRol (semRri 2 aluRol)) s

/-- ROR of REGISTER mode (04 R100). -/
def execRrRor (c : CoreId) (s : State) : Host.Outcome State Fault Refusal := onDev (runInstr c.val .rrRor (semRri 2 aluRor)) s

/-- NEG of REGISTER mode (04 R100). -/
def execRrNeg (c : CoreId) (s : State) : Host.Outcome State Fault Refusal := onDev (runInstr c.val .rrNeg (semRri 2 (fun a _ => aluNeg a))) s

/-- NOT of REGISTER mode (04 R100). -/
def execNot (c : CoreId) (s : State) : Host.Outcome State Fault Refusal := onDev (runInstr c.val .not (semRri 2 (fun a _ => plain (~~~a)))) s

/-- MOV of REGISTER mode (04 R100). -/
def execMov (c : CoreId) (s : State) : Host.Outcome State Fault Refusal := onDev (runInstr c.val .mov (semRri 2 (fun a _ => plain a))) s

/-- SLT of REGISTER mode (04 R100). -/
def execSlt (c : CoreId) (s : State) : Host.Outcome State Fault Refusal := onDev (runInstr c.val .slt (semRri 2 aluSlt)) s

/-- SLTU of REGISTER mode (04 R100). -/
def execSltu (c : CoreId) (s : State) : Host.Outcome State Fault Refusal := onDev (runInstr c.val .sltu (semRri 2 aluSltu)) s

/-- LDI (04 R100). -/
def execLdi (c : CoreId) (s : State) : Host.Outcome State Fault Refusal := onDev (runInstr c.val .ldi (semRi 2 (fun _ v => plain v))) s

/-- ADDI (04 R100). -/
def execAddi (c : CoreId) (s : State) : Host.Outcome State Fault Refusal := onDev (runInstr c.val .addi (semRi 2 aluAdd)) s

/-- ANDI (04 R100). -/
def execAndi (c : CoreId) (s : State) : Host.Outcome State Fault Refusal := onDev (runInstr c.val .andi (semRi 2 aluAnd)) s

/-- ORI (04 R100). -/
def execOri (c : CoreId) (s : State) : Host.Outcome State Fault Refusal := onDev (runInstr c.val .ori (semRi 2 aluOr)) s

/-- XORI (04 R100). -/
def execXori (c : CoreId) (s : State) : Host.Outcome State Fault Refusal := onDev (runInstr c.val .xori (semRi 2 aluXor)) s

/-- SHLI (04 R100). -/
def execShli (c : CoreId) (s : State) : Host.Outcome State Fault Refusal := onDev (runInstr c.val .shli (semRi 2 aluShl)) s

/-- SHRI (04 R100). -/
def execShri (c : CoreId) (s : State) : Host.Outcome State Fault Refusal := onDev (runInstr c.val .shri (semRi 2 aluShr)) s

/-- SARI (04 R100). -/
def execSari (c : CoreId) (s : State) : Host.Outcome State Fault Refusal := onDev (runInstr c.val .sari (semRi 2 aluSar)) s

/-- ROLI (04 R100). -/
def execRoli (c : CoreId) (s : State) : Host.Outcome State Fault Refusal := onDev (runInstr c.val .roli (semRi 2 aluRol)) s

/-- MULI (04 R100). -/
def execMuli (c : CoreId) (s : State) : Host.Outcome State Fault Refusal := onDev (runInstr c.val .muli (semRi 4 aluMul)) s

/-- LDHI (04 R100). -/
def execLdhi (c : CoreId) (s : State) : Host.Outcome State Fault Refusal := onDev (runInstr c.val .ldhi (fun n i => semRi 2 (ldhiOf i.imm) n i)) s

/-- LD8U (04 R101, 05 R139). -/
def execLd8u (c : CoreId) (s : State) : Host.Outcome State Fault Refusal := onDev (runInstr c.val .ld8u (semRmLoad 1 false)) s

/-- LD8S (04 R101, 05 R139). -/
def execLd8s (c : CoreId) (s : State) : Host.Outcome State Fault Refusal := onDev (runInstr c.val .ld8s (semRmLoad 1 true)) s

/-- LD16U (04 R101, 05 R139). -/
def execLd16u (c : CoreId) (s : State) : Host.Outcome State Fault Refusal := onDev (runInstr c.val .ld16u (semRmLoad 2 false)) s

/-- LD16S (04 R101, 05 R139). -/
def execLd16s (c : CoreId) (s : State) : Host.Outcome State Fault Refusal := onDev (runInstr c.val .ld16s (semRmLoad 2 true)) s

/-- LD32U (04 R101, 05 R139). -/
def execLd32u (c : CoreId) (s : State) : Host.Outcome State Fault Refusal := onDev (runInstr c.val .ld32u (semRmLoad 4 false)) s

/-- LD32S (04 R101, 05 R139). -/
def execLd32s (c : CoreId) (s : State) : Host.Outcome State Fault Refusal := onDev (runInstr c.val .ld32s (semRmLoad 4 true)) s

/-- LD64 (04 R101, 05 R139). -/
def execLd64 (c : CoreId) (s : State) : Host.Outcome State Fault Refusal := onDev (runInstr c.val .ld64 (semRmLoad 8 false)) s

/-- ST8 (04 R101). -/
def execSt8 (c : CoreId) (s : State) : Host.Outcome State Fault Refusal := onDev (runInstr c.val .st8 (semRmStore 1)) s

/-- ST16 (04 R101). -/
def execSt16 (c : CoreId) (s : State) : Host.Outcome State Fault Refusal := onDev (runInstr c.val .st16 (semRmStore 2)) s

/-- ST32 (04 R101). -/
def execSt32 (c : CoreId) (s : State) : Host.Outcome State Fault Refusal := onDev (runInstr c.val .st32 (semRmStore 4)) s

/-- ST64 (04 R101). -/
def execSt64 (c : CoreId) (s : State) : Host.Outcome State Fault Refusal := onDev (runInstr c.val .st64 (semRmStore 8)) s

end Sys2Proof.Machine
end

