-- ==== Sys2Proof/Machine/ExecString.lean ====
section
/-!
DEFINITION. The string instructions (03).
-/
namespace Sys2Proof.Machine

/-- PACKZ (03 R87). -/
def execPackz (c : CoreId) (s : State) : Host.Outcome State Fault Refusal := onDev (runInstr c.val .packz semPackz) s

/-- UNPKZ (03 R88). -/
def execUnpkz (c : CoreId) (s : State) : Host.Outcome State Fault Refusal := onDev (runInstr c.val .unpkz semUnpkz) s

/-- MVS, passing `points` trap points (03 R78, R79). -/
def execMvs (c : CoreId) (points : Nat) (s : State) : Host.Outcome State Fault Refusal :=
  onDev (runLong c.val .mvs ⟨setupMvs, stepMvs⟩ points) s

/-- TRS, passing `points` trap points (03 R81). -/
def execTrs (c : CoreId) (points : Nat) (s : State) : Host.Outcome State Fault Refusal :=
  onDev (runLong c.val .trs ⟨setupTrs, stepTrs⟩ points) s

/-- SCN, passing `points` trap points (03 R82). -/
def execScn (c : CoreId) (points : Nat) (s : State) : Host.Outcome State Fault Refusal :=
  onDev (runLong c.val .scn ⟨setupScn, stepScn⟩ points) s

/-- EDIT, passing `points` trap points (03 R83). -/
def execEdit (c : CoreId) (points : Nat) (s : State) : Host.Outcome State Fault Refusal :=
  onDev (runLong c.val .edit ⟨setupEdit 5, stepEdit false⟩ points) s

/-- EDMK, passing `points` trap points (03 R86). -/
def execEdmk (c : CoreId) (points : Nat) (s : State) : Host.Outcome State Fault Refusal :=
  onDev (runLong c.val .edmk ⟨setupEdit 6, stepEdit true⟩ points) s

/-- CLS, passing `points` trap points (03 R80). -/
def execCls (c : CoreId) (points : Nat) (s : State) : Host.Outcome State Fault Refusal :=
  onDev (runLong c.val .cls ⟨setupCls, stepCls⟩ points) s

end Sys2Proof.Machine
end

