-- ==== Sys2Proof/Machine/ExecSystem.lean ====
section
/-!
DEFINITION. Control flow, control and bank registers, the program store, invalidation, and the calls on the Graticule (01, 05, 08, 10).
-/
namespace Sys2Proof.Machine

/-- NOP (05). -/
def execNop (c : CoreId) (s : State) : Host.Outcome State Fault Refusal := onDev (runInstr c.val .nop semNop) s

/-- SYNC (05 R141). -/
def execSync (c : CoreId) (s : State) : Host.Outcome State Fault Refusal := onDev (runInstr c.val .sync semSync) s

/-- FENCE (05 R145). -/
def execFence (c : CoreId) (s : State) : Host.Outcome State Fault Refusal := onDev (runInstr c.val .fence semFence) s

/-- RET (05 R118, R120). -/
def execRet (c : CoreId) (s : State) : Host.Outcome State Fault Refusal := onDev (runInstr c.val .ret semRet) s

/-- WAIT (05 R128). -/
def execWait (c : CoreId) (s : State) : Host.Outcome State Fault Refusal := onDev (runInstr c.val .wait semWait) s

/-- INVALL (10 R272). -/
def execInvall (c : CoreId) (s : State) : Host.Outcome State Fault Refusal := onDev (runInstr c.val .invall semInvall) s

/-- MFCR (01 R20, R410). -/
def execMfcr (c : CoreId) (s : State) : Host.Outcome State Fault Refusal := onDev (runInstr c.val .mfcr semMfcr) s

/-- MTCR (01 R20, R410). -/
def execMtcr (c : CoreId) (s : State) : Host.Outcome State Fault Refusal := onDev (runInstr c.val .mtcr semMtcr) s

/-- DONE (08 R206). -/
def execDoneI (c : CoreId) (s : State) : Host.Outcome State Fault Refusal := onDev (runInstr c.val .doneI semDone) s

/-- POST (08 R208). -/
def execPost (c : CoreId) (s : State) : Host.Outcome State Fault Refusal := onDev (runInstr c.val .post semPost) s

/-- DOORB (08 R209). -/
def execDoorb (c : CoreId) (s : State) : Host.Outcome State Fault Refusal := onDev (runInstr c.val .doorb semDoorb) s

/-- JMPR (05 R116). -/
def execJmpr (c : CoreId) (s : State) : Host.Outcome State Fault Refusal := onDev (runInstr c.val .jmpr semJmpr) s

/-- CALLR (05 R118, R120). -/
def execCallr (c : CoreId) (s : State) : Host.Outcome State Fault Refusal := onDev (runInstr c.val .callr semCallr) s

/-- INVA (10 R272). -/
def execInva (c : CoreId) (s : State) : Host.Outcome State Fault Refusal := onDev (runInstr c.val .inva semInva) s

/-- INVT (10 R272). -/
def execInvt (c : CoreId) (s : State) : Host.Outcome State Fault Refusal := onDev (runInstr c.val .invt semInvt) s

/-- STPW (05 R142). -/
def execStpw (c : CoreId) (s : State) : Host.Outcome State Fault Refusal := onDev (runInstr c.val .stpw semStpw) s

/-- LDPW (01 R25). -/
def execLdpw (c : CoreId) (s : State) : Host.Outcome State Fault Refusal := onDev (runInstr c.val .ldpw semLdpw) s

/-- MFB (05 R132). -/
def execMfb (c : CoreId) (s : State) : Host.Outcome State Fault Refusal := onDev (runInstr c.val .mfb semMfb) s

/-- MTB (05 R132, R133). -/
def execMtb (c : CoreId) (s : State) : Host.Outcome State Fault Refusal := onDev (runInstr c.val .mtb semMtb) s

/-- BCMP (05 R115). -/
def execBcmp (c : CoreId) (s : State) : Host.Outcome State Fault Refusal := onDev (runInstr c.val .bcmp semBcmp) s

/-- JMP (05 R116). -/
def execJmp (c : CoreId) (s : State) : Host.Outcome State Fault Refusal := onDev (runInstr c.val .jmp semJmp) s

/-- CALL (05 R118, R120). -/
def execCall (c : CoreId) (s : State) : Host.Outcome State Fault Refusal := onDev (runInstr c.val .call semCall) s

/-- BCMPL (05 R115). -/
def execBcmpl (c : CoreId) (s : State) : Host.Outcome State Fault Refusal := onDev (runInstr c.val .bcmpl semBcmpl) s

/-- RETT (05 R126, 03 R94). -/
def execRett (c : CoreId) (s : State) : Host.Outcome State Fault Refusal := onDev (beginInstr c.val .rett 0 (fun _ d => doRett c.val (decodeCycle c.val d))) s

/-- GETW (08 R204). -/
def execGetw (c : CoreId) (s : State) : Host.Outcome State Fault Refusal := onDev (beginInstr c.val .getw 0 (fun _ d => doGetw c.val d)) s

end Sys2Proof.Machine
end

