-- ==== Sys2Proof/Machine/ExecUnits.lean ====
section
/-!
DEFINITION. The steps of the engines, the stores, Cairn, Cartouche and the recovery (09, 10, 13, 14).
-/
namespace Sys2Proof.Machine

/-- A ring channel reads PROD (09 R237). -/
def execDmaRingPoll (ch : Fin 1024) (blocks : Nat) (s : State) : Host.Outcome State Fault Refusal :=
  onDev (fun d => d.ringPoll ch.val blocks) s

/-- The descriptor in hand completes; blocks of the next one are moved (09 R241). -/
def execDmaDescriptorComplete (ch : Fin 1024) (blocks : Nat) (s : State) : Host.Outcome State Fault Refusal :=
  onDev (fun d => Dev.moveBlocks ch.val blocks (d.completeDesc ch.val)) s

/-- The channel has moved no byte for its limit (13 R363). -/
def execDmaChannelTimeout (ch : Fin 1024) (s : State) : Host.Outcome State Fault Refusal :=
  onDev (fun d => d.dmaStuck ch.val) s

/-- Engine t's hold times out (09 R246). -/
def execDmaPdTimeout (t : Fin 4) (s : State) : Host.Outcome State Fault Refusal :=
  onDev (fun d => d.holdTimeout t.val) s

/-- A power domain goes off (13 R354). -/
def execDomainOff (code : BitVec 8) (s : State) : Host.Outcome State Fault Refusal :=
  onDev (fun d => d.domainOff code.toNat) s

/-- A power domain comes on (13 R354). -/
def execDomainOn (code : BitVec 8) (s : State) : Host.Outcome State Fault Refusal :=
  onDev (fun d => d.domainOn code.toNat) s

/-- The scrubber reads a word (09 R224). -/
def execScrubRead (addr : Nat) (finding : Fin 3) (s : State) : Host.Outcome State Fault Refusal :=
  onDev (fun d => d.scrubRead addr finding.val) s

/-- The scrubber writes a corrected word back (09 R224). -/
def execScrubWriteback (addr : Nat) (s : State) : Host.Outcome State Fault Refusal :=
  onDev (fun d => d.scrubWrite addr) s

/-- A layer's temperature is read (09 R229). -/
def execDsTempRead (l : Fin 8) (temp : Byte) (s : State) : Host.Outcome State Fault Refusal :=
  onDev (fun d => d.readLayer l.val temp) s

/-- A timing recalibration (09 R230). -/
def execDsRecalibration (s : State) : Host.Outcome State Fault Refusal :=
  onDev (fun d => d.recalibrate) s

/-- Training ends (09 R230). -/
def execDsTrainingDone (lfail : BitVec 8) (s : State) : Host.Outcome State Fault Refusal :=
  onDev (fun d => d.trained lfail) s

/-- A checkpoint set starts (09 R256). -/
def execCheckpointSet (s : State) : Host.Outcome State Fault Refusal :=
  onDev (fun d => d.ckSet) s

/-- The set's signature ends (09 R255). -/
def execCheckpointSigned (s : State) : Host.Outcome State Fault Refusal :=
  onDev (fun d => d.endCk.goOn) s

/-- The oldest stream record's read-back completes (12 R332). -/
def execStreamReadback (s : State) : Host.Outcome State Fault Refusal :=
  onDev (fun d => d.streamBack.goOn) s

/-- The key fill writes its last frame (10 R279). -/
def execSkFillDone (s : State) : Host.Outcome State Fault Refusal :=
  onDev (fun d => d.endFill) s

/-- The load in progress commits (07 R183). -/
def execPatchCommit (s : State) : Host.Outcome State Fault Refusal :=
  onDev (fun d => d.commitLoad false) s

/-- ATTN_N has been low for 20 ms (13 R361). -/
def execAttnN (s : State) : Host.Outcome State Fault Refusal :=
  onDev (fun d => d.attn) s

/-- OUTSTANDING is 0 in DRAIN (13 R360). -/
def execDrainQuiesced (s : State) : Host.Outcome State Fault Refusal :=
  onDev (fun d => d.quiesced) s

/-- The stream wait of DRAIN runs out (13 R360). -/
def execDrainStreamTimeout (s : State) : Host.Outcome State Fault Refusal :=
  onDev (fun d => d.streamWaitOver) s

/-- The junction sensors are read (13 R348). -/
def execThermalSensorRead (temps : List Byte) (s : State) : Host.Outcome State Fault Refusal :=
  onDev (fun d => d.readSensors temps) s

/-- A thermal trip (13 R352). -/
def execThermalTrip (temp : Byte) (s : State) : Host.Outcome State Fault Refusal :=
  onDev (fun d => d.trip temp.toInt) s

/-- The pending device warm reset is made (13 R359). -/
def execDeviceWarmReset (s : State) : Host.Outcome State Fault Refusal :=
  onDev (fun d => d.warmReset) s

/-- A fabric request is unanswered (13 R364). -/
def execFabricTimeout (addr : BitVec 40) (master : BitVec 12) (s : State) : Host.Outcome State Fault Refusal :=
  onDev (fun d => d.fabricTimeout addr.toNat master.toNat) s

/-- A fenced frond is empty (13 R355). -/
def execFrondFenceComplete (f : Fin 32) (s : State) : Host.Outcome State Fault Refusal :=
  onDev (fun d => d.fenceDone f.val) s

/-- VDD_AON rises (13 R353, R356). -/
def execVddAonRise (s : State) : Host.Outcome State Fault Refusal :=
  onDev (fun d => d.powerOn true) s

/-- Power is removed (00 R2). -/
def execPowerRemoved (s : State) : Host.Outcome State Fault Refusal :=
  onDev (fun d => d.powerOn false) s

/-- PORST_N rises (13 R353, 15 R392). -/
def execPorstNRise (strap : BitVec 3) (test : Bool) (s : State) : Host.Outcome State Fault Refusal :=
  onDev (fun d => d.porstRise strap test) s

/-- PORST_N falls (13 R353). -/
def execPorstNFall (s : State) : Host.Outcome State Fault Refusal :=
  onDev (fun d => d.porstFall) s

/-- PWROK rises (13 R346, R353). -/
def execPwrokRise (rails : BitVec 7) (s : State) : Host.Outcome State Fault Refusal :=
  onDev (fun d => d.pwrokRise rails) s

/-- PWROK falls (13 R353). -/
def execPwrokFall (s : State) : Host.Outcome State Fault Refusal :=
  onDev (fun d => d.pwrokFall) s

/-- Supplies below range (15 R396). -/
def execRailFault (low : BitVec 7) (s : State) : Host.Outcome State Fault Refusal :=
  onDev (fun d => d.railFault low) s

/-- REFCLK is lost (15 R402). -/
def execRefclkLoss (s : State) : Host.Outcome State Fault Refusal :=
  onDev (fun d => d.refclkLoss) s

/-- PWROK has not risen in time (13 R346). -/
def execPwrokWaitTimeout (s : State) : Host.Outcome State Fault Refusal :=
  onDev (fun d => d.pwrokWaitOver) s

/-- Meridian reaches alarm i (13 R345). -/
def execAlarmMatch (i : Fin 8) (s : State) : Host.Outcome State Fault Refusal :=
  onDev (fun d => d.alarm i.val) s

/-- Wake comparator j matches (13 R345). -/
def execWakeMatch (j : Fin 4) (before level : Bool) (held : Nat) (s : State) : Host.Outcome State Fault Refusal :=
  onDev (fun d => d.wakePin j.val before level held) s

/-- 1,000 fc have passed (13 R344). -/
def execCivilTrimTick (s : State) : Host.Outcome State Fault Refusal :=
  onDev (fun d => d.civTrim) s

/-- Civil time reaches a whole second (13 R344). -/
def execPpsOutEdge (s : State) : Host.Outcome State Fault Refusal :=
  onDev (fun d => d.ppsOut) s

/-- An edge of PPS_IN (13 R344). -/
def execPpsInEdge (rising : Bool) (s : State) : Host.Outcome State Fault Refusal :=
  onDev (fun d => d.ppsIn rising) s

/-- The report's signature ends (14 R381). -/
def execAttestationSigned (s : State) : Host.Outcome State Fault Refusal :=
  onDev (fun d => d.atSigned) s

/-- The nonce is 60 s old (14 R385). -/
def execNonceExpiry (s : State) : Host.Outcome State Fault Refusal :=
  onDev (fun d => d.nonceOver) s

/-- The session's time is over (14 R388). -/
def execSessionExpiry (s : State) : Host.Outcome State Fault Refusal :=
  onDev (fun d => d.sessionOver) s

end Sys2Proof.Machine
end

