-- ==== Sys2Proof/Machine/Dispatch.lean ====
section
/-!
DEFINITION. One arm per command: its meaning.
-/
namespace Sys2Proof.Machine

/-- The effect of a command on everything but the queue. -/
def exec (i : Instr) (s : State) : Host.Outcome State Fault Refusal :=
  match i with
  | .nop c => Sys2Proof.Machine.execNop c s
  | .sync c => Sys2Proof.Machine.execSync c s
  | .fence c => Sys2Proof.Machine.execFence c s
  | .ret c => Sys2Proof.Machine.execRet c s
  | .rett c => Sys2Proof.Machine.execRett c s
  | .getw c => Sys2Proof.Machine.execGetw c s
  | .wait c => Sys2Proof.Machine.execWait c s
  | .invall c => Sys2Proof.Machine.execInvall c s
  | .neg c => Sys2Proof.Machine.execNeg c s
  | .ld c => Sys2Proof.Machine.execLd c s
  | .st c => Sys2Proof.Machine.execSt c s
  | .add c => Sys2Proof.Machine.execAdd c s
  | .sub c => Sys2Proof.Machine.execSub c s
  | .mul c => Sys2Proof.Machine.execMul c s
  | .div c => Sys2Proof.Machine.execDiv c s
  | .rem c => Sys2Proof.Machine.execRem c s
  | .divu c => Sys2Proof.Machine.execDivu c s
  | .remu c => Sys2Proof.Machine.execRemu c s
  | .and c => Sys2Proof.Machine.execAnd c s
  | .or c => Sys2Proof.Machine.execOr c s
  | .xor c => Sys2Proof.Machine.execXor c s
  | .shl c => Sys2Proof.Machine.execShl c s
  | .shr c => Sys2Proof.Machine.execShr c s
  | .sar c => Sys2Proof.Machine.execSar c s
  | .rol c => Sys2Proof.Machine.execRol c s
  | .ror c => Sys2Proof.Machine.execRor c s
  | .ldb c => Sys2Proof.Machine.execLdb c s
  | .stb c => Sys2Proof.Machine.execStb c s
  | .lda c => Sys2Proof.Machine.execLda c s
  | .ldx1 c => Sys2Proof.Machine.execLdx1 c s
  | .ldx2 c => Sys2Proof.Machine.execLdx2 c s
  | .stx1 c => Sys2Proof.Machine.execStx1 c s
  | .stx2 c => Sys2Proof.Machine.execStx2 c s
  | .adx1 c => Sys2Proof.Machine.execAdx1 c s
  | .adx2 c => Sys2Proof.Machine.execAdx2 c s
  | .lax1 c => Sys2Proof.Machine.execLax1 c s
  | .lax2 c => Sys2Proof.Machine.execLax2 c s
  | .ldsp c => Sys2Proof.Machine.execLdsp c s
  | .stsp c => Sys2Proof.Machine.execStsp c s
  | .adsp c => Sys2Proof.Machine.execAdsp c s
  | .lasp c => Sys2Proof.Machine.execLasp c s
  | .mfcr c => Sys2Proof.Machine.execMfcr c s
  | .mtcr c => Sys2Proof.Machine.execMtcr c s
  | .doneI c => Sys2Proof.Machine.execDoneI c s
  | .post c => Sys2Proof.Machine.execPost c s
  | .doorb c => Sys2Proof.Machine.execDoorb c s
  | .jmpr c => Sys2Proof.Machine.execJmpr c s
  | .callr c => Sys2Proof.Machine.execCallr c s
  | .inva c => Sys2Proof.Machine.execInva c s
  | .invt c => Sys2Proof.Machine.execInvt c s
  | .stpw c => Sys2Proof.Machine.execStpw c s
  | .ldpw c => Sys2Proof.Machine.execLdpw c s
  | .mfb c => Sys2Proof.Machine.execMfb c s
  | .mtb c => Sys2Proof.Machine.execMtb c s
  | .dld c => Sys2Proof.Machine.execDld c s
  | .dst c => Sys2Proof.Machine.execDst c s
  | .dadd c => Sys2Proof.Machine.execDadd c s
  | .dsub c => Sys2Proof.Machine.execDsub c s
  | .dmul c points => Sys2Proof.Machine.execDmul c points s
  | .ddiv c points => Sys2Proof.Machine.execDdiv c points s
  | .drem c points => Sys2Proof.Machine.execDrem c points s
  | .dscl c => Sys2Proof.Machine.execDscl c s
  | .dcvb c => Sys2Proof.Machine.execDcvb c s
  | .dcvd c => Sys2Proof.Machine.execDcvd c s
  | .tally c => Sys2Proof.Machine.execTally c s
  | .dcmpb c => Sys2Proof.Machine.execDcmpb c s
  | .daddm c points => Sys2Proof.Machine.execDaddm c points s
  | .dsubm c points => Sys2Proof.Machine.execDsubm c points s
  | .packz c => Sys2Proof.Machine.execPackz c s
  | .unpkz c => Sys2Proof.Machine.execUnpkz c s
  | .mvs c points => Sys2Proof.Machine.execMvs c points s
  | .trs c points => Sys2Proof.Machine.execTrs c points s
  | .scn c points => Sys2Proof.Machine.execScn c points s
  | .edit c points => Sys2Proof.Machine.execEdit c points s
  | .edmk c points => Sys2Proof.Machine.execEdmk c points s
  | .cls c points => Sys2Proof.Machine.execCls c points s
  | .bcmp c => Sys2Proof.Machine.execBcmp c s
  | .jmp c => Sys2Proof.Machine.execJmp c s
  | .call c => Sys2Proof.Machine.execCall c s
  | .bcmpl c => Sys2Proof.Machine.execBcmpl c s
  | .rrAdd c => Sys2Proof.Machine.execRrAdd c s
  | .rrSub c => Sys2Proof.Machine.execRrSub c s
  | .rrMul c => Sys2Proof.Machine.execRrMul c s
  | .mulhs c => Sys2Proof.Machine.execMulhs c s
  | .mulhu c => Sys2Proof.Machine.execMulhu c s
  | .rrDiv c => Sys2Proof.Machine.execRrDiv c s
  | .rrDivu c => Sys2Proof.Machine.execRrDivu c s
  | .rrRem c => Sys2Proof.Machine.execRrRem c s
  | .rrRemu c => Sys2Proof.Machine.execRrRemu c s
  | .rrAnd c => Sys2Proof.Machine.execRrAnd c s
  | .rrOr c => Sys2Proof.Machine.execRrOr c s
  | .rrXor c => Sys2Proof.Machine.execRrXor c s
  | .andn c => Sys2Proof.Machine.execAndn c s
  | .rrShl c => Sys2Proof.Machine.execRrShl c s
  | .rrShr c => Sys2Proof.Machine.execRrShr c s
  | .rrSar c => Sys2Proof.Machine.execRrSar c s
  | .rrRol c => Sys2Proof.Machine.execRrRol c s
  | .rrRor c => Sys2Proof.Machine.execRrRor c s
  | .rrNeg c => Sys2Proof.Machine.execRrNeg c s
  | .not c => Sys2Proof.Machine.execNot c s
  | .mov c => Sys2Proof.Machine.execMov c s
  | .slt c => Sys2Proof.Machine.execSlt c s
  | .sltu c => Sys2Proof.Machine.execSltu c s
  | .faddS c => Sys2Proof.Machine.execFaddS c s
  | .faddD c => Sys2Proof.Machine.execFaddD c s
  | .fsubS c => Sys2Proof.Machine.execFsubS c s
  | .fsubD c => Sys2Proof.Machine.execFsubD c s
  | .fmulS c => Sys2Proof.Machine.execFmulS c s
  | .fmulD c => Sys2Proof.Machine.execFmulD c s
  | .fdivS c => Sys2Proof.Machine.execFdivS c s
  | .fdivD c => Sys2Proof.Machine.execFdivD c s
  | .fsqrtS c => Sys2Proof.Machine.execFsqrtS c s
  | .fsqrtD c => Sys2Proof.Machine.execFsqrtD c s
  | .fminS c => Sys2Proof.Machine.execFminS c s
  | .fminD c => Sys2Proof.Machine.execFminD c s
  | .fmaxS c => Sys2Proof.Machine.execFmaxS c s
  | .fmaxD c => Sys2Proof.Machine.execFmaxD c s
  | .feqS c => Sys2Proof.Machine.execFeqS c s
  | .feqD c => Sys2Proof.Machine.execFeqD c s
  | .fltS c => Sys2Proof.Machine.execFltS c s
  | .fltD c => Sys2Proof.Machine.execFltD c s
  | .fleS c => Sys2Proof.Machine.execFleS c s
  | .fleD c => Sys2Proof.Machine.execFleD c s
  | .fcvtDS c => Sys2Proof.Machine.execFcvtDS c s
  | .fcvtSD c => Sys2Proof.Machine.execFcvtSD c s
  | .fcvtSL c => Sys2Proof.Machine.execFcvtSL c s
  | .fcvtDL c => Sys2Proof.Machine.execFcvtDL c s
  | .fcvtLS c => Sys2Proof.Machine.execFcvtLS c s
  | .fcvtLD c => Sys2Proof.Machine.execFcvtLD c s
  | .ldi c => Sys2Proof.Machine.execLdi c s
  | .ldhi c => Sys2Proof.Machine.execLdhi c s
  | .addi c => Sys2Proof.Machine.execAddi c s
  | .andi c => Sys2Proof.Machine.execAndi c s
  | .ori c => Sys2Proof.Machine.execOri c s
  | .xori c => Sys2Proof.Machine.execXori c s
  | .shli c => Sys2Proof.Machine.execShli c s
  | .shri c => Sys2Proof.Machine.execShri c s
  | .sari c => Sys2Proof.Machine.execSari c s
  | .roli c => Sys2Proof.Machine.execRoli c s
  | .muli c => Sys2Proof.Machine.execMuli c s
  | .ld8u c => Sys2Proof.Machine.execLd8u c s
  | .ld8s c => Sys2Proof.Machine.execLd8s c s
  | .ld16u c => Sys2Proof.Machine.execLd16u c s
  | .ld16s c => Sys2Proof.Machine.execLd16s c s
  | .ld32u c => Sys2Proof.Machine.execLd32u c s
  | .ld32s c => Sys2Proof.Machine.execLd32s c s
  | .ld64 c => Sys2Proof.Machine.execLd64 c s
  | .st8 c => Sys2Proof.Machine.execSt8 c s
  | .st16 c => Sys2Proof.Machine.execSt16 c s
  | .st32 c => Sys2Proof.Machine.execSt32 c s
  | .st64 c => Sys2Proof.Machine.execSt64 c s
  | .takeInterrupt c abandon => Sys2Proof.Machine.execTakeInterrupt c abandon s
  | .coreTimerExpiry c => Sys2Proof.Machine.execCoreTimerExpiry c s
  | .budgetOverrun c => Sys2Proof.Machine.execBudgetOverrun c s
  | .graceExhausted c => Sys2Proof.Machine.execGraceExhausted c s
  | .watchdogExpiry c => Sys2Proof.Machine.execWatchdogExpiry c s
  | .machineCheck c cause => Sys2Proof.Machine.execMachineCheck c cause s
  | .prefetchWalk c => Sys2Proof.Machine.execPrefetchWalk c s
  | .writeBufferDrain c => Sys2Proof.Machine.execWriteBufferDrain c s
  | .itemDispatch c stopAfter => Sys2Proof.Machine.execItemDispatch c stopAfter s
  | .frameReceive p frame fcsGood => Sys2Proof.Machine.execFrameReceive p frame fcsGood s
  | .admitItem => Sys2Proof.Machine.execAdmitItem s
  | .stageItem item => Sys2Proof.Machine.execStageItem item s
  | .doneTextRead item => Sys2Proof.Machine.execDoneTextRead item s
  | .cairnSeal item => Sys2Proof.Machine.execCairnSeal item s
  | .commitTimeout item => Sys2Proof.Machine.execCommitTimeout item s
  | .frameTransmit p => Sys2Proof.Machine.execFrameTransmit p s
  | .fineTick => Sys2Proof.Machine.execFineTick s
  | .queueMigration q f => Sys2Proof.Machine.execQueueMigration q f s
  | .shadowSwap => Sys2Proof.Machine.execShadowSwap s
  | .swapArm m arm => Sys2Proof.Machine.execSwapArm m arm s
  | .swapNow m => Sys2Proof.Machine.execSwapNow m s
  | .swapDiscard m => Sys2Proof.Machine.execSwapDiscard m s
  | .pageResync m page => Sys2Proof.Machine.execPageResync m page s
  | .shadowDigestDone => Sys2Proof.Machine.execShadowDigestDone s
  | .registerWrite m page off be v => Sys2Proof.Machine.execRegisterWrite m page off be v s
  | .registerBusTimeout m page off write made => Sys2Proof.Machine.execRegisterBusTimeout m page off write made s
  | .dbAck m c => Sys2Proof.Machine.execDbAck m c s
  | .hirqSet m g v => Sys2Proof.Machine.execHirqSet m g v s
  | .dmaGo m ch blocks => Sys2Proof.Machine.execDmaGo m ch blocks s
  | .dmaAbort m ch => Sys2Proof.Machine.execDmaAbort m ch s
  | .dmaRingPoll ch blocks => Sys2Proof.Machine.execDmaRingPoll ch blocks s
  | .dmaDescriptorComplete ch blocks => Sys2Proof.Machine.execDmaDescriptorComplete ch blocks s
  | .dmaChannelTimeout ch => Sys2Proof.Machine.execDmaChannelTimeout ch s
  | .powerDownRequest m v => Sys2Proof.Machine.execPowerDownRequest m v s
  | .powerUpRequest m v => Sys2Proof.Machine.execPowerUpRequest m v s
  | .dmaPdTimeout t => Sys2Proof.Machine.execDmaPdTimeout t s
  | .domainOff code => Sys2Proof.Machine.execDomainOff code s
  | .domainOn code => Sys2Proof.Machine.execDomainOn code s
  | .scrubRead addr finding => Sys2Proof.Machine.execScrubRead addr finding s
  | .scrubWriteback addr => Sys2Proof.Machine.execScrubWriteback addr s
  | .dsTempRead l temp => Sys2Proof.Machine.execDsTempRead l temp s
  | .dsRecalibration => Sys2Proof.Machine.execDsRecalibration s
  | .dsTrain m => Sys2Proof.Machine.execDsTrain m s
  | .dsTrainingDone lfail => Sys2Proof.Machine.execDsTrainingDone lfail s
  | .chConsWrite m chain v => Sys2Proof.Machine.execChConsWrite m chain v s
  | .checkpointSet => Sys2Proof.Machine.execCheckpointSet s
  | .ckNow m => Sys2Proof.Machine.execCkNow m s
  | .checkpointSigned => Sys2Proof.Machine.execCheckpointSigned s
  | .streamReadback => Sys2Proof.Machine.execStreamReadback s
  | .streamTimeout => Sys2Proof.Machine.execStreamTimeout s
  | .skData m v => Sys2Proof.Machine.execSkData m v s
  | .skFill m v frames => Sys2Proof.Machine.execSkFill m v frames s
  | .skFillDone => Sys2Proof.Machine.execSkFillDone s
  | .gwCtlWrite m g w v => Sys2Proof.Machine.execGwCtlWrite m g w v s
  | .gwRangeWrite m g w size v => Sys2Proof.Machine.execGwRangeWrite m g w size v s
  | .captureClear m page v => Sys2Proof.Machine.execCaptureClear m page v s
  | .glTailWrite m v => Sys2Proof.Machine.execGlTailWrite m v s
  | .brImageWrite m c n word v => Sys2Proof.Machine.execBrImageWrite m c n word v s
  | .lockWrite m page v => Sys2Proof.Machine.execLockWrite m page v s
  | .ucLoadStart m => Sys2Proof.Machine.execUcLoadStart m s
  | .patchCommit => Sys2Proof.Machine.execPatchCommit s
  | .patchRefill c parityOk => Sys2Proof.Machine.execPatchRefill c parityOk s
  | .modeReqDatum m discard => Sys2Proof.Machine.execModeReqDatum m discard s
  | .modeReqStandby m => Sys2Proof.Machine.execModeReqStandby m s
  | .modeReqRun m => Sys2Proof.Machine.execModeReqRun m s
  | .modeReqDrain m => Sys2Proof.Machine.execModeReqDrain m s
  | .attnN => Sys2Proof.Machine.execAttnN s
  | .drainQuiesced => Sys2Proof.Machine.execDrainQuiesced s
  | .drainStreamTimeout => Sys2Proof.Machine.execDrainStreamTimeout s
  | .thermalSensorRead temps => Sys2Proof.Machine.execThermalSensorRead temps s
  | .thermalTrip temp => Sys2Proof.Machine.execThermalTrip temp s
  | .healthWarm m v => Sys2Proof.Machine.execHealthWarm m v s
  | .deviceWarmReset => Sys2Proof.Machine.execDeviceWarmReset s
  | .contextWatchdogExpiry c => Sys2Proof.Machine.execContextWatchdogExpiry c s
  | .coreHeartbeatExpiry c => Sys2Proof.Machine.execCoreHeartbeatExpiry c s
  | .frondSlotTimeout f => Sys2Proof.Machine.execFrondSlotTimeout f s
  | .fabricTimeout addr master => Sys2Proof.Machine.execFabricTimeout addr master s
  | .hlTailWrite m v => Sys2Proof.Machine.execHlTailWrite m v s
  | .frfenceWrite m v => Sys2Proof.Machine.execFrfenceWrite m v s
  | .frondFenceComplete f => Sys2Proof.Machine.execFrondFenceComplete f s
  | .vddAonRise => Sys2Proof.Machine.execVddAonRise s
  | .porstNRise strap test => Sys2Proof.Machine.execPorstNRise strap test s
  | .porstNFall => Sys2Proof.Machine.execPorstNFall s
  | .pwrokFall => Sys2Proof.Machine.execPwrokFall s
  | .railFault low => Sys2Proof.Machine.execRailFault low s
  | .refclkLoss => Sys2Proof.Machine.execRefclkLoss s
  | .crozierStart slot0 slot1 => Sys2Proof.Machine.execCrozierStart slot0 slot1 s
  | .bootStageTimeout stage second slot0 slot1 => Sys2Proof.Machine.execBootStageTimeout stage second slot0 slot1 s
  | .flashCopy flash => Sys2Proof.Machine.execFlashCopy flash s
  | .regWrite => Sys2Proof.Machine.execRegWrite s
  | .regRead => Sys2Proof.Machine.execRegRead s
  | .patch => Sys2Proof.Machine.execPatch s
  | .rollback => Sys2Proof.Machine.execRollback s
  | .enroll => Sys2Proof.Machine.execEnroll s
  | .ownerOnly => Sys2Proof.Machine.execOwnerOnly s
  | .surveyOff => Sys2Proof.Machine.execSurveyOff s
  | .crozierDone => Sys2Proof.Machine.execCrozierDone s
  | .alarmMatch a => Sys2Proof.Machine.execAlarmMatch a s
  | .wakeMatch j before level held => Sys2Proof.Machine.execWakeMatch j before level held s
  | .pwrokWaitTimeout => Sys2Proof.Machine.execPwrokWaitTimeout s
  | .meridianLoad m => Sys2Proof.Machine.execMeridianLoad m s
  | .civOffWrite m hi v => Sys2Proof.Machine.execCivOffWrite m hi v s
  | .civilTrimTick => Sys2Proof.Machine.execCivilTrimTick s
  | .ppsOutEdge => Sys2Proof.Machine.execPpsOutEdge s
  | .ppsInEdge rising => Sys2Proof.Machine.execPpsInEdge rising s
  | .lgCfgWrite m g v => Sys2Proof.Machine.execLgCfgWrite m g v s
  | .macCfgWrite m p v => Sys2Proof.Machine.execMacCfgWrite m p v s
  | .rzMeterWrite m p v => Sys2Proof.Machine.execRzMeterWrite m p v s
  | .ukCtlWrite m v => Sys2Proof.Machine.execUkCtlWrite m v s
  | .pfcXoffRepeat p => Sys2Proof.Machine.execPfcXoffRepeat p s
  | .ptpTxtsPop m => Sys2Proof.Machine.execPtpTxtsPop m s
  | .linkTrained g k => Sys2Proof.Machine.execLinkTrained g k s
  | .linkLoss g k => Sys2Proof.Machine.execLinkLoss g k s
  | .hello west payload => Sys2Proof.Machine.execHello west payload s
  | .beatSend => Sys2Proof.Machine.execBeatSend s
  | .beat west src payload => Sys2Proof.Machine.execBeat west src payload s
  | .topo west src payload => Sys2Proof.Machine.execTopo west src payload s
  | .leave src => Sys2Proof.Machine.execLeave src s
  | .memberLost d => Sys2Proof.Machine.execMemberLost d s
  | .healthFlit src dst record => Sys2Proof.Machine.execHealthFlit src dst record s
  | .cmsg src dst msg => Sys2Proof.Machine.execCmsg src dst msg s
  | .cack src dst payload => Sys2Proof.Machine.execCack src dst payload s
  | .nak west ack => Sys2Proof.Machine.execNak west ack s
  | .replayTimeout west => Sys2Proof.Machine.execReplayTimeout west s
  | .rreq src dst payload => Sys2Proof.Machine.execRreq src dst payload s
  | .rrsp src dst payload => Sys2Proof.Machine.execRrsp src dst payload s
  | .remoteAccessTimeout tag => Sys2Proof.Machine.execRemoteAccessTimeout tag s
  | .remoteWindowAccess off write => Sys2Proof.Machine.execRemoteWindowAccess off write s
  | .bar4Access off write len => Sys2Proof.Machine.execBar4Access off write len s
  | .pcieLinkDown => Sys2Proof.Machine.execPcieLinkDown s
  | .perstN => Sys2Proof.Machine.execPerstN s
  | .pcieLinkUp speed width mps => Sys2Proof.Machine.execPcieLinkUp speed width mps s
  | .msixUnmask v addr data => Sys2Proof.Machine.execMsixUnmask v addr data s
  | .mbxReqWrite mb off bytes => Sys2Proof.Machine.execMbxReqWrite mb off bytes s
  | .mbxGo mb v => Sys2Proof.Machine.execMbxGo mb v s
  | .mbxAck mb v => Sys2Proof.Machine.execMbxAck mb v s
  | .atGo m => Sys2Proof.Machine.execAtGo m s
  | .attestationSigned => Sys2Proof.Machine.execAttestationSigned s
  | .svChal m => Sys2Proof.Machine.execSvChal m s
  | .svDataWrite m v => Sys2Proof.Machine.execSvDataWrite m v s
  | .svSubmit m => Sys2Proof.Machine.execSvSubmit m s
  | .svEnd m => Sys2Proof.Machine.execSvEnd m s
  | .svWarm m => Sys2Proof.Machine.execSvWarm m s
  | .nonceExpiry => Sys2Proof.Machine.execNonceExpiry s
  | .sessionExpiry => Sys2Proof.Machine.execSessionExpiry s
  | .trstN => Sys2Proof.Machine.execTrstN s
  | .extest v => Sys2Proof.Machine.execExtest v s
  | .idcode => Sys2Proof.Machine.execIdcode s
  | .samplePreload v => Sys2Proof.Machine.execSamplePreload v s
  | .clamp => Sys2Proof.Machine.execClamp s
  | .highz => Sys2Proof.Machine.execHighz s
  | .svchal v => Sys2Proof.Machine.execSvchal v s
  | .svresp v => Sys2Proof.Machine.execSvresp v s
  | .svstat => Sys2Proof.Machine.execSvstat s
  | .dbgmem addr write => Sys2Proof.Machine.execDbgmem addr write s
  | .dbgcore c bank reg => Sys2Proof.Machine.execDbgcore c bank reg s
  | .bypass => Sys2Proof.Machine.execBypass s
  | .i2cRead len => Sys2Proof.Machine.execI2cRead len s
  | .i2cIndexWrite bytes => Sys2Proof.Machine.execI2cIndexWrite bytes s
  | .pwrokRise rails => Sys2Proof.Machine.execPwrokRise rails s
  | .powerRemoved => Sys2Proof.Machine.execPowerRemoved s
  | .linkTrainingFailed g k => Sys2Proof.Machine.execLinkTrainingFailed g k s
  | .flitBadCrcOrGap west => Sys2Proof.Machine.execFlitBadCrcOrGap west s
  | .idle west ack crd => Sys2Proof.Machine.execIdle west ack crd s
  | .d3hot enter => Sys2Proof.Machine.execD3hot enter s

end Sys2Proof.Machine
end

