-- ==== Sys2Proof/Safety.lean ====
section
/-!
DEFINITION. What a safe run is, the invariants that statements speak of, and the words in which statements say what a command finds
and leaves.
-/
namespace Sys2Proof.Machine

/-- A step that goes on: no fault, no refusal. -/
def Goes (s : State) : Prop := ∃ t, step s = .next t

/-! ### Invariants -/

/-- Fuses only ever blow (14 R370): each of `b` is blown at least as far as in `a`. An enrolled OWNER_HASH stays. -/
def Fuses.grown (a b : Fuses) : Prop :=
  (a.ownerHash ≠ 0 → b.ownerHash = a.ownerHash) ∧ (a.ownerOnly = true → b.ownerOnly = true) ∧ a.rollback ≤ b.rollback ∧ a.epoch ≤ b.epoch ∧
    (a.surveyDis = true → b.surveyDis = true)

/-- The fuses hold counts within Table 14.1. -/
def Fuses.inRange (f : Fuses) : Prop := f.rollback ≤ 64 ∧ f.epoch ≤ 1024

/-- The invariant of the stores: canonical form. -/
def Dev.memOk (d : Dev) : Prop := Memory.wf d.mem

/-! ### Register writes -/

/-- Whether a write of master m to the register at an offset of a page reaches that register: its way is open, the page's slot grants
it, the page is there and in a domain that is on, and the register is writable and not locked (11 R289 to R298). -/
def Dev.writable (d : Dev) (m : RegMaster) (page off : Nat) : Bool :=
  d.reaches m true &&
    (m == .crozier || (grantOf (d.reg (rk .gslot (page / 512) (0x100 + 4 * (page % 512)))) 0 (d.regReq m) .write).isNone) &&
    (match pageOf page with
      | none => false
      | some (r, i) =>
        (match pageThallus r.type i with
          | some t => d.thOn t
          | none => true) &&
        (match regDefAt r.type off with
          | none => false
          | some (rd, idx) => !readOnly r.type i rd idx && (!d.locked r.type page idx rd || rd.off == 0x28)))

/-- A command has made the device `w`; the fuses and the queue are as before. -/
def toDev (s : State) (w : Dev) : Host.Outcome State Fault Refusal := .next { s with dev := w }

/-- Whether a master's access is let through to the pages: its way is open and the page's slot grants it (11 R289, R290). -/
def Dev.lets (d : Dev) (m : RegMaster) (page : Nat) (acc : Acc) : Prop :=
  d.reaches m acc.writes = true ∧ (m = .crozier ∨ grantOf (d.reg (rk .gslot (page / 512) (0x100 + 4 * (page % 512)))) 0 (d.regReq m) acc = none)

/-- A device with some registers written: everything but `regs` as before, and each register not in `ks` reads as before. -/
def Dev.onlyRegs (d w : Dev) (ks : List Nat) : Prop := w = { d with regs := w.regs } ∧ ∀ k, k ∉ ks → w.reg k = d.reg k

/-! ### Instructions -/

/-- Core c stands at the instruction `i`: it runs, no asynchronous trap is due, the words at its PC decode to `i`, and no patch stands on
the instruction's ROM path (07 R170), nor does it stand at a trap point of patch RAM. -/
def Dev.standsAt (d : Dev) (c : Nat) (i : Dec) : Prop :=
  d.executes c = true ∧ asyncDue d c = none ∧ decodeNext d c = .ok i ∧ d.romRuns c i.op = true

/-- The device as core c's next instruction begins: its decode cycle counted. -/
def Dev.begun (d : Dev) (c : Nat) : Dev := decodeCycle c (d.modCore c (fun x => { x with stored := false, spent := 0, unbilled := 0, paid := false }))

/-- `n` more cycles spent by core c's instruction. -/
def Dev.ticked (d : Dev) (c n : Nat) : Dev := d.modCore c (fun x => { x with spent := x.spent + n })

/-- A value that an update names, or the one that stands. -/
def pick (n : Nat) (u : Option (Nat × W64)) (v : W64) : W64 :=
  match u with
  | some (m, w) => if n = m then w else v
  | none => v

/-- A bank without its general registers, PC and dirty bits: what an instruction that only computes leaves alone. -/
def Bank.others (b : Bank) : Bank := { b with g := [], pc := 0, dirty := 0 }

/-- A core without its banks, its fetch latch, its load delay, its counters and what its sequencer keeps between microwords. -/
def Core.others (x : Core) : Core :=
  { x with banks := [], latch := none, ldPend := none, flight := none, prefetch := none, budget := 0, onGrace := false, ctimer := 0
           pendTimer := false, pendOverrun := false, wdog := 0, wdogHi := 0, cc := 0, spent := 0, unbilled := 0, paid := false, stored := false, ctxCc := 0
           micro := { x.micro with stack := [], next := none } }

/-- Core c's instruction has retired, device d (as its operands were read) having become w: registers `regs`, PC `pc`, a load under way
`ld`; nothing else of the device has changed but the core's counters. `bank`: what stands in the rest of the current bank. -/
structure Retired (c : Nat) (d w : Dev) (regs : Nat → W64) (pc : BitVec 16) (ld : Option (Nat × W64)) (bank : Bank) : Prop where
  dev : w = d.setCore c (w.core c)
  regs : ∀ n, (w.core c).g n = regs n
  pc : (w.core c).cb.pc = pc
  ld : (w.core c).ldPend = ld
  bank : (w.core c).cb.others = bank.others
  cur : (w.core c).cur = (d.core c).cur
  banks : ∀ b, b ≠ (d.core c).cur → (w.core c).bank b = (d.core c).bank b
  core : (w.core c).others = (d.core c).others

/-- What core c's reads of its operands may change: its block registers and their ranking, a prefetch, its cycles; key bytes (10
R278); ECC counters and marks of corrected words (09 R224); the A bit of block descriptors (10 R270). -/
structure Reads (c : Nat) (d z : Dev) : Prop where
  dev : z = { d with cores := z.cores, mem := z.mem, keys := z.keys, regs := z.regs, corr := z.corr, scrub := z.scrub }
  core : z.core c = { d.core c with br := (z.core c).br, brRank := (z.core c).brRank, prefetch := (z.core c).prefetch
                                    spent := (z.core c).spent }
  cores : ∀ e, e ≠ c → z.core e = d.core e
  regs : ∀ k, (∀ t : Tier, ∀ e, t.eccPage = some e → ¬(e ≤ k ∧ k < e + 16)) → z.reg k = d.reg k
  bytes : ∀ a, z.byte a = d.byte a ∨ (a % 16 = 7 ∧ z.byte a = d.byte a ||| 2)

/-- What core c's stores may change besides: its write buffer, the mark that it has stored, the stores' bytes. -/
structure Writes (c : Nat) (d z : Dev) : Prop where
  dev : z = { d with cores := z.cores, mem := z.mem, pstore := z.pstore, keys := z.keys, regs := z.regs, corr := z.corr, uncorr := z.uncorr
                     scrub := z.scrub }
  core : z.core c = { d.core c with br := (z.core c).br, brRank := (z.core c).brRank, prefetch := (z.core c).prefetch
                                    spent := (z.core c).spent, wbuf := (z.core c).wbuf, stored := (z.core c).stored }
  cores : ∀ e, e ≠ c → z.core e = d.core e
  regs : ∀ k, (∀ t : Tier, ∀ e, t.eccPage = some e → ¬(e ≤ k ∧ k < e + 16)) → z.reg k = d.reg k

/-- The word after an instruction. -/
def nextPc (x : Core) (i : Dec) : BitVec 16 := x.cb.pc + BitVec.ofNat 16 i.n

/-- The state after core c's instruction, its grace judged (08 R205), and its watchdog (07 R175). -/
def ranTo (s : State) (c : Nat) (w : Dev) : Host.Outcome State Fault Refusal :=
  .next { s with dev := settleWatch c (s.dev.core c) (settleGrace c w) }

/-! ### The binary operations by name (04 Tables 4.1 to 4.3) -/

/-- A binary operation: the command and instruction, its result, when it overflows, whether it divides by its second operand.
-/
structure AluRow where
  cmd : CoreId → Instr
  op : Op
  val : W64 → W64 → W64
  ovf : W64 → W64 → Bool := fun _ _ => false
  divides : Bool := false
  /-- its cycles, but for those of a memory operand -/
  cc : Nat := 2

/-- 1 or 0. -/
def flag64 (b : Bool) : W64 := if b then 1 else 0

/-- The REGISTER-mode operations Gd := Ga op Gb. -/
def rrRows : List AluRow :=
  [{ cmd := .rrAdd, op := .rrAdd, val := fun a b => a + b, ovf := BitVec.saddOverflow },
   { cmd := .rrSub, op := .rrSub, val := fun a b => a - b, ovf := BitVec.ssubOverflow },
   { cmd := .rrMul, op := .rrMul, val := fun a b => a * b, ovf := BitVec.smulOverflow, cc := 4 },
   { cmd := .mulhs, op := .mulhs, val := fun a b => BitVec.ofInt 64 (a.toInt * b.toInt / 2 ^ 64), cc := 4 },
   { cmd := .mulhu, op := .mulhu, val := fun a b => BitVec.ofNat 64 (a.toNat * b.toNat / 2 ^ 64), cc := 4 },
   { cmd := .rrDiv, op := .rrDiv, val := fun a b => a.sdiv b, ovf := BitVec.sdivOverflow, divides := true, cc := 34 },
   { cmd := .rrDivu, op := .rrDivu, val := fun a b => a / b, divides := true, cc := 34 },
   { cmd := .rrRem, op := .rrRem, val := fun a b => a.srem b, divides := true, cc := 34 },
   { cmd := .rrRemu, op := .rrRemu, val := fun a b => a % b, divides := true, cc := 34 },
   { cmd := .rrAnd, op := .rrAnd, val := fun a b => a &&& b },
   { cmd := .rrOr, op := .rrOr, val := fun a b => a ||| b },
   { cmd := .rrXor, op := .rrXor, val := fun a b => a ^^^ b },
   { cmd := .andn, op := .andn, val := fun a b => a &&& ~~~b },
   { cmd := .rrShl, op := .rrShl, val := fun a b => a <<< (b.toNat % 128) },
   { cmd := .rrShr, op := .rrShr, val := fun a b => a >>> (b.toNat % 128) },
   { cmd := .rrSar, op := .rrSar, val := fun a b => a.sshiftRight (b.toNat % 128) },
   { cmd := .rrRol, op := .rrRol, val := fun a b => a.rotateLeft (b.toNat % 64) },
   { cmd := .rrRor, op := .rrRor, val := fun a b => a.rotateRight (b.toNat % 64) },
   { cmd := .rrNeg, op := .rrNeg, val := fun a _ => -a, ovf := fun a _ => a.negOverflow },
   { cmd := .not, op := .not, val := fun a _ => ~~~a },
   { cmd := .mov, op := .mov, val := fun a _ => a },
   { cmd := .slt, op := .slt, val := fun a b => flag64 (decide (a.toInt < b.toInt)) },
   { cmd := .sltu, op := .sltu, val := fun a b => flag64 (decide (a.toNat < b.toNat)) }]

/-- The REGISTER-mode operations Gd := Ga op sext(imm); LDHI's are given by its immediate alone. -/
def riRows : List AluRow :=
  [{ cmd := .ldi, op := .ldi, val := fun _ v => v },
   { cmd := .addi, op := .addi, val := fun a v => a + v, ovf := BitVec.saddOverflow },
   { cmd := .andi, op := .andi, val := fun a v => a &&& v },
   { cmd := .ori, op := .ori, val := fun a v => a ||| v },
   { cmd := .xori, op := .xori, val := fun a v => a ^^^ v },
   { cmd := .shli, op := .shli, val := fun a v => a <<< (v.toNat % 128) },
   { cmd := .shri, op := .shri, val := fun a v => a >>> (v.toNat % 128) },
   { cmd := .sari, op := .sari, val := fun a v => a.sshiftRight (v.toNat % 128) },
   { cmd := .roli, op := .roli, val := fun a v => a.rotateLeft (v.toNat % 64) },
   { cmd := .muli, op := .muli, val := fun a v => a * v, ovf := BitVec.smulOverflow, cc := 4 }]

/-- The accumulator operations BACC := BACC op operand of 8 bytes. -/
def accRows : List AluRow :=
  [{ cmd := .ld, op := .ld, val := fun _ v => v },
   { cmd := .add, op := .add, val := fun a v => a + v, ovf := BitVec.saddOverflow },
   { cmd := .sub, op := .sub, val := fun a v => a - v, ovf := BitVec.ssubOverflow },
   { cmd := .mul, op := .mul, val := fun a v => a * v, ovf := BitVec.smulOverflow, cc := 4 },
   { cmd := .div, op := .div, val := fun a v => a.sdiv v, ovf := BitVec.sdivOverflow, divides := true, cc := 34 },
   { cmd := .rem, op := .rem, val := fun a v => a.srem v, divides := true, cc := 34 },
   { cmd := .divu, op := .divu, val := fun a v => a / v, divides := true, cc := 34 },
   { cmd := .remu, op := .remu, val := fun a v => a % v, divides := true, cc := 34 },
   { cmd := .and, op := .and, val := fun a v => a &&& v },
   { cmd := .or, op := .or, val := fun a v => a ||| v },
   { cmd := .xor, op := .xor, val := fun a v => a ^^^ v },
   { cmd := .shl, op := .shl, val := fun a v => a <<< (v.toNat % 128) },
   { cmd := .shr, op := .shr, val := fun a v => a >>> (v.toNat % 128) },
   { cmd := .sar, op := .sar, val := fun a v => a.sshiftRight (v.toNat % 128) },
   { cmd := .rol, op := .rol, val := fun a v => a.rotateLeft (v.toNat % 64) },
   { cmd := .ror, op := .ror, val := fun a v => a.rotateRight (v.toNat % 64) }]

/-- Bits 31:0 of a value, zero-extended (01 R16). -/
def lowHalf (v : W64) : W64 := BitVec.ofNat 64 (v.toNat % 2 ^ 32)

/-- The branch conditions of 01 Table 1.5, in its order. -/
def condHolds (cond : Nat) (a b : W64) : Prop :=
  match cond with
  | 0 => a = b
  | 1 => a ≠ b
  | 2 => a.toInt < b.toInt
  | 3 => b.toInt ≤ a.toInt
  | 4 => a.toInt ≤ b.toInt
  | 5 => b.toInt < a.toInt
  | 6 => a.toNat < b.toNat
  | _ => b.toNat ≤ a.toNat

/-- BWIN.REG stepped when INC is 1 (05 R132). -/
def Core.bumped (x : Core) : Core := { x with bwin := { x.bwin with reg := x.bwin.reg + (if x.bwin.inc then 1 else 0) } }

/-- Core c, which was `x`, has written control register n with v, device z (as its operand was read) having become w. -/
structure CrWritten (c : Nat) (x : Core) (z w : Dev) (n : Nat) (v : W64) (regs : Nat → W64) (pc : BitVec 16) : Prop where
  dev : w = z.setCore c (w.core c)
  regs : ∀ k, (w.core c).g k = regs k
  pc : (w.core c).cb.pc = pc
  ld : (w.core c).ldPend = none
  cur : (w.core c).cur = x.cur
  value : n ≠ 0 → readCr (w.core c) c n = v.toNat
  csw : n = 0 → (w.core c).cswPending = CSW.unpack (BitVec.ofNat 32 v.toNat) ∧ (w.core c).csw.key = x.csw.key ∧
    (w.core c).csw.ctag = x.csw.ctag ∧ (w.core c).csw.mode = x.csw.mode
  others : ∀ m, m < 16 → m ≠ n → m ≠ 5 → m ≠ 6 → readCr (w.core c) c m = readCr x c m

/-- The interruptible instructions with their setups and runs. -/
def longRows : List ((CoreId → Nat → Instr) × Op × Long) :=
  [(.dmul, .dmul, ⟨setupLong 8 false false, stepMul⟩), (.ddiv, .ddiv, ⟨setupLong 9 true false, stepDiv false⟩),
   (.drem, .drem, ⟨setupLong 10 true true, stepDiv true⟩), (.daddm, .daddm, ⟨setupMm 11, stepMm false⟩),
   (.dsubm, .dsubm, ⟨setupMm 12, stepMm true⟩), (.mvs, .mvs, ⟨setupMvs, stepMvs⟩), (.cls, .cls, ⟨setupCls, stepCls⟩),
   (.trs, .trs, ⟨setupTrs, stepTrs⟩), (.scn, .scn, ⟨setupScn, stepScn⟩), (.edit, .edit, ⟨setupEdit 5, stepEdit false⟩),
   (.edmk, .edmk, ⟨setupEdit 6, stepEdit true⟩)]

/-- A device as core c goes on from a trap point. -/
def Dev.goesOn (d : Dev) (c : Nat) : Dev := d.modCore c (fun x => { x with stored := false, spent := 0, unbilled := 0, paid := false })

/-- A device with the cycles of core c's run, all of them billed, entered in its counters. -/
def Dev.counted (d : Dev) (c : Nat) : Dev := accountCore c (d.modCore c (fun x => { x with unbilled := 0 }))

/-- General registers with DACC, G0 to G3, holding 32 bytes (01 R15). -/
def withDacc (bs : List Byte) (g : Nat → W64) (n : Nat) : W64 := if n < 4 then BitVec.ofNat 64 (beAt bs (8 * n) 8) else g n

/-- A core with DSCALE holding a scale and bits ORed into DSTICKY. -/
def Core.decimalState (x : Core) (scale : BitVec 5) (sticky : Nat) : Core :=
  x.modCb (fun b => { b with dscale := scale, dsticky := b.dsticky ||| BitVec.ofNat 3 sticky })

/-- The floating-point operations: result and flags from FRM, UFE and the operands (04 R108 to R113). -/
def floatRows : List ((CoreId → Instr) × Op × Nat × (Nat → Bool → W64 → W64 → W64 × Nat)) :=
  [(.faddS, .faddS, 4, fop2 fmtS fadd), (.faddD, .faddD, 4, fop2 fmtD fadd), (.fsubS, .fsubS, 4, fop2 fmtS fsub),
   (.fsubD, .fsubD, 4, fop2 fmtD fsub), (.fmulS, .fmulS, 5, fop2 fmtS fmul), (.fmulD, .fmulD, 5, fop2 fmtD fmul),
   (.fdivS, .fdivS, 16, fop2 fmtS fdiv), (.fdivD, .fdivD, 28, fop2 fmtD fdiv),
   (.fsqrtS, .fsqrtS, 18, fun r u a _ => fsqrt fmtS r u (fdec fmtS a)), (.fsqrtD, .fsqrtD, 32, fun r u a _ => fsqrt fmtD r u (fdec fmtD a)),
   (.fminS, .fminS, 3, fminmax false fmtS), (.fminD, .fminD, 3, fminmax false fmtD),
   (.fmaxS, .fmaxS, 3, fminmax true fmtS), (.fmaxD, .fmaxD, 3, fminmax true fmtD),
   (.feqS, .feqS, 3, fun _ _ a b => feq (fdec fmtS a) (fdec fmtS b)), (.feqD, .feqD, 3, fun _ _ a b => feq (fdec fmtD a) (fdec fmtD b)),
   (.fltS, .fltS, 3, fun _ _ a b => flt (fdec fmtS a) (fdec fmtS b)), (.fltD, .fltD, 3, fun _ _ a b => flt (fdec fmtD a) (fdec fmtD b)),
   (.fleS, .fleS, 3, fun _ _ a b => fle (fdec fmtS a) (fdec fmtS b)), (.fleD, .fleD, 3, fun _ _ a b => fle (fdec fmtD a) (fdec fmtD b)),
   (.fcvtDS, .fcvtDS, 4, fun r u a _ => fcvtF fmtD r u (fdec fmtS a)), (.fcvtSD, .fcvtSD, 4, fun r u a _ => fcvtF fmtS r u (fdec fmtD a)),
   (.fcvtSL, .fcvtSL, 4, fun r u a _ => fcvtI fmtS r u a), (.fcvtDL, .fcvtDL, 4, fun r u a _ => fcvtI fmtD r u a),
   (.fcvtLS, .fcvtLS, 4, fun r _ a _ => fcvtL r (fdec fmtS a)), (.fcvtLD, .fcvtLD, 4, fun r _ a _ => fcvtL r (fdec fmtD a))]

end Sys2Proof.Machine
end

