-- ==== Sys2Proof/Certificates/Slice0/Obligations.lean ====
section
/-!
DEFINITION. The statements for the provers. Each says in its docstring which part of the spec it formalises.
-/
open Sys2Proof Sys2Proof.Machine

/-! ### The cores: binary instructions -/

/-- REGISTER-mode integer operations (04 Table 4.2, Table 4.3, R102 to R104): where the divisor is not 0 and no overflow traps, each completes with Gd
:= Ga op Gb, the wrapped result, in its cycles; every other register, and everything else but the core's counters, stays. A divide or remainder by
0 enters the divide check trap (11), whatever BOVT holds; an overflow event with CSW.BOVT 1 the binary overflow trap (10). -/
def Obligations.IntegerResult : Prop :=
  (∀ e ∈ rrRows, ∀ (s : State) (c : CoreId) (i : Dec), s.dev.standsAt c i → i.op = e.op →
    (e.divides = true → (s.dev.core c).g i.gb ≠ 0) →
    ((s.dev.core c).csw.bovt = false ∨ e.ovf ((s.dev.core c).g i.ga) ((s.dev.core c).g i.gb) = false) →
    ∃ w, exec (e.cmd c) s = ranTo s c w ∧ (w.core c).cc = (s.dev.core c).cc + e.cc ∧
      Retired c s.dev w
        (fun n => pick n (s.dev.core c).ldPend
          (if n = i.gd then e.val ((s.dev.core c).g i.ga) ((s.dev.core c).g i.gb) else (s.dev.core c).g n))
        (nextPc (s.dev.core c) i) none (s.dev.core c).cb) ∧
  (∀ e ∈ rrRows, ∀ (s : State) (c : CoreId) (i : Dec), s.dev.standsAt c i → i.op = e.op →
    (e.divides = true → (s.dev.core c).g i.gb = 0 →
      exec (e.cmd c) s = ranTo s c (enterTrap c 11 0 0 0 0 ((s.dev.begun c).ticked c (e.cc - 1)))) ∧
    ((e.divides = true → (s.dev.core c).g i.gb ≠ 0) → (s.dev.core c).csw.bovt = true →
      e.ovf ((s.dev.core c).g i.ga) ((s.dev.core c).g i.gb) = true →
      exec (e.cmd c) s = ranTo s c (enterTrap c 10 0 0 0 0 ((s.dev.begun c).ticked c (e.cc - 1)))))

/-- REGISTER-mode immediate operations (04 Table 4.2, R102): Gd := Ga op sext(imm); LDHI: Gd := (Ga shifted left 23) or zext(imm). -/
def Obligations.ImmediateResult : Prop :=
  (∀ e ∈ riRows, ∀ (s : State) (c : CoreId) (i : Dec), s.dev.standsAt c i → i.op = e.op →
    ((s.dev.core c).csw.bovt = false ∨ e.ovf ((s.dev.core c).g i.ga) (sext64 23 i.imm) = false) →
    ∃ w, exec (e.cmd c) s = ranTo s c w ∧ (w.core c).cc = (s.dev.core c).cc + e.cc ∧
      Retired c s.dev w
        (fun n => pick n (s.dev.core c).ldPend (if n = i.gd then e.val ((s.dev.core c).g i.ga) (sext64 23 i.imm) else (s.dev.core c).g n))
        (nextPc (s.dev.core c) i) none (s.dev.core c).cb) ∧
  (∀ (s : State) (c : CoreId) (i : Dec), s.dev.standsAt c i → i.op = .ldhi →
    ∃ w, exec (.ldhi c) s = ranTo s c w ∧ (w.core c).cc = (s.dev.core c).cc + 2 ∧
      Retired c s.dev w
        (fun n => pick n (s.dev.core c).ldPend
          (if n = i.gd then ((s.dev.core c).g i.ga <<< 23) ||| BitVec.ofNat 64 i.imm else (s.dev.core c).g n))
        (nextPc (s.dev.core c) i) none (s.dev.core c).cb)

/-- Accumulator operations (04 Table 4.1, Table 4.3, R102): where the operand can be read, the divisor is not 0 and no overflow traps, each completes
with BACC := BACC op operand and the specifier's step; reading changes only what `Reads` says. LDB loads the operand byte, zero-extended; NEG
overflows only from the most negative value. -/
def Obligations.AccumulatorResult : Prop :=
  (∀ e ∈ accRows, ∀ (s : State) (c : CoreId) (i : Dec) (v : W64) (z : Dev), s.dev.standsAt c i → i.op = e.op →
    (accSrc c i.s1 8 e.divides).run (s.dev.begun c) = .ok v z →
    (e.divides = true → v ≠ 0) → ((s.dev.core c).csw.bovt = false ∨ e.ovf ((s.dev.core c).g 4) v = false) →
    ∃ w, exec (e.cmd c) s = ranTo s c w ∧ Reads c (s.dev.begun c) z ∧ (w.core c).cc = (z.core c).cc + (z.core c).spent + (e.cc - 1) ∧
      Retired c z w
        (fun n => pick n (s.dev.core c).ldPend (pick n (stepOf (s.dev.core c) i.s1 8)
          (if n = 4 then e.val ((s.dev.core c).g 4) v else (s.dev.core c).g n)))
        (nextPc (s.dev.core c) i) none (s.dev.core c).cb) ∧
  (∀ (s : State) (c : CoreId) (i : Dec) (v : W64) (z : Dev), s.dev.standsAt c i → i.op = .ldb →
    (accSrc c i.s1 1 false).run (s.dev.begun c) = .ok v z →
    ∃ w, exec (.ldb c) s = ranTo s c w ∧ Reads c (s.dev.begun c) z ∧
      Retired c z w
        (fun n => pick n (s.dev.core c).ldPend (pick n (stepOf (s.dev.core c) i.s1 1)
          (if n = 4 then v &&& 0xFF else (s.dev.core c).g n)))
        (nextPc (s.dev.core c) i) none (s.dev.core c).cb) ∧
  (∀ (s : State) (c : CoreId) (i : Dec), s.dev.standsAt c i → i.op = .neg →
    ((s.dev.core c).csw.bovt = false ∨ (s.dev.core c).g 4 ≠ BitVec.intMin 64) →
    ∃ w, exec (.neg c) s = ranTo s c w ∧
      Retired c s.dev w
        (fun n => pick n (s.dev.core c).ldPend (if n = 4 then -(s.dev.core c).g 4 else (s.dev.core c).g n))
        (nextPc (s.dev.core c) i) none (s.dev.core c).cb)

/-! ### The cores: addresses, loads and stores -/

/-- LDA, LAX1, LAX2 and LASP write the operand's effective address, with no access (04 Table 4.1, 01 Table 1.4); ADX1, ADX2 and ADSP add the operand
to their register modulo 2^32, LDSP loads SP (05 R139, 01 R16): at completion. -/
def Obligations.AddressAndIndex : Prop :=
  (∀ e ∈ [((fun c => Instr.lda c), Op.lda, 4), ((fun c => .lax1 c), .lax1, 5), ((fun c => .lax2 c), .lax2, 6), ((fun c => .lasp c), .lasp, 7)],
    ∀ (s : State) (c : CoreId) (i : Dec), s.dev.standsAt c i → i.op = e.2.1 →
    ∃ w, exec (e.1 c) s = ranTo s c w ∧ (w.core c).cc = (s.dev.core c).cc + 3 ∧
      Retired c s.dev w
        (fun n => pick n (s.dev.core c).ldPend
          (if n = e.2.2 then BitVec.ofNat 64 (eaOf (s.dev.core c) i.s1 8) else pick n (stepOf (s.dev.core c) i.s1 8) ((s.dev.core c).g n)))
        (nextPc (s.dev.core c) i) none (s.dev.core c).cb) ∧
  (∀ e ∈ [((fun c => Instr.adx1 c), Op.adx1, 5, true), ((fun c => .adx2 c), .adx2, 6, true), ((fun c => .adsp c), .adsp, 7, true),
      ((fun c => .ldsp c), .ldsp, 7, false)],
    ∀ (s : State) (c : CoreId) (i : Dec) (v : W64) (z : Dev), s.dev.standsAt c i → i.op = e.2.1 →
    (srcBin c i.s1 8).run (s.dev.begun c) = .ok v z →
    ∃ w, exec (e.1 c) s = ranTo s c w ∧ Reads c (s.dev.begun c) z ∧
      Retired c z w
        (fun n => pick n (s.dev.core c).ldPend
          (if n = e.2.2.1 then lowHalf (if e.2.2.2 then (s.dev.core c).g n + v else v)
           else pick n (stepOf (s.dev.core c) i.s1 8) ((s.dev.core c).g n)))
        (nextPc (s.dev.core c) i) none (s.dev.core c).cb)

/-- LDX1 and LDX2 in LEDGER mode and the RM loads have a load delay (05 R139): a load pending from the instruction before is written, the new value is
not yet in its register and stands as the load under way. In FORERUNNER LDX1 and LDX2 write their register at completion. -/
def Obligations.LoadDelay : Prop :=
  (∀ e ∈ [((fun c => Instr.ldx1 c), Op.ldx1, 5), ((fun c => .ldx2 c), .ldx2, 6)],
    ∀ (s : State) (c : CoreId) (i : Dec) (v : W64) (z : Dev), s.dev.standsAt c i → i.op = e.2.1 →
    (srcBin c i.s1 8).run (s.dev.begun c) = .ok v z →
    ∃ w, exec (e.1 c) s = ranTo s c w ∧ Reads c (s.dev.begun c) z ∧
      Retired c z w
        (fun n => pick n (s.dev.core c).ldPend
          (if n = e.2.2 ∧ (s.dev.core c).csw.mode ≠ 0 then lowHalf v else pick n (stepOf (s.dev.core c) i.s1 8) ((s.dev.core c).g n)))
        (nextPc (s.dev.core c) i) (if (s.dev.core c).csw.mode = 0 then some (e.2.2, lowHalf v) else none) (s.dev.core c).cb) ∧
  (∀ e ∈ [((fun c => Instr.ld8u c), Op.ld8u, 1, false), ((fun c => .ld8s c), .ld8s, 1, true), ((fun c => .ld16u c), .ld16u, 2, false),
      ((fun c => .ld16s c), .ld16s, 2, true), ((fun c => .ld32u c), .ld32u, 4, false), ((fun c => .ld32s c), .ld32s, 4, true),
      ((fun c => .ld64 c), .ld64, 8, false)],
    ∀ (s : State) (c : CoreId) (i : Dec) (bs : List Byte) (z : Dev), s.dev.standsAt c i → i.op = e.2.1 →
    (loadAll c (rmAddr (s.dev.core c) i) e.2.2.1 false).run (s.dev.begun c) = .ok bs z →
    ∃ w, exec (e.1 c) s = ranTo s c w ∧ Reads c (s.dev.begun c) z ∧
      Retired c z w
        (fun n => pick n (s.dev.core c).ldPend ((s.dev.core c).g n)) (nextPc (s.dev.core c) i)
        (some (i.gd, if e.2.2.2 then sext64 (8 * e.2.2.1) (ofBytes bs) else BitVec.ofNat 64 (ofBytes bs))) (s.dev.core c).cb)

/-- The storing instructions (04 Tables 4.1 and 4.2): ST, STB, STX1, STX2 and STSP store the low bytes of their register at the operand's effective
address, ST8 to ST64 those of Gs at Gb plus the displacement. Where the store is allowed it completes; no general register changes but the one a
specifier steps. -/
def Obligations.StoreCompletes : Prop :=
  (∀ e ∈ [((fun c => Instr.st c), Op.st, 4, 8), ((fun c => .stb c), .stb, 4, 1), ((fun c => .stx1 c), .stx1, 5, 8),
      ((fun c => .stx2 c), .stx2, 6, 8), ((fun c => .stsp c), .stsp, 7, 8)],
    ∀ (s : State) (c : CoreId) (i : Dec) (z : Dev), s.dev.standsAt c i → i.op = e.2.1 →
    (store c (eaOf (s.dev.core c) i.s1 e.2.2.2) (toBytes e.2.2.2 ((s.dev.core c).g e.2.2.1).toNat)).run ((s.dev.begun c).ticked c 1) = .ok () z →
    ∃ w, exec (e.1 c) s = ranTo s c w ∧ Writes c (s.dev.begun c) z ∧
      Retired c z w
        (fun n => pick n (s.dev.core c).ldPend (pick n (stepOf (s.dev.core c) i.s1 e.2.2.2) ((s.dev.core c).g n)))
        (nextPc (s.dev.core c) i) none (s.dev.core c).cb) ∧
  (∀ e ∈ [((fun c => Instr.st8 c), Op.st8, 1), ((fun c => .st16 c), .st16, 2), ((fun c => .st32 c), .st32, 4), ((fun c => .st64 c), .st64, 8)],
    ∀ (s : State) (c : CoreId) (i : Dec) (z : Dev), s.dev.standsAt c i → i.op = e.2.1 →
    (store c (rmAddr (s.dev.core c) i) (toBytes e.2.2 ((s.dev.core c).g i.gd).toNat)).run ((s.dev.begun c).ticked c 1) = .ok () z →
    ∃ w, exec (e.1 c) s = ranTo s c w ∧ Writes c (s.dev.begun c) z ∧
      Retired c z w (fun n => pick n (s.dev.core c).ldPend ((s.dev.core c).g n)) (nextPc (s.dev.core c) i) none (s.dev.core c).cb)

/-- Where a store goes (05 R143, 10 R262, R270): one part `p` of a store, translated and checked. In the working store its bytes stand at p.pa at once
and no other byte changes but the D bit of its block's descriptor; in the frond store it goes to the end of the write buffer, and the stores keep
their bytes but for that D bit and, with four entries held, the oldest entry, which is written. -/
def Obligations.StoredPart : Prop :=
  ∀ (c : CoreId) (p : Part) (bs : List Byte) (d z : Dev), (writePart c p bs).run d = .ok () z → p.n = bs.length →
    p.src.all (fun a => a + 8 ≤ 0x70_0000_0000) = true →
    (∀ k, p.tier = .working k → p.pa + bs.length ≤ 0x70_0000_0000 →
      (z.core c).wbuf = (d.core c).wbuf ∧
      (∀ j, j < bs.length → p.src.all (fun a => p.pa + j ≠ a + 7) = true → z.byte (p.pa + j) = bs.getD j 0) ∧
      (∀ a, a < p.pa ∨ p.pa + bs.length ≤ a → z.byte a = d.byte a ∨ ((∃ b, p.src = some b ∧ a = b + 7) ∧ z.byte a = d.byte a ||| 1))) ∧
    (∀ f, p.tier = .frond f → p.pa % 16 + bs.length ≤ 16 → bs ≠ [] → (d.core c).wbuf.length < 4 →
      (z.core c).wbuf = (d.core c).wbuf ++ [⟨p.pa, bs⟩] ∧
      (∀ a, z.byte a = d.byte a ∨ ((∃ b, p.src = some b ∧ a = b + 7) ∧ z.byte a = d.byte a ||| 1))) ∧
    (∀ f e t, p.tier = .frond f → p.pa % 16 + bs.length ≤ 16 → bs ≠ [] → (d.core c).wbuf = e :: t → t.length = 3 →
      e.addr + e.bytes.length ≤ 0x70_0000_0000 →
      (z.core c).wbuf = t ++ [⟨p.pa, bs⟩] ∧
      (∀ j, j < e.bytes.length → p.src.all (fun a => e.addr + j ≠ a + 7) = true → z.byte (e.addr + j) = e.bytes.getD j 0) ∧
      (∀ a, a < e.addr ∨ e.addr + e.bytes.length ≤ a →
        z.byte a = d.byte a ∨ ((∃ b, p.src = some b ∧ a = b + 7) ∧ z.byte a = d.byte a ||| 1)))

/-! ### The cores: control registers, banks, the program store -/

/-- MFCR stores the control register's value at the operand, in FORERUNNER in BACC (01 R20, R38, R41). MTCR of a writable register with a value it may
hold (01 R20 to R23; 05 R141): the register then reads as that value, KEY, CTAG, MODE, TVB and BWIN only pending; no other control register but
the counters changes. Without the privilege the privilege trap (3) is entered; of a read-only register, or with a value the register may not hold,
the specification trap (2). (Log entry 16: CTIMER and BUDGET are read before the instruction's own cycles are counted, and a value written to them
stands when it ends.) -/
def Obligations.ControlRegisters : Prop :=
  (∀ (s : State) (c : CoreId) (i : Dec), s.dev.standsAt c i → i.op = .mfcr → (i.cr = 3 ∨ i.cr = 4 → (s.dev.core c).csw.priv = true) →
    ((s.dev.core c).csw.mode ≠ 2 → ∀ z,
      (store c (eaOf (s.dev.core c) i.s1 8) (toBytes 8 (readCr (s.dev.core c) c i.cr))).run ((s.dev.begun c).ticked c 1) = .ok () z →
      ∃ w, exec (.mfcr c) s = ranTo s c w ∧ Writes c (s.dev.begun c) z ∧
        Retired c z w (fun n => pick n (s.dev.core c).ldPend (pick n (stepOf (s.dev.core c) i.s1 8) ((s.dev.core c).g n)))
          (nextPc (s.dev.core c) i) none (s.dev.core c).cb) ∧
    ((s.dev.core c).csw.mode = 2 →
      ∃ w, exec (.mfcr c) s = ranTo s c w ∧
        Retired c s.dev w
          (fun n => pick n (s.dev.core c).ldPend (if n = 4 then BitVec.ofNat 64 (readCr (s.dev.core c) c i.cr) else (s.dev.core c).g n))
          (nextPc (s.dev.core c) i) none (s.dev.core c).cb)) ∧
  (∀ (s : State) (c : CoreId) (i : Dec) (v : W64) (z : Dev), s.dev.standsAt c i → i.op = .mtcr → i.cr ∈ [0, 1, 2, 3, 4, 6, 7] →
    ((s.dev.core c).csw.mode ≠ 2 → (srcBin c i.s1 8).run (s.dev.begun c) = .ok v z) →
    ((s.dev.core c).csw.mode = 2 → v = (s.dev.core c).g 4 ∧ z = s.dev.begun c) →
    crOk i.cr v.toNat = true →
    ((s.dev.core c).csw.priv = true ∨ i.cr = 1 ∨ i.cr = 2 ∨ i.cr = 7 ∨
      (i.cr = 0 ∧ userMayWrite (CSW.unpack (BitVec.ofNat 32 v.toNat)) (s.dev.core c).cswPending = true)) →
    ∃ w, exec (.mtcr c) s = ranTo s c w ∧ Reads c (s.dev.begun c) z ∧
      CrWritten c (s.dev.core c) z w i.cr v
        (fun n => pick n (s.dev.core c).ldPend
          (if (s.dev.core c).csw.mode = 2 then (s.dev.core c).g n else pick n (stepOf (s.dev.core c) i.s1 8) ((s.dev.core c).g n)))
        (nextPc (s.dev.core c) i)) ∧
  (∀ (s : State) (c : CoreId) (i : Dec), s.dev.standsAt c i →
    (i.op = .mfcr → i.cr = 3 ∨ i.cr = 4 → (s.dev.core c).csw.priv = false →
      exec (.mfcr c) s = ranTo s c (enterTrap c 3 0 0 0 0 (s.dev.begun c))) ∧
    (i.op = .mtcr → i.cr = 3 ∨ i.cr = 4 ∨ i.cr = 6 → (s.dev.core c).csw.priv = false →
      exec (.mtcr c) s = ranTo s c (enterTrap c 3 0 0 0 0 (s.dev.begun c))) ∧
    (i.op = .mtcr → i.cr = 5 ∨ 8 ≤ i.cr → exec (.mtcr c) s = ranTo s c (enterTrap c 2 0 0 0 0 (s.dev.begun c))) ∧
    (∀ v z, i.op = .mtcr → i.cr ∈ [0, 1, 2, 3, 4, 6, 7] → (s.dev.core c).csw.priv = true → (s.dev.core c).csw.mode ≠ 2 →
      (srcBin c i.s1 8).run (s.dev.begun c) = .ok v z → crOk i.cr v.toNat = false →
      exec (.mtcr c) s = ranTo s c (enterTrap c 2 0 0 0 0 z)))

/-- MFB stores the bank register that BWIN names, 0 of a bank that is not resident (log entry 49); MTB writes it; each then steps BWIN.REG when INC
is 1 (05 R132, R133). A reserved index, and of MTB a bank that is not resident, PC and CSW of the current bank and the register of it that the
specifier steps (01 R29), enter the specification trap. A bank register written with a value it may hold reads back as that value, BANK fields
apart, and no other of the 48 changes (05 Table 5.4). -/
def Obligations.BankAccess : Prop :=
  (∀ (s : State) (c : CoreId) (i : Dec) (z : Dev), s.dev.standsAt c i → i.op = .mfb → (s.dev.core c).bwin.reg.toNat < 50 →
    (store c (eaOf (s.dev.core c) i.s1 8) (toBytes 8 (if (s.dev.core c).resident (s.dev.core c).bwin.bank.toNat
      then (((s.dev.core c).bank (s.dev.core c).bwin.bank.toNat).readIdx (s.dev.core c).bwin.bank.toNat (s.dev.core c).bwin.reg.toNat).toNat
      else 0))).run ((s.dev.begun c).ticked c 2) = .ok () z →
    ∃ w, exec (.mfb c) s = ranTo s c w ∧ Writes c (s.dev.begun c) z ∧
      Retired c (z.modCore c Core.bumped) w
        (fun n => pick n (s.dev.core c).ldPend (pick n (stepOf (s.dev.core c) i.s1 8) ((s.dev.core c).g n)))
        (nextPc (s.dev.core c) i) none (s.dev.core c).cb) ∧
  (∀ (s : State) (c : CoreId) (i : Dec) (v : W64) (z : Dev), s.dev.standsAt c i → i.op = .mtb → (s.dev.core c).bwin.reg.toNat < 48 →
    ((s.dev.core c).bwin.bank.toNat = (s.dev.core c).cur → (s.dev.core c).bwin.reg ≠ 32 ∧ (s.dev.core c).bwin.reg ≠ 33 ∧
      i.s1.stepsReg (s.dev.core c).bwin.reg.toNat = false) →
    (s.dev.core c).resident (s.dev.core c).bwin.bank.toNat = true →
    (srcBin c i.s1 8).run (s.dev.begun c) = .ok v z → bankValueOk (s.dev.core c).bwin.reg.toNat v.toNat = true →
    let z' := z.modCore c (fun y => (y.applyStep (stepOf (s.dev.core c) i.s1 8)).bumped)
    let z'' := z'.modCore c (fun y => y.setBank (s.dev.core c).bwin.bank.toNat
      ((y.bank (s.dev.core c).bwin.bank.toNat).writeIdx (s.dev.core c).bwin.reg.toNat v))
    ∃ w, exec (.mtb c) s = ranTo s c w ∧ Reads c (s.dev.begun c) z ∧
      Retired c z'' w (fun n => pick n (s.dev.core c).ldPend ((z''.core c).g n)) (nextPc (s.dev.core c) i) none (z''.core c).cb) ∧
  (∀ (s : State) (c : CoreId) (i : Dec), s.dev.standsAt c i →
    let x := s.dev.core c
    let trap := ranTo s c (enterTrap c 2 0 0 0 0 (s.dev.begun c))
    (i.op = .mfb → 50 ≤ x.bwin.reg.toNat → exec (.mfb c) s = trap) ∧
    (i.op = .mtb → 48 ≤ x.bwin.reg.toNat ∨ x.resident x.bwin.bank.toNat = false ∨
        (x.bwin.bank.toNat = x.cur ∧ (x.bwin.reg = 32 ∨ x.bwin.reg = 33 ∨ i.s1.stepsReg x.bwin.reg.toNat = true)) →
      exec (.mtb c) s = trap)) ∧
  (∀ (b : Bank) (n r : Nat) (v : W64), n ≤ 8 → r < 48 → bankValueOk r v.toNat = true →
    (r ≠ 33 → r ≠ 38 → (b.writeIdx r v).readIdx n r = v) ∧
    (r = 33 ∨ r = 38 → (b.writeIdx r v).readIdx n r &&& ~~~0xF0_0000 = v &&& ~~~0xF0_0000) ∧
    (∀ q, q < 48 → q ≠ r → (b.writeIdx r v).readIdx n q = b.readIdx n q))

/-- LDPW writes beside the operand's word number the program word it names and its check bits; STPW writes one program word, with check bits the store
makes, after the next instruction's words have been fetched (01 R24, R25, R35; 05 R142; 10 R281). -/
def Obligations.ProgramWords : Prop :=
  (∀ (s : State) (c : CoreId) (i : Dec) (ps : List Part) (y y' z : Dev) (bs : List Byte), s.dev.standsAt c i → i.op = .ldpw →
    (checkParts c .rw (vparts (eaOf (s.dev.core c) i.s1 8) 8)).run (s.dev.begun c) = .ok ps y →
    (readAll c ps).run (y.ticked c (ps.map (fun p => chunks p.va p.n * (1 + if p.far then 8 else 0))).sum) = .ok bs y' →
    y'.checkPart ⟨c, .core, (s.dev.core c).csw.key.toNat, true⟩ true (.prog c) ((Tier.prog c).base + 2 * beAt bs 6 2) .read = (y', none) →
    (writeAll c ps (toBytes 8 ((s.dev.pword c (beAt bs 6 2)).toNat * 65536 + beAt bs 6 2))).run
      ((y'.markKey ((Tier.prog c).base + 2 * beAt bs 6 2) .read).ticked c 3) = .ok () z →
    ∃ w, exec (.ldpw c) s = ranTo s c w ∧
      Retired c z w (fun n => pick n (s.dev.core c).ldPend (pick n (stepOf (s.dev.core c) i.s1 8) ((s.dev.core c).g n)))
        (nextPc (s.dev.core c) i) none (s.dev.core c).cb) ∧
  (∀ (s : State) (c : CoreId) (i : Dec) (v : W64) (z : Dev), s.dev.standsAt c i → i.op = .stpw →
    (srcBin c i.s1 8).run (s.dev.begun c) = .ok v z → v.toNat < 2 ^ 30 →
    z.checkPart ⟨c, .core, (s.dev.core c).csw.key.toNat, true⟩ true (.prog c) ((Tier.prog c).base + 2 * (v.toNat % 65536)) .exec = (z, none) →
    let y := (z.markKey ((Tier.prog c).base + 2 * (v.toNat % 65536)) .exec).setPword c (v.toNat % 65536) (v.toNat / 65536)
    ∃ w, exec (.stpw c) s = ranTo s c w ∧ Reads c (s.dev.begun c) z ∧
      (w.core c).latch = some (storeWords s.dev c (nextPc (s.dev.core c) i).toNat) ∧
      (∀ e n, w.pword e n = if e = c.val ∧ n % 65536 = v.toNat % 65536 then withCheck (v.toNat / 65536) else s.dev.pword e n) ∧
      Retired c y w (fun n => pick n (s.dev.core c).ldPend (pick n (stepOf (s.dev.core c) i.s1 8) ((s.dev.core c).g n)))
        (nextPc (s.dev.core c) i) none (s.dev.core c).cb)

/-! ### The cores: branches, calls, returns -/

/-- BCMP and BCMPL branch when the condition of 01 Table 1.5 holds of Ga and of 0 or G4; JMP and JMPR go to their target; 05 R115, R116. -/
def Obligations.BranchResult : Prop :=
  ∀ (s : State) (c : CoreId) (i : Dec), s.dev.standsAt c i →
    let x := s.dev.core c
    let b : W64 := if i.r then x.g 4 else 0
    (i.op = .bcmp → ∃ w, exec (.bcmp c) s = ranTo s c w ∧
      ∃ pc, (condHolds i.cond (x.g i.ga) b → pc = x.cb.pc + BitVec.ofNat 16 i.tgt) ∧ (¬condHolds i.cond (x.g i.ga) b → pc = nextPc x i) ∧
      Retired c s.dev w (fun n => pick n x.ldPend (x.g n)) pc none x.cb) ∧
    (i.op = .bcmpl → ∃ w, exec (.bcmpl c) s = ranTo s c w ∧
      ∃ pc, (condHolds i.cond (x.g i.ga) b → pc = BitVec.ofNat 16 i.tgt) ∧ (¬condHolds i.cond (x.g i.ga) b → pc = nextPc x i) ∧
      Retired c s.dev w (fun n => pick n x.ldPend (x.g n)) pc none x.cb) ∧
    (i.op = .jmp → ∃ w, exec (.jmp c) s = ranTo s c w ∧
      Retired c s.dev w (fun n => pick n x.ldPend (x.g n)) (BitVec.ofNat 16 i.tgt) none x.cb) ∧
    (∀ v z, i.op = .jmpr → (srcBin c i.s1 8).run (s.dev.begun c) = .ok v z → ∃ w, exec (.jmpr c) s = ranTo s c w ∧
      Reads c (s.dev.begun c) z ∧
      Retired c z w (fun n => pick n x.ldPend (pick n (stepOf x i.s1 8) (x.g n))) (BitVec.ofNat 16 v.toNat) none x.cb)

/-- CALL, CALLR and RET. Through the memory stack (05 R118, R119), in LEDGER and REGISTER: a call stores the 8-byte address of the next instruction at
SP − 8, which SP becomes; a return goes to the word at SP, below 65,536, and SP steps past it. Through the return stack of FORERUNNER (05 R120): a
call pushes, a return goes to the newest entry and pops; with RSTRAP 1 a push on eight entries and a pop of none enter the return-stack trap (14). -/
def Obligations.CallReturn : Prop :=
  (∀ (s : State) (c : CoreId) (i : Dec), s.dev.standsAt c i → (s.dev.core c).csw.mode ≠ 2 →
    let x := s.dev.core c
    let sp := (x.idx 7 + 2 ^ 32 - 8) % 2 ^ 32
    (∀ z, i.op = .call → (store c sp (toBytes 8 (nextPc x i).toNat)).run ((s.dev.begun c).ticked c 3) = .ok () z →
      ∃ w, exec (.call c) s = ranTo s c w ∧ Writes c (s.dev.begun c) z ∧
        Retired c z w (fun n => pick n x.ldPend (if n = 7 then BitVec.ofNat 64 sp else x.g n)) (BitVec.ofNat 16 i.tgt) none x.cb) ∧
    (∀ v y z, i.op = .callr → (srcBin c i.s1 8).run (s.dev.begun c) = .ok v y →
      (store c sp (toBytes 8 (nextPc x i).toNat)).run (y.ticked c 2) = .ok () z →
      ∃ w, exec (.callr c) s = ranTo s c w ∧ Writes c (s.dev.begun c) z ∧
        Retired c z w (fun n => pick n x.ldPend (pick n (stepOf x i.s1 8) (if n = 7 then BitVec.ofNat 64 sp else x.g n)))
          (BitVec.ofNat 16 v.toNat) none x.cb) ∧
    (∀ bs z, i.op = .ret → (load c (x.idx 7) 8).run (s.dev.begun c) = .ok bs z → ofBytes bs < 65536 →
      ∃ w, exec (.ret c) s = ranTo s c w ∧ Reads c (s.dev.begun c) z ∧
        Retired c z w (fun n => pick n x.ldPend (if n = 7 then BitVec.ofNat 64 ((x.idx 7 + 8) % 2 ^ 32) else x.g n))
          (BitVec.ofNat 16 (ofBytes bs)) none x.cb)) ∧
  (∀ (s : State) (c : CoreId) (i : Dec), s.dev.standsAt c i → (s.dev.core c).csw.mode = 2 →
    let x := s.dev.core c
    let b := x.cb
    let pushed : Bank := { b with rsP := b.rsP + 1, rstk := SMap.put b.rstk (b.rsP + 1).toNat (nextPc x i)
                                  rsD := if 8 ≤ b.rsD.toNat then 8 else b.rsD + 1 }
    ((b.rsD = 8 → b.csw.rstrap = false) →
      (i.op = .call → ∃ w, exec (.call c) s = ranTo s c w ∧
        Retired c (s.dev.modCore c (fun y => y.ctl (fun _ => pushed))) w (fun n => pick n x.ldPend (x.g n)) (BitVec.ofNat 16 i.tgt) none pushed) ∧
      (∀ v z, i.op = .callr → (srcBin c i.s1 8).run (s.dev.begun c) = .ok v z → ∃ w, exec (.callr c) s = ranTo s c w ∧
        Reads c (s.dev.begun c) z ∧
        Retired c (z.modCore c (fun y => y.ctl (fun _ => pushed))) w (fun n => pick n x.ldPend (pick n (stepOf x i.s1 8) (x.g n)))
          (BitVec.ofNat 16 v.toNat) none pushed)) ∧
    ((b.rsD = 0 → b.csw.rstrap = false) → i.op = .ret → ∃ w, exec (.ret c) s = ranTo s c w ∧
      Retired c (s.dev.modCore c (fun y => y.ctl (fun _ => { b with rsP := b.rsP - 1, rsD := if b.rsD = 0 then 0 else b.rsD - 1 }))) w
        (fun n => pick n x.ldPend (x.g n)) (SMap.get 0 b.rstk b.rsP.toNat) none
        { b with rsP := b.rsP - 1, rsD := if b.rsD = 0 then 0 else b.rsD - 1 }) ∧
    (b.csw.rstrap = true → b.rsD = 8 → i.op = .call →
      exec (.call c) s = ranTo s c (enterTrap c 14 0 1 0 0 ((s.dev.begun c).ticked c 4))) ∧
    (∀ v z, b.csw.rstrap = true → b.rsD = 8 → i.op = .callr → (srcBin c i.s1 8).run (s.dev.begun c) = .ok v z →
      exec (.callr c) s = ranTo s c (enterTrap c 14 0 1 0 0 (z.ticked c 3))) ∧
    (b.csw.rstrap = true → b.rsD = 0 → i.op = .ret →
      exec (.ret c) s = ranTo s c (enterTrap c 14 0 2 0 0 ((s.dev.begun c).ticked c 4))))

/-! ### The cores: traps, synchronisation, items -/

/-- Trap entry (05 R123, R125). In the current bank, which is not BF (there a fault is a machine check): pending sync-class writes and a pending
load made, TPC and TCSW the return, RESUME cleared, IMASK bits 9:7 set, LEDGER, supervisor, key 0, PC the vector, TCAUSE and TADDR the cause; the
core runs; 12 cc. To BF for codes 15, 16 and 18: from another bank BF's TPC and TCSW take the return and the interrupted bank keeps its PC, CSW and
CONT; from BF itself BF.TPC and BF.TCSW stay. IMASK is all ones. The words of an entry that a match register redirects run before it (07 R170; log
entry 60: where the ROM holds an entry, and that its words come first): a RETIRE among them ends them with the entry made, a TRAPPT is an exit
where an interrupt waits (07 R165). -/
def Obligations.TrapEntry : Prop :=
  (∀ (d : Dev) (c : CoreId) (code acc sub detail : Nat) (taddr : W64), code ≠ 15 → code ≠ 16 → code ≠ 18 → code < 32 → acc < 8 → sub < 256 →
    detail < 65536 → (d.core c).cur ≠ 8 →
    let x := d.core c
    let y := (trapEntry c code acc sub detail taddr d).core c
    y.cur = x.cur ∧ y.cb.tpc = x.cb.pc ∧ y.cb.tcsw = x.cswPending ∧ y.cb.tcswBank = BitVec.ofNat 4 x.cur ∧
    y.csw = { x.cswPending with resume := false, imask := x.cswPending.imask ||| 7, mode := 0, priv := true, key := 0 } ∧
    y.cb.pc = BitVec.ofNat 16 ((x.pendTvb.getD x.tvb).toNat * 256 + code * 8) ∧
    fld y.cb.tcause 27 5 = code ∧ fld y.cb.tcause 24 3 = acc ∧ fld y.cb.tcause 16 8 = sub ∧ fld y.cb.tcause 0 16 = detail ∧
    y.cb.taddr = taddr ∧ (∀ n, y.g n = pick n x.ldPend (x.g n)) ∧ y.ldPend = none ∧ y.latch = none ∧ y.run = .running ∧
    y.tvb = x.pendTvb.getD x.tvb ∧ y.pendTvb = none ∧ y.bwin = x.pendBwin.getD x.bwin ∧ y.pendBwin = none ∧
    y.pendKey = none ∧ y.pendCtag = none ∧ y.pendMode = none ∧ y.spent = x.spent + 12 ∧
    (∀ b, b ≠ x.cur → y.bank b = x.bank b) ∧
    (∀ e, e ≠ c.val → (trapEntry c code acc sub detail taddr d).core e = d.core e) ∧
    (trapEntry c code acc sub detail taddr d).mem = d.mem) ∧
  (∀ (d : Dev) (c : CoreId) (code acc sub detail : Nat) (taddr : W64), code = 15 ∨ code = 16 ∨ code = 18 →
    let x := d.core c
    let y := (trapEntry c code acc sub detail taddr d).core c
    y.cur = 8 ∧ y.csw.imask = 15 ∧ y.csw.mode = 0 ∧ y.csw.priv = true ∧ y.csw.key = 0 ∧
    y.cb.pc = BitVec.ofNat 16 ((x.pendTvb.getD x.tvb).toNat * 256 + code * 8) ∧ y.cb.taddr = taddr ∧
    (x.cur ≠ 8 → y.cb.tpc = x.cb.pc ∧ y.cb.tcsw = x.cswPending ∧ y.cb.tcswBank = BitVec.ofNat 4 x.cur ∧
      (y.bank x.cur).pc = x.cb.pc ∧ (y.bank x.cur).csw = x.cswPending ∧ (y.bank x.cur).cont0 = x.cb.cont0 ∧
      (y.bank x.cur).cont1 = x.cb.cont1 ∧ (y.bank x.cur).cont2 = x.cb.cont2 ∧ (y.bank x.cur).cont3 = x.cb.cont3 ∧
      (∀ n, (y.bank x.cur).rd n = pick n x.ldPend (x.g n))) ∧
    (x.cur = 8 → y.cb.tpc = x.cb.tpc ∧ y.cb.tcsw = x.cb.tcsw ∧ y.cb.tcswBank = x.cb.tcswBank)) ∧
  (∀ (d : Dev) (c code acc sub detail : Nat) (taddr : W64),
    ((d.core c).cur = 8 → enterTrap c code acc sub detail taddr d = archCheck c 1 code d) ∧
    ((d.core c).cur ≠ 8 → (d.core c).trapPatched code = false →
      enterTrap c code acc sub detail taddr d = refetch c (accountCore c (trapEntry c code acc sub detail taddr (unpaid c d)))) ∧
    ((d.core c).cur ≠ 8 → (d.core c).trapPatched code = true → enterTrap c code acc sub detail taddr d =
      (seqRun c 8192 (Config.romTrap (BitVec.ofNat 5 code)).toNat (some (trapEntry c code acc sub detail taddr)) (seqBegin c d)).1)) ∧
  (∀ (d z : Dev) (c n u : Nat) (entry : Dev → Dev), (d.core c).wdog + (d.core c).spent < 4096 →
    microStep d c (roundMode (d.core c) 0) u = (.retire, z) →
    let y := (accountCore c z).modCore c (fun x => { x.microIdle with paid := true })
    seqRun c (n + 1) u (some entry) d = (unpaid c (refetch c (accountCore c (entry y))), false) ∧ seqRun c (n + 1) u none d = (y, true)) ∧
  (∀ (d z : Dev) (c n u p v : Nat) (after : Option (Dev → Dev)), (d.core c).wdog + (d.core c).spent < 4096 →
    microStep d c (roundMode (d.core c) 0) u = (.point p v, z) →
    let y := accountCore c (z.modCore c (fun x => { x with micro := { x.micro with ltp := BitVec.ofNat 14 p } }))
    (asyncDue y c = none → seqRun c (n + 1) u after d = seqRun c n v after y) ∧
    (∀ code, asyncDue y c = some code → let w := saveMicro c (fld ((y.core c).microRead p) 11 5) y
      (w.core c).trapPatched code = false → seqRun c (n + 1) u after d = (refetch c (accountCore c (takeAsync c code w)), false)))

/-- RETT with no continuation to resume (05 R126): PC and CSW from TPC and TCSW, in BF those of BF with the bank BF.TCSW.BANK current; pending 
sync-class writes and a pending load made. In machine-check state it stops the core (07 R175). A continuation written at a micro-trap, the fields its
instruction does not use 0, is the one that is loaded again, and it passes the checks of a resumption when UPC, the last trap point, names a TRAPPT of
that instruction (03 R91 to R94; 07 R168, R169). -/
def Obligations.RettResult : Prop :=
  (∀ (s : State) (c : CoreId) (i : Dec), s.dev.standsAt c i → i.op = .rett →
    let x := s.dev.core c
    (x.mck = false → x.cb.tcsw.resume = false → ∃ w, exec (.rett c) s = ranTo s c w ∧
      (w.core c).cur = (if x.cur = 8 then x.cb.tcswBank.toNat else x.cur) ∧ (w.core c).cb.pc = x.cb.tpc ∧ (w.core c).csw = x.cb.tcsw ∧
      (w.core c).tvb = x.pendTvb.getD x.tvb ∧ (w.core c).bwin = x.pendBwin.getD x.bwin ∧ (w.core c).pendTvb = none ∧
      (w.core c).pendBwin = none ∧ (w.core c).pendKey = none ∧ (w.core c).pendCtag = none ∧ (w.core c).pendMode = none ∧
      (w.core c).ldPend = none ∧ (∀ n, ((w.core c).bank x.cur).rd n = pick n x.ldPend (x.g n)) ∧
      (x.cur = 8 → ∀ b n, b ≠ 8 → ((w.core c).bank b).rd n = (x.bank b).rd n) ∧
      (∀ e, e ≠ c.val → w.core e = s.dev.core e) ∧ w.mem = s.dev.mem) ∧
    (x.mck = true → exec (.rett c) s = ranTo s c (stopCore c 0x10 (s.dev.begun c)))) ∧
  (∀ (x : Core) (f : Flight) (o : Op) (u : BitVec 14), opidOf o = some f.opid.toNat → f.doneN.toNat ≤ f.len.toNat → resumeEntry x f u = true →
    let y := x.modCb (fun b => b.saveFlight f u)
    y.cb.loadFlight f.fromBF = { f.used with latch := if 8 ≤ f.opid.toNat ∧ f.opid.toNat ≤ 12 then f.latch else [], fresh := true } ∧
    fld y.cb.cont0 50 14 = u.toNat ∧ resumeOk y o = true ∧ (∀ n, y.g n = x.g n))

/-- SYNC applies every pending sync-class write (05 R141); FENCE writes every buffered store, so that the stores hold what the core's reads saw
(R144, R145); WAIT leaves the core waiting unless IMASK is all ones (R128; its cycles in that case: log entry 33); NOP has no effect; INVA, INVT and
INVALL make invalid the block registers that 10 R272 names, and no other. -/
def Obligations.SyncFenceWait : Prop :=
  (∀ (s : State) (c : CoreId) (i : Dec), s.dev.standsAt c i →
    let x := s.dev.core c
    (i.op = .sync → ∃ w, exec (.sync c) s = ranTo s c w ∧ (w.core c).csw = x.cswPending ∧ (w.core c).tvb = x.pendTvb.getD x.tvb ∧
      (w.core c).bwin = x.pendBwin.getD x.bwin ∧ (w.core c).pendTvb = none ∧ (w.core c).pendBwin = none ∧ (w.core c).pendKey = none ∧
      (w.core c).pendCtag = none ∧ (w.core c).pendMode = none ∧ (w.core c).cb.pc = nextPc x i ∧ (w.core c).cc = x.cc + 4 ∧
      (w.core c).brImage = [] ∧ (∀ n, (w.core c).g n = pick n x.ldPend (x.g n)) ∧
      (∀ t n, x.brImage = [] → n < 16 → x.pendCtag = some t → (x.brAt n).tag = t → ((w.core c).brAt n).valid = false) ∧ w.mem = s.dev.mem) ∧
    (i.op = .fence → (∀ e ∈ x.wbuf, e.addr + e.bytes.length ≤ 0x70_0000_0000) → ∃ w, exec (.fence c) s = ranTo s c w ∧
      (w.core c).wbuf = [] ∧ (w.core c).cb.pc = nextPc x i ∧ (w.core c).cc = x.cc + 34 ∧ (∀ n, (w.core c).g n = pick n x.ldPend (x.g n)) ∧
      ∀ a, a < 0x70_0000_0000 → w.byte a = (wbufByte x.wbuf a).getD (s.dev.byte a)) ∧
    (i.op = .wait → x.csw.imask ≠ 15 → ∃ w, exec (.wait c) s = ranTo s c w ∧
      Retired c (s.dev.modCore c (fun y => { y with run := .inWait })) w (fun n => pick n x.ldPend (x.g n)) (nextPc x i) none x.cb) ∧
    (i.op = .wait → x.csw.imask = 15 → exec (.wait c) s = ranTo s c (enterTrap c 2 0 0 0 0 ((s.dev.begun c).ticked c 1)))) ∧
  (∀ (s : State) (c : CoreId) (i : Dec), s.dev.standsAt c i →
    let x := s.dev.core c
    (i.op = .nop → ∃ w, exec (.nop c) s = ranTo s c w ∧ (w.core c).cc = x.cc + 1 ∧
      Retired c s.dev w (fun n => pick n x.ldPend (x.g n)) (nextPc x i) none x.cb) ∧
    (i.op = .invall → ∃ w, exec (.invall c) s = ranTo s c w ∧
      (∀ n, n < 16 → (w.core c).brAt n = { x.brAt n with valid := false }) ∧
      Retired c (s.dev.modCore c (fun y => { y with br := (w.core c).br })) w (fun n => pick n x.ldPend (x.g n)) (nextPc x i) none x.cb) ∧
    (i.op = .inva → ∃ w, exec (.inva c) s = ranTo s c w ∧
      (∀ n, n < 16 → (w.core c).brAt n = if (x.brAt n).tag = x.csw.ctag ∧ descHolds (x.brAt n).d0 (eaOf x i.s1 8) = true
        then { x.brAt n with valid := false } else x.brAt n) ∧
      Retired c (s.dev.modCore c (fun y => { y with br := (w.core c).br })) w
        (fun n => pick n x.ldPend (pick n (stepOf x i.s1 8) (x.g n))) (nextPc x i) none x.cb) ∧
    (∀ v z, i.op = .invt → (srcBin c i.s1 8).run (s.dev.begun c) = .ok v z → v.toNat < 256 → ∃ w, exec (.invt c) s = ranTo s c w ∧
      Reads c (s.dev.begun c) z ∧
      (∀ n, n < 16 → (w.core c).brAt n = if ((z.core c).brAt n).tag.toNat = v.toNat then { (z.core c).brAt n with valid := false }
        else (z.core c).brAt n) ∧
      Retired c (z.modCore c (fun y => { y with br := (w.core c).br })) w
        (fun n => pick n x.ldPend (pick n (stepOf x i.s1 8) (x.g n))) (nextPc x i) none x.cb))

/-- GETW with no open item leaves the core waiting in GETW; with one, or in BF, it enters the specification trap (08 R204). DONE within its budget
closes the core's item: phase done, its operand and time kept (R206, R207); of an item that the Graticule has ended it sends nothing (R213). DOORB
puts sender and code at the end of the target's FIFO, or sets OVF when it holds four (R209). POST makes an item of its payload on the queue it names
(R208; the model's: the stage area it reads is that of the open item's frame, log entry 65, the ring room and offset of its payload, log entry 23,
and the master of the staging request, log entry 29). -/
def Obligations.ItemInstructions : Prop :=
  ∀ (s : State) (c : CoreId) (i : Dec), s.dev.standsAt c i →
    let x := s.dev.core c
    (i.op = .getw → x.cur ≠ 8 → s.dev.openItem c = none → x.returning = false → ∃ w, exec (.getw c) s = ranTo s c w ∧
      w = s.dev.setCore c (w.core c) ∧ (w.core c).run = .inGetw ∧ (w.core c).item = none ∧ (w.core c).ctxCc = 0 ∧ (w.core c).cur = x.cur ∧
      (∀ n, (w.core c).g n = x.g n) ∧ (w.core c).cb.pc = x.cb.pc ∧ (∀ b ∈ x.discard, ((w.core c).bank b).res = false) ∧
      (∀ b, b ∉ x.discard → (w.core c).bank b = x.bank b)) ∧
    (i.op = .getw → x.cur = 8 ∨ (s.dev.openItem c).isSome = true →
      ∃ y, exec (.getw c) s = ranTo s c (enterTrap c 2 0 0 0 0 y) ∧ y = s.dev.setCore c { x with stored := false, spent := 6, unbilled := 0, paid := false }) ∧
    (∀ v z n it, i.op = .doneI → (srcBin c i.s1 8).run (s.dev.begun c) = .ok v z → x.cur ≠ 8 → s.dev.openItem c = some (n, it) →
      doneOk it v = true → x.onGrace = false → (z.core c).spent + 5 ≤ x.budget.toNat → ∃ w, exec (.doneI c) s = ranTo s c w ∧
      w.item? n = some { it with phase := .done, done := v, tevt := s.dev.mer } ∧ (w.core c).item = none ∧
      SMap.get 0 w.qStrike it.q = 0 ∧ (∀ m, m ≠ n → w.item? m = s.dev.item? m) ∧
      (∀ m, (w.core c).g m = pick m x.ldPend (pick m (stepOf x i.s1 8) (x.g m))) ∧ (w.core c).cb.pc = nextPc x i) ∧
    (∀ v z n, i.op = .doneI → (srcBin c i.s1 8).run (s.dev.begun c) = .ok v z → x.cur ≠ 8 → x.item = some n → s.dev.openItem c = none →
      ∃ w, exec (.doneI c) s = ranTo s c w ∧ w.items = s.dev.items ∧ w.qStrike = s.dev.qStrike ∧ (w.core c).item = none ∧
      (w.core c).cb.pc = nextPc x i) ∧
    (∀ v z, i.op = .doorb → (srcBin c i.s1 8).run (s.dev.begun c) = .ok v z → ∃ w, exec (.doorb c) s = ranTo s c w ∧
      ((SMap.get [] s.dev.db (fld v 0 8)).length < 4 →
        SMap.get [] w.db (fld v 0 8) = SMap.get [] s.dev.db (fld v 0 8) ++ [(c.val, fld v 16 16)]) ∧
      (4 ≤ (SMap.get [] s.dev.db (fld v 0 8)).length → w.db = s.dev.db ∧ w.rbit (dbKey (fld v 0 8)) 30 = true) ∧
      (∀ t, t ≠ fld v 0 8 → SMap.get [] w.db t = SMap.get [] s.dev.db t) ∧
      (∀ m, (w.core c).g m = pick m x.ldPend (pick m (stepOf x i.s1 8) (x.g m))) ∧ (w.core c).cb.pc = nextPc x i) ∧
    (∀ v z y bs ro, i.op = .post → (srcBin c i.s1 8).run (s.dev.begun c) = .ok v z → x.cur ≠ 8 → x.cb.res = true → fld v 0 11 = 0 →
      fld v 12 14 ≠ 0 → 16 * fld v 26 12 + fld v 12 14 ≤ stageSize (s.dev.frameOf x) →
      (drainAll c ((z.ticked c 7).modCore c (fun k => k.applyStep (stepOf x i.s1 8)))).fabRead (stageReq (thallusOf c))
        (frondBase (frondOf c) + stageOff (s.dev.frameOf x) + 16 * fld v 26 12) (fld v 12 14) = (y, .ok bs) →
      ringRoom (y.ringHeld (thallusOf c)) bs.length = ro →
      (∀ o, ro = some o → (({ y with nextItem := y.nextItem + 1, qArr := SMap.put y.qArr (fld v 51 13) (SMap.get 0 y.qArr (fld v 51 13) + 1) }).fabWrite
        (ringReq (thallusOf c)) ((Tier.thallus (thallusOf c)).base + o) bs).2 = none) →
      ∃ w it, exec (.post c) s = ranTo s c w ∧ w.item? y.nextItem = some it ∧ it.q = fld v 51 13 ∧ it.plen = bs.length ∧ it.phase = .arrived ∧
        it.src = .post (if bit v 11 then none else some (fld v 38 13)) ∧ it.tin = s.dev.mer ∧ it.itag = BitVec.ofNat 64 x.cb.ctx.toNat ∧
        it.roff = ro ∧ (w.core c).cb.pc = nextPc x i)

/-! ### The cores: floating point -/

/-- Floating-point operations (04 R108, R111, R112): where no flag raised is enabled, Gd takes the result and the flags are ORed into FCSW; else the
floating-point trap (12) is entered with every flag raised in DETAIL, and no register changes before it. Edges (04 R109, Table 4.6): a NaN operand
gives the canonical NaN and an invalid operation NV; a quotient of a finite number by zero is an infinity with DZ; the sum of equal finite numbers
of opposite sign is −0 only when rounding toward −∞; FMIN and FMAX take the number beside a NaN. -/
def Obligations.FloatResult : Prop :=
  (∀ e ∈ floatRows, ∀ (s : State) (c : CoreId) (i : Dec), s.dev.standsAt c i → i.op = e.2.1 →
    let x := s.dev.core c
    let r := e.2.2.2 x.cb.fcsw.frm.toNat (x.cb.fcsw.en.getLsbD 1) (x.g i.ga) (x.g i.gb)
    (r.2 &&& x.cb.fcsw.en.toNat = 0 → ∃ w, exec (e.1 c) s = ranTo s c w ∧ (w.core c).cc = x.cc + e.2.2.1 ∧
      Retired c s.dev w (fun n => pick n x.ldPend (if n = i.gd then r.1 else x.g n)) (nextPc x i) none
        { x.cb with fcsw := { x.cb.fcsw with fl := x.cb.fcsw.fl ||| BitVec.ofNat 5 r.2 } }) ∧
    (r.2 &&& x.cb.fcsw.en.toNat ≠ 0 → exec (e.1 c) s = ranTo s c (enterTrap c 12 0 0 r.2 0 ((s.dev.begun c).ticked c (e.2.2.1 - 1))))) ∧
  (∀ f ∈ [fmtS, fmtD], ∀ (frm : Nat) (ufe s t : Bool) (m : Nat) (e : Int),
    (∀ a b : FVal, isNan a = true ∨ isNan b = true → (fadd f frm ufe a b).1 = fnan f ∧ (fmul f frm ufe a b).1 = fnan f ∧
      (fdiv f frm ufe a b).1 = fnan f ∧ ((fadd f frm ufe a b).2 = 16 ↔ snan a = true ∨ snan b = true)) ∧
    fadd f frm ufe (.inf s) (.inf !s) = (fnan f, 16) ∧
    (m ≠ 0 → fdiv f frm ufe (.fin s m e) (.fin t 0 e) = (finf f (s != t), 8)) ∧ fdiv f frm ufe (.fin s 0 e) (.fin t 0 e) = (fnan f, 16) ∧
    (m ≠ 0 → fadd f frm ufe (.fin s m e) (.fin (!s) m e) = (fzero f (frm == 3), 0)) ∧
    fsqrt f frm ufe (.fin s 0 e) = (fzero f s, 0) ∧ (m ≠ 0 → fsqrt f frm ufe (.fin true m e) = (fnan f, 16)) ∧
    (∀ a b : W64, isNan (fdec f a) = true → isNan (fdec f b) = false → (fminmax false f frm ufe a b).1 = fmask f b ∧
      (fminmax true f frm ufe b a).1 = fmask f b))

/-! ### The cores: decimal -/

/-- The rounding step (02 R51, Table 2.3): the magnitude num / den rounded as each mode says, and inexact exactly when something is lost. Packed and
zoned fields hold a value that fits (02 R43 to R46): a field written reads back as it, a zero as plus. -/
def Obligations.DecimalRounding : Prop :=
  (∀ (neg : Bool) (num den : Nat), 0 < den →
    (∀ mode, (roundMag mode neg num den).2 = true ↔ num % den ≠ 0) ∧
    (roundMag 0 neg num den).1 = num / den ∧
    (roundMag 1 neg num den).1 = (2 * num + den) / (2 * den) ∧
    (2 * (num % den) ≠ den → (roundMag 2 neg num den).1 = (2 * num + den) / (2 * den)) ∧
    (2 * (num % den) = den → (roundMag 2 neg num den).1 % 2 = 0 ∧ num / den ≤ (roundMag 2 neg num den).1 ∧
      (roundMag 2 neg num den).1 ≤ num / den + 1) ∧
    (roundMag 3 neg num den).1 = (2 * num + den - 1) / (2 * den) ∧
    (roundMag 4 neg num den).1 = (num + den - 1) / den ∧
    (roundMag 5 neg num den).1 = (if neg then num / den else (num + den - 1) / den) ∧
    (roundMag 6 neg num den).1 = (if neg then (num + den - 1) / den else num / den) ∧
    (roundMag 7 neg num den).1 = (if num % den ≠ 0 ∧ (num / den) % 5 = 0 then num / den + 1 else num / den)) ∧
  (∀ (len : Nat) (v : SDec), 1 ≤ len →
    (v.mag < 10 ^ (2 * len - 1) → (pack len v).length = len ∧ unpack (pack len v) = some ⟨v.neg && v.mag != 0, v.mag⟩) ∧
    (v.mag < 10 ^ len → (zone len v).length = len ∧ unzone (zone len v) = some ⟨v.neg && v.mag != 0, v.mag⟩))

/-- DLD, DADD, DSUB, DSCL (02 R58, R59, R63): with valid operands and a result that fits or saturates as CSW says, DACC takes the result rounded once,
DSCALE its scale, DSTICKY the overflow and inexact bits. -/
def Obligations.DaccResult : Prop :=
  ∀ (s : State) (c : CoreId) (i : Dec), s.dev.standsAt c i →
    let x := s.dev.core c
    let mode := if i.rnd = 0 then x.csw.rmode.toNat else i.rnd - 1
    (∀ bs z v, i.op = .dld → (srcDec c i.s1 i.len).run (s.dev.begun c) = .ok bs z → unpack bs = some v →
      ∃ w, exec (.dld c) s = ranTo s c w ∧ Reads c (s.dev.begun c) z ∧
        Retired c (z.modCore c (fun y => y.decimalState (BitVec.ofNat 5 i.scale) 0)) w
          (fun n => pick n x.ldPend (pick n (stepOf x i.s1 i.len) (withDacc (pack 32 v) x.g n))) (nextPc x i) none
          { x.cb with dscale := BitVec.ofNat 5 i.scale }) ∧
    (∀ e ∈ [((fun c => Instr.dadd c), Op.dadd, (1 : Int)), ((fun c => .dsub c), .dsub, -1)], ∀ bs z a b, i.op = e.2.1 →
      (srcDec c i.s1 i.len).run (s.dev.begun c) = .ok bs z → unpack x.dacc = some a → unpack bs = some b →
      let m := max x.dscale i.scale
      let r := rescale mode (SDec.ofInt (a.int * 10 ^ (m - x.dscale) + e.2.2 * b.int * 10 ^ (m - i.scale))) m x.dscale
      (∀ q st, fitDec x.csw.sat x.csw.dovt r.1 63 63 (decide (r.1.mag ≥ 10 ^ 63)) = .ok (q, st) →
        ∃ w, exec (e.1 c) s = ranTo s c w ∧ Reads c (s.dev.begun c) z ∧
          Retired c (z.modCore c (fun y => y.decimalState x.cb.dscale (st ||| b2n r.2))) w
            (fun n => pick n x.ldPend (pick n (stepOf x i.s1 i.len) (withDacc (pack 32 q) x.g n))) (nextPc x i) none
            { x.cb with dsticky := x.cb.dsticky ||| BitVec.ofNat 3 (st ||| b2n r.2) }) ∧
      (x.csw.sat = false → x.csw.dovt = true → r.1.mag ≥ 10 ^ 63 → exec (e.1 c) s = ranTo s c (enterTrap c 8 0 0 0 0 (z.ticked c 3)))) ∧
    (∀ v q st, i.op = .dscl → unpack x.dacc = some v →
      let r := rescale mode v x.dscale i.scale
      fitDec x.csw.sat x.csw.dovt r.1 63 63 (decide (r.1.mag ≥ 10 ^ 63)) = .ok (q, st) →
      ∃ w, exec (.dscl c) s = ranTo s c w ∧
        Retired c (s.dev.modCore c (fun y => y.decimalState (BitVec.ofNat 5 i.scale) (st ||| b2n r.2))) w
          (fun n => pick n x.ldPend (withDacc (pack 32 q) x.g n)) (nextPc x i) none
          { x.cb with dscale := BitVec.ofNat 5 i.scale, dsticky := x.cb.dsticky ||| BitVec.ofNat 3 (st ||| b2n r.2) })

/-- DST and DCVD store DACC rounded to the operand's scale, and BACC, as packed fields; DCVB takes an operand's coefficient to BACC; DCMPB branches on
DACC against the operand with scales aligned (02 R58, R64 to R66). -/
def Obligations.DecimalMoves : Prop :=
  ∀ (s : State) (c : CoreId) (i : Dec), s.dev.standsAt c i →
    let x := s.dev.core c
    let mode := if i.rnd = 0 then x.csw.rmode.toNat else i.rnd - 1
    (∀ v q st z, i.op = .dst → unpack x.dacc = some v →
      fitDec x.csw.sat x.csw.dovt (rescale mode v x.dscale i.scale).1 (2 * i.len - 1) (2 * i.len - 1)
        (decide ((rescale mode v x.dscale i.scale).1.mag ≥ 10 ^ (2 * i.len - 1))) = .ok (q, st) →
      (store c (eaOf x i.s1 i.len) (pack i.len q)).run ((s.dev.begun c).ticked c 4) = .ok () z →
      ∃ w, exec (.dst c) s = ranTo s c w ∧ Writes c (s.dev.begun c) z ∧
        Retired c (z.modCore c (fun y => y.decimalState x.cb.dscale (st ||| b2n (rescale mode v x.dscale i.scale).2))) w
          (fun n => pick n x.ldPend (pick n (stepOf x i.s1 i.len) (x.g n))) (nextPc x i) none
          { x.cb with dsticky := x.cb.dsticky ||| BitVec.ofNat 3 (st ||| b2n (rescale mode v x.dscale i.scale).2) }) ∧
    (∀ q st z, i.op = .dcvd → fitDec x.csw.sat x.csw.dovt (SDec.ofInt (x.g 4).toInt) (2 * i.len - 1) (2 * i.len - 1)
        (decide ((x.g 4).toInt.natAbs ≥ 10 ^ (2 * i.len - 1))) = .ok (q, st) →
      (store c (eaOf x i.s1 i.len) (pack i.len q)).run ((s.dev.begun c).ticked c 19) = .ok () z →
      ∃ w, exec (.dcvd c) s = ranTo s c w ∧ Writes c (s.dev.begun c) z ∧
        Retired c (z.modCore c (fun y => y.decimalState x.cb.dscale st)) w
          (fun n => pick n x.ldPend (pick n (stepOf x i.s1 i.len) (x.g n))) (nextPc x i) none
          { x.cb with dsticky := x.cb.dsticky ||| BitVec.ofNat 3 st }) ∧
    (∀ bs v z, i.op = .dcvb → (srcDec c i.s1 i.len).run (s.dev.begun c) = .ok bs z → unpack bs = some v →
      -(2 ^ 63) ≤ v.int ∧ v.int < 2 ^ 63 →
      ∃ w, exec (.dcvb c) s = ranTo s c w ∧ Reads c (s.dev.begun c) z ∧
        Retired c z w (fun n => pick n x.ldPend (pick n (stepOf x i.s1 i.len) (if n = 4 then BitVec.ofInt 64 v.int else x.g n)))
          (nextPc x i) none x.cb) ∧
    (∀ bs a b z, i.op = .dcmpb → (srcDec c i.s1 i.len).run (s.dev.begun c) = .ok bs z → unpack x.dacc = some a → unpack bs = some b →
      let m := max x.dscale i.scale
      let taken := condDec i.cond (a.int * 10 ^ (m - x.dscale)) (b.int * 10 ^ (m - i.scale))
      ∃ w, exec (.dcmpb c) s = ranTo s c w ∧ Reads c (s.dev.begun c) z ∧
        Retired c z w (fun n => pick n x.ldPend (pick n (stepOf x i.s1 i.len) (x.g n)))
          (if taken then x.cb.pc + BitVec.ofNat 16 i.tgt else nextPc x i) none x.cb)

/-- TALLY adds DACC, rounded to the field's scale, to a field of the frond store, made at the store itself (02 R70 to R73); PACKZ and UNPKZ convert
between zoned and packed fields (03 R87, R88). A destination that cannot hold the value takes the outcome of Table 2.5. -/
def Obligations.TallyConvert : Prop :=
  ∀ (s : State) (c : CoreId) (i : Dec), s.dev.standsAt c i →
    let x := s.dev.core c
    let mode := if i.rnd = 0 then x.csw.rmode.toNat else i.rnd - 1
    (∀ va n sec tl p y z d1 v old q st, i.op = .tally → eaOf x i.s1 i.len % 16 + i.len ≤ 16 → vparts (eaOf x i.s1 i.len) i.len = (va, n, sec) :: tl →
      (xlatPart c .rw va n sec).run (s.dev.begun c) = .ok p y → p.tier = .frond (frondOf c) → (protPart c .rw p).run y = .ok () z →
      (z.markKey p.pa .read).eccRead p.tier (wordsOf p.pa i.len) = (d1, none) → unpack x.dacc = some v → unpack (d1.bytes p.pa i.len) = some old →
      let r := rescale mode v x.dscale i.scale
      fitDec x.csw.sat x.csw.dovt (SDec.ofInt (old.int + r.1.int)) (2 * i.len - 1) (2 * i.len - 1)
        (decide ((old.int + r.1.int).natAbs ≥ 10 ^ (2 * i.len - 1))) = .ok (q, st) →
      let t := ((d1.ticked c 17).markKey p.pa .rw).store p.tier c p.pa (pack i.len q)
      ∃ w u, exec (.tally c) s = ranTo s c w ∧ (setDirty c p).run t = .ok () u ∧
        Retired c (u.modCore c (fun y => y.decimalState x.cb.dscale (st ||| b2n r.2))) w
          (fun n => pick n x.ldPend (pick n (stepOf x i.s1 i.len) (x.g n))) (nextPc x i) none
          { x.cb with dsticky := x.cb.dsticky ||| BitVec.ofNat 3 (st ||| b2n r.2) }) ∧
    (∀ e ∈ [((fun c => Instr.packz c), Op.packz, unzone, pack, 2 * i.len - 1), ((fun c => .unpkz c), .unpkz, unpack, zone, i.len)],
      ∀ sp dp y1 y2 bs y3 v q st z, i.op = e.2.1 →
      (xlatAll c .read (vparts (eaOf x i.s2 i.len2) i.len2)).run (s.dev.begun c) = .ok sp y1 →
      (xlatAll c .write (vparts (eaOf x i.s1 i.len) i.len)).run y1 = .ok dp y2 → farChunks sp + farChunks dp ≤ 4 →
      (protRead c sp).run y2 = .ok bs y3 → e.2.2.1 bs = some v →
      fitDec x.csw.sat x.csw.dovt v e.2.2.2.2 e.2.2.2.2 (decide (v.mag ≥ 10 ^ e.2.2.2.2)) = .ok (q, st) →
      (protWrite c dp (e.2.2.2.1 i.len q)).run (y3.ticked c 5) = .ok () z →
      ∃ w, exec (e.1 c) s = ranTo s c w ∧ Writes c (s.dev.begun c) z ∧
        Retired c (z.modCore c (fun y => y.decimalState x.cb.dscale st)) w
          (fun n => pick n x.ldPend (pick n (stepOf x i.s2 i.len2) (pick n (stepOf x i.s1 i.len) (x.g n)))) (nextPc x i) none
          { x.cb with dsticky := x.cb.dsticky ||| BitVec.ofNat 3 st })

/-! ### The cores: interruptible instructions -/

/-- An interruptible instruction (03 R90 to R93, 02 R68, R69): its setup leaves it at its first trap point, a run at the next, PC and general
registers as they were; a run that ends it retires it, with CONT[0] and RESUME cleared; an asynchronous trap due at the trap point is taken there,
TPC at the instruction, TCSW.RESUME 1, CONT the continuation with the last trap point in UPC (07 R168). -/
def Obligations.TrapPoints : Prop :=
  ∀ e ∈ longRows, ∀ (s : State) (c : CoreId) (i : Dec), s.dev.standsAt c i → i.op = e.2.1 →
    let x := s.dev.core c
    (∀ f z, x.flight = none → (e.2.2.setup c i).run (s.dev.begun c) = .ok f z → asyncDue (accountCore c z) c = none →
      ∃ w, exec (e.1 c 0) s = ranTo s c w ∧ w = z.setCore c (w.core c) ∧ (w.core c).flight = some f ∧
        (w.core c).cb = x.cb ∧ (w.core c).cc = (z.core c).cc + (z.core c).spent) ∧
    (∀ f g z, x.flight = some f → f.fromBF = false → (e.2.2.step c i f).run (s.dev.goesOn c) = .ok (.more g) z →
      asyncDue (z.counted c) c = none →
      ∃ w, exec (e.1 c 0) s = ranTo s c w ∧ w = z.setCore c (w.core c) ∧ (w.core c).flight = some { g with fromBF := false } ∧
        (w.core c).cb = (z.core c).cb ∧ (w.core c).cc = (z.core c).cc + (z.core c).spent) ∧
    (∀ f r z n, x.flight = some f → (e.2.2.step c i f).run (s.dev.goesOn c) = .ok (.fin r) z → r.pword = none →
      ∃ w, exec (e.1 c n) s = ranTo s c w ∧ w = z.setCore c (w.core c) ∧ (w.core c).flight = none ∧ (w.core c).cb.cont0 = 0 ∧
        (w.core c).csw = { (z.core c).csw with resume := false } ∧
        (w.core c).cb.pc = BitVec.ofNat 16 (r.pc.getD ((z.core c).cb.pc.toNat + i.n)) ∧
        (∀ m, (w.core c).g m = pick m (z.core c).ldPend ((z.core c).g m))) ∧
    (∀ f g z code, x.flight = some f → f.fromBF = false → (e.2.2.step c i f).run (s.dev.goesOn c) = .ok (.more g) z →
      asyncDue (z.counted c) c = some code → code ≠ 18 → (z.core c).inBF = false →
      ∃ w, exec (e.1 c 0) s = ranTo s c w ∧ (w.core c).flight = none ∧ (w.core c).cb.tpc = (z.core c).cb.pc ∧
        (w.core c).cb.tcsw.resume = true ∧ (w.core c).csw.resume = false ∧
        fld (w.core c).cb.cont0 50 14 = (resumeUpc g.opid g.runNo).toNat ∧
        (w.core c).cb.loadFlight g.fromBF = { g.used with latch := if latchOp g.opid.toNat then g.latch else [], fresh := true })

/-- Completions of the string instructions at their last trap point (03 R78 to R86, Table 3.6), which make no access: MVS and TRS step their
specifiers; CLS branches on the first difference; SCN leaves the byte found, or the end, in X1 and what is left in BACC; EDMK leaves in X1 where
its first significant byte stands. -/
def Obligations.StringEnds : Prop :=
  ∀ (s : State) (c : CoreId) (i : Dec) (f : Flight) (n : Nat), s.dev.standsAt c i → (s.dev.core c).flight = some f → f.doneN = f.len →
    let x := s.dev.core c
    let y := s.dev.modCore c (fun k => { k.clearResume with flight := none })
    let ends (l : Nat) (m : Nat) : W64 := pick m (stepFrom f.step2 f.addr2 l) (pick m (stepFrom f.step1 f.addr1 f.len.toNat) (x.g m))
    (∀ e ∈ [((fun c n => Instr.mvs c n), Op.mvs), ((fun c n => .trs c n), .trs)], i.op = e.2 →
      ∃ w, exec (e.1 c n) s = ranTo s c w ∧ Retired c y w (fun m => pick m x.ldPend (ends f.len.toNat m)) (nextPc x i) none (y.core c).cb) ∧
    (i.op = .cls → ∃ w, exec (.cls c n) s = ranTo s c w ∧
      Retired c y w (fun m => pick m x.ldPend (ends f.len.toNat m))
        (if condCls i.cond (bit f.flags 2) (bit f.flags 1) then x.cb.pc + BitVec.ofNat 16 i.tgt else nextPc x i) none (y.core c).cb) ∧
    (i.op = .scn → ∃ w, exec (.scn c n) s = ranTo s c w ∧
      Retired c y w (fun m => pick m x.ldPend
          (if m = 4 then (if bit f.flags 2 then BitVec.ofNat 64 (f.len.toNat - (f.addr3 - f.addr1).toNat) else 0)
           else if m = 5 then (if bit f.flags 2 then BitVec.ofNat 64 f.addr3.toNat else BitVec.ofNat 64 (byteVa f.addr1 f.len.toNat))
           else ends (if f.len = 0 then 0 else 32) m)) (nextPc x i) none (y.core c).cb) ∧
    (i.op = .edit → ∃ w, exec (.edit c n) s = ranTo s c w ∧
      Retired c y w (fun m => pick m x.ldPend (ends f.soff.toNat m)) (nextPc x i) none (y.core c).cb) ∧
    (i.op = .edmk → ∃ w, exec (.edmk c n) s = ranTo s c w ∧
      Retired c y w (fun m => pick m x.ldPend (if m = 5 ∧ bit f.flags 0 = true then BitVec.ofNat 64 f.addr3.toNat else ends f.soff.toNat m))
        (nextPc x i) none (y.core c).cb)

/-- The last run of DMUL, DDIV and DREM (02 R60 to R62): from the pair of values held, DACC takes the product, quotient or remainder, rounded once,
and DSCALE its scale. That of DADDM and DSUBM (02 R67, R68): the sum held, which phase 3 formed exactly of destination and source, is fitted into
the destination and stored; no register changes but DSTICKY and those the specifiers step. -/
def Obligations.LongDecimalEnds : Prop :=
  (∀ (s : State) (c : CoreId) (i : Dec) (f : Flight) (n : Nat) (a b : SDec), s.dev.standsAt c i → (s.dev.core c).flight = some f →
    unpack (latchBytes f.latch 0) = some a → unpack (latchBytes f.latch 4) = some b →
    let x := s.dev.core c
    let mode := dph f 1
    let ds := dph f 2
    let sc := dph f 3
    let len := dph f 4
    let after (scale : BitVec 5) (st : Nat) := s.dev.modCore c (fun k => { k.clearResume.decimalState scale st with flight := none })
    (∀ q st, i.op = .dmul → 2 * len - 1 - 16 * dph f 0 ≤ 16 →
      fitDec x.csw.sat x.csw.dovt (rescale mode (SDec.ofInt (a.int * b.int)) (ds + sc) ds).1 63 63
        (decide ((rescale mode (SDec.ofInt (a.int * b.int)) (ds + sc) ds).1.mag ≥ 10 ^ 63)) = .ok (q, st) →
      ∃ w, exec (.dmul c n) s = ranTo s c w ∧
        let y := after (BitVec.ofNat 5 ds) (st ||| b2n (rescale mode (SDec.ofInt (a.int * b.int)) (ds + sc) ds).2)
        Retired c y w (fun m => pick m x.ldPend (pick m (stepFrom f.step1 f.addr1 len) (withDacc (pack 32 q) x.g m))) (nextPc x i) none
          (y.core c).cb) ∧
    (∀ q st, i.op = .ddiv → min 63 (64 - (2 * len - 1) + sc) - 8 * dph f 0 < 8 → b.mag ≠ 0 →
      let m := roundMag mode (a.neg != b.neg) (a.mag * 10 ^ sc) b.mag
      fitDec x.csw.sat x.csw.dovt ⟨a.neg != b.neg, m.1⟩ 63 (min 63 (64 - (2 * len - 1) + sc))
        (decide (a.mag * 10 ^ sc / b.mag ≥ 10 ^ min 63 (64 - (2 * len - 1) + sc)) || decide (m.1 ≥ 10 ^ 63)) = .ok (q, st) →
      ∃ w, exec (.ddiv c n) s = ranTo s c w ∧
        let y := after (BitVec.ofNat 5 ds) (st ||| b2n m.2)
        Retired c y w (fun k => pick k x.ldPend (pick k (stepFrom f.step1 f.addr1 len) (withDacc (pack 32 q) x.g k))) (nextPc x i) none
          (y.core c).cb) ∧
    (i.op = .drem → min 63 (64 - (2 * len - 1) + sc) - 8 * dph f 0 < 8 → b.mag ≠ 0 →
      a.mag * 10 ^ sc / b.mag < 10 ^ min 63 (64 - (2 * len - 1) + sc) →
      ∃ w, exec (.drem c n) s = ranTo s c w ∧
        let y := after (BitVec.ofNat 5 (ds + sc)) 0
        Retired c y w (fun k => pick k x.ldPend (pick k (stepFrom f.step1 f.addr1 len)
          (withDacc (pack 32 ⟨a.neg, a.mag * 10 ^ sc % b.mag⟩) x.g k))) (nextPc x i) none (y.core c).cb)) ∧
  (∀ e ∈ [((fun c n => Instr.daddm c n), Op.daddm, false), ((fun c n => .dsubm c n), .dsubm, true)],
    ∀ (s : State) (c : CoreId) (i : Dec) (f : Flight) (n : Nat), s.dev.standsAt c i → i.op = e.2.1 → (s.dev.core c).flight = some f →
    let x := s.dev.core c
    (∀ q st z, dph f 0 ≠ 1 → dph f 0 ≠ 2 →
      let sum : SDec := ⟨(SMap.get 0 f.latch 12) != 0, ofBytes (latchBytes f.latch 4)⟩
      fitDec x.csw.sat x.csw.dovt sum (2 * i.len - 1) (2 * i.len - 1) (decide (sum.mag ≥ 10 ^ (2 * i.len - 1))) = .ok (q, st) →
      (store c f.addr1.toNat (pack i.len q)).run (s.dev.goesOn c) = .ok () z →
      ∃ w, exec (e.1 c n) s = ranTo s c w ∧
        let y := z.modCore c (fun k => { k.clearResume.decimalState x.cb.dscale st with flight := none })
        Retired c y w (fun m => pick m x.ldPend (pick m (stepFrom f.step2 f.addr2 i.len2) (pick m (stepFrom f.step1 f.addr1 i.len) (x.g m))))
          (nextPc x i) none (y.core c).cb) ∧
    (∀ a b, dph f 0 = 2 → i.len ≤ 32 → i.len2 ≤ 32 → (∀ u v w, i.s2 ≠ .imm u v w) → unpack ((latchBytes f.latch 4).drop (32 - i.len)) = some a →
      unpack ((latchBytes f.latch 0).drop (32 - i.len2)) = some b → f.fromBF = false →
      asyncDue (accountCore c ((s.dev.goesOn c).ticked c i.len)) c = none →
      ∃ w g, exec (e.1 c 0) s = ranTo s c w ∧ (w.core c).flight = some g ∧ dph g 0 = 3 ∧
        (⟨(SMap.get 0 g.latch 12) != 0, ofBytes (latchBytes g.latch 4)⟩ : SDec).int = (if e.2.2 then a.int - b.int else a.int + b.int)))

/-! ### The register pages -/

/-- A write of a register with no rule of its own (11 R294, 00 Table 0.4): RW and unlocked RWL fields take the value at once, RWS fields in the shadow
copy, 1 clears a W1C bit; a field whose value is reserved stays, with CFGERR; nothing else changes. -/
def Obligations.RegisterWriteResult : Prop :=
  ∀ (s : State) (m : RegMaster) (page : Fin 2304) (off : Nat) (v : W32) (r : PageRow) (i : Nat) (rd : RegDef) (idx : Nat), page.val < 2048 →
    s.dev.writable m page.val off = true → pageOf page.val = some (r, i) → regDefAt r.type off = some (rd, idx) →
    s.dev.special s.fuse m r.type i page.val rd idx v = none → rd.off ≠ 0x08 → rd.off ≠ 0x14 →
    (r.type, rd.off) ∉ [(PageT.lg, 0x100), (.uaska, 0x100), (.mac, 0x100), (.cairn, 0x130), (.pcie, 0x10C)] →
    let d := s.dev
    let k := page.val * 4096 + off
    let bad := d.badBits r.type i rd.off idx v (d.reg k)
    let now := BitVec.ofNat 32 (rd.rw ||| rd.rwl) &&& ~~~(BitVec.ofNat 32 bad)
    let later := BitVec.ofNat 32 rd.rws &&& ~~~(BitVec.ofNat 32 bad)
    ∃ y : Dev, exec (.registerWrite m page off 0xF v) s = toDev s (if bad = 0 then y else y.cfgErr page.val) ∧
      y = { d with regs := y.regs, shadow := y.shadow } ∧
      y.reg k = ((d.reg k &&& ~~~now) ||| (v &&& now)) &&& ~~~(v &&& BitVec.ofNat 32 rd.w1c) ∧
      (rd.rws ≠ 0 → y.shadowOf k = ((d.shadowOf k &&& ~~~later) ||| (v &&& later))) ∧
      ∀ j, j ≠ k → y.reg j = d.reg j ∧ y.shadowOf j = d.shadowOf j

/-- Register writes that are turned away (11 R289 to R295, R298, Table 11.3): a master whose way is closed changes nothing; a slot that denies records
a violation and answers with an error response; the other errors are logged in ERR_CAP, of page DEVCTL when no page answers. The first error held
is kept. -/
def Obligations.RegisterWriteDenied : Prop :=
  (∀ (s : State) (m : RegMaster) (page : Fin 2304) (off : Nat) (be : BitVec 4) (v : W32), page.val < 2048 →
    let d := s.dev
    let cmd := exec (.registerWrite m page off be v) s
    (d.reaches m true = false → cmd = toDev s d) ∧
    (∀ den, d.reaches m true = true → m ≠ .crozier →
      grantOf (d.reg (rk .gslot (page.val / 512) (0x100 + 4 * (page.val % 512)))) 0 (d.regReq m) .write = some den →
      cmd = toDev s ((d.violation (d.regReq m) .write den true page.val (0xF0_0000_0000 + page.val * 4096 + off)).errTo m)) ∧
    (d.lets m page.val .write →
      (pageOf page.val = none → cmd = toDev s (d.logErr 0 .unmapped true (masterId m) page.val off)) ∧
      (∀ r i t, pageOf page.val = some (r, i) → pageThallus r.type i = some t → d.thOn t = false →
        cmd = toDev s (d.logErr 0 .domainOff true (masterId m) page.val off)) ∧
      (∀ r i, pageOf page.val = some (r, i) → (pageThallus r.type i).all d.thOn = true →
        (regDefAt r.type off = none → cmd = toDev s (d.logErr page.val .unmapped true (masterId m) page.val off)) ∧
        (be ≠ 0xF → regDefAt r.type off ≠ none → cmd = toDev s (d.logErr page.val .size true (masterId m) page.val off)) ∧
        (∀ rd idx, be = 0xF → regDefAt r.type off = some (rd, idx) → readOnly r.type i rd idx = true →
          cmd = toDev s (d.logErr page.val .writeRo true (masterId m) page.val off)) ∧
        (∀ rd idx, be = 0xF → regDefAt r.type off = some (rd, idx) → readOnly r.type i rd idx = false →
          d.locked r.type page.val idx rd = true → rd.off ≠ 0x28 → r.type ≠ .gate →
          cmd = toDev s (d.logErr page.val .locked true (masterId m) page.val off))))) ∧
  (∀ (d : Dev) (log page off master : Nat) (e : AccErr) (wr : Bool),
    let k := log * 4096 + 0x18
    let w := d.logErr log e wr master page off
    (d.rbit k 31 = false →
      w.reg k = BitVec.ofNat 32 (0x8000_0000 + b2n wr * 2 ^ 28 + e.code * 2 ^ 24 + master % 4096 * 2 ^ 12) ∧
      w.reg (k + 4) = BitVec.ofNat 32 (page % 2048 * 2 ^ 21 + off % 4096) ∧ (w.reg (log * 4096 + 0x10)).getLsbD 30 = true) ∧
    (d.rbit k 31 = true → w = d.setRf k 30 1 1))

/-- LOCK (11 R298; a 0 to a set bit, and what becomes of a page's shadow copies, are readings of log entry 44), and a page that does not answer (11
R295): lock bits are only set, and RWS drops what is staged on its page; a time-out answers with an error response, is logged in page DEVCTL and
takes the recovery ladder, whether or not the write was made; a read returns 0 (what a peer and Crozier get is the model's: log entry 68). -/
def Obligations.LockAndTimeout : Prop :=
  (∀ (s : State) (m : RegMaster) (page : Fin 2048) (v : W32), s.dev.writable m page.val 0x28 = true →
    let d := s.dev
    let k := page.val * 4096 + 0x28
    let d1 := d.setRf k 0 2 (d.rf k 0 2 ||| fld v 0 2)
    let y : Dev := if d1.rbit k 1 then { d1 with shadow := SMap.keep (fun j => j / 4096 != page.val) d1.shadow } else d1
    exec (.lockWrite m page v) s =
      toDev s (if d.rf k 0 2 &&& (3 - fld v 0 2) = 0 then y else y.logErr page.val .locked true (masterId m) page.val 0x28)) ∧
  (∀ (s : State) (m : RegMaster) (page : Fin 2048) (off : Nat) (w : Option W32) (made : Bool) (r : PageRow) (i : Nat),
    s.dev.lets m page.val (if w.isSome then .write else .read) → pageOf page.val = some (r, i) →
    (pageThallus r.type i).all s.dev.thOn = true → s.dev.mode ≠ .datum → (w = none ∨ made = false) →
    exec (.registerBusTimeout m page off w made) s =
      toDev s ((((s.dev.errTo m).noAnswer m page.val off w).logErr 0 .timeout w.isSome (masterId m) page.val off).busLadder r.type i)) ∧
  (∀ (s : State) (m : RegMaster) (page : Fin 2048) (off : Nat) (v : W32) (r : PageRow) (i : Nat) (y : Dev),
    s.dev.writable m page.val off = true → pageOf page.val = some (r, i) → y = (s.dev.busWrite s.fuse m page.val off 0xF v).1 → y.mode ≠ .datum →
    exec (.registerBusTimeout m page off (some v) true) s =
      toDev s ((((y.errTo m).noAnswer m page.val off (some v)).logErr 0 .timeout true (masterId m) page.val off).busLadder r.type i)) ∧
  (∀ (d : Dev) (page off : Nat) (v : W32), d.noAnswer .host page off none = d.emit (.hostRead (zeros 4)) ∧ d.noAnswer .host page off (some v) = d ∧
    d.noAnswer .debug page off none = d.emit (.jtag (dbgOut (0xF0_0000_0000 + page * 4096 + off) false 0)))

/-- R286. A denied part's record goes to the capture of the gate or slot page where it lies: held and marked VALID while none is held, else only OVF
is set; a write of 1 to VALID clears both. -/
def Obligations.CaptureHolds : Prop :=
  (∀ (d : Dev) (r : Req) (a : Acc) (den : Denial) (slot : Bool) (gate addr : Nat), gate < (if slot then 2048 else 549) →
    let w := d.violation r a den slot gate addr
    let cap := if slot then rk .gslot (gate / 512) 0x900 else rk .gate gate 0x210
    let sts := cap + 0x10
    let ws := violationWords d r a den slot gate addr
    (d.rbit sts 31 = false → w.reg sts = d.reg sts ||| 0x80000000 ∧ ∀ i, i < 4 → w.reg (cap + 4 * i) = ws.getD i 0) ∧
    (d.rbit sts 31 = true → w.reg sts = d.reg sts ||| 0x40000000 ∧ ∀ i, i < 4 → w.reg (cap + 4 * i) = d.reg (cap + 4 * i))) ∧
  (∀ (s : State) (m : RegMaster) (page : Fin 2048) (v : W32) (off : Nat),
    ((0x400 ≤ page.val ∧ page.val < 0x625 ∧ off = 0x220) ∨ (0x18 ≤ page.val ∧ page.val < 0x1C ∧ off = 0x910)) →
    s.dev.writable m page.val off = true → bit v 31 = true →
    let k := page.val * 4096 + off
    ∃ w, exec (.captureClear m page v) s = toDev s w ∧ w.reg k = s.dev.reg k &&& 0x3FFFFFFF ∧ s.dev.onlyRegs w [k]) ∧
  (∀ (s : State) (m : RegMaster) (page : Fin 2048) (v : W32) (off : Nat),
    ((0x400 ≤ page.val ∧ page.val < 0x625 ∧ off = 0x220) ∨ (0x18 ≤ page.val ∧ page.val < 0x1C ∧ off = 0x910)) →
    s.dev.writable m page.val off = true →
    let k := page.val * 4096 + off
    let d1 := if bit v 31 then s.dev.setRf k 30 2 0 else s.dev
    exec (.captureClear m page v) s = toDev s (if bit v 30 then d1.setRf k 30 1 0 else d1))

/-- R297. A page sends the vector of PAGE_CTL.VEC when a bit of IRQ_STS becomes 1 while its enable is 1, and when an enable becomes 1 while its status
bit is 1; a bit that stays 1 sends nothing. -/
def Obligations.PageInterrupts : Prop :=
  (∀ (d : Dev) (page bits : Nat), bits < 2 ^ 32 →
    let k := page * 4096 + 0x10
    let y := d.setReg k (d.reg k ||| BitVec.ofNat 32 bits)
    ((∃ j, j < 32 ∧ bits.testBit j = true ∧ d.rbit k j = false ∧ d.rbit (page * 4096 + 0x14) j = true) →
      d.raiseIrq page bits = y.sendMsix (d.rf (page * 4096 + 8) 0 11)) ∧
    ((∀ j, j < 32 → bits.testBit j = true → d.rbit k j = true ∨ d.rbit (page * 4096 + 0x14) j = false) → d.raiseIrq page bits = y)) ∧
  (∀ (s : State) (m : RegMaster) (page : Fin 2304) (v : W32), page.val < 2048 → s.dev.writable m page.val 0x14 = true →
    let d := s.dev
    let k := page.val * 4096 + 0x14
    let y := d.setReg k v
    ((∃ j, j < 32 ∧ bit v j = true ∧ d.rbit k j = false ∧ d.rbit (page.val * 4096 + 0x10) j = true) →
      exec (.registerWrite m page 0x14 0xF v) s = toDev s (y.sendMsix (d.rf (page.val * 4096 + 8) 0 11))) ∧
    ((∀ j, j < 32 → bit v j = true → d.rbit k j = true ∨ d.rbit (page.val * 4096 + 0x10) j = false) →
      exec (.registerWrite m page 0x14 0xF v) s = toDev s y))

/-! ### Shadow sets and the swap -/

/-- SWAP_CTL and PAGE_CTL.RESYNC with no swap armed (11 R302, R303): ARM sets ARMED, a swap time less than 64 ns ahead is late and the swap is made 64
ns on; NOW asks for a swap 64 ns on, DISCARD drops every staged value, RESYNC those of one page. ARM again changes nothing. -/
def Obligations.SwapControl : Prop :=
  (∀ (s : State) (m : RegMaster), s.dev.writable m 0 0x108 = true →
    let d := s.dev
    (d.armed = false → d.mer + 64 ≤ d.swapAt → exec (.swapArm m true) s = toDev s ((d.setRf swapSts 31 1 1).setRf swapCtl 0 1 1)) ∧
    (d.armed = false → d.swapAt < d.mer + 64 →
      exec (.swapArm m true) s =
        toDev s { ((d.setRf swapSts 31 1 1).setRf swapCtl 0 1 1).setRf swapSts 30 1 1 with armDue := some (d.mer + 64) }) ∧
    (d.armed = true → exec (.swapArm m true) s = toDev s d) ∧ (d.armed = false → exec (.swapArm m false) s = toDev s d) ∧
    (d.armed = false → exec (.swapNow m) s = toDev s { d with swapDue := d.swapDue ++ [d.mer + 64] }) ∧
    (d.armed = false → exec (.swapDiscard m) s = toDev s { d with shadow := [] })) ∧
  (∀ (s : State) (m : RegMaster) (page : Fin 2048), s.dev.writable m page.val 8 = true → s.dev.armed = false →
    ∃ w, exec (.pageResync m page) s = toDev s w ∧ w = { s.dev with regs := w.regs, shadow := w.shadow } ∧
      (∀ k, w.reg k = s.dev.reg k) ∧ ∀ k, w.shadowOf k = if k / 4096 = page.val then s.dev.reg k else s.dev.shadowOf k)

/-- R303. While a swap is armed SWAP_AT, NOW, DISCARD and RESYNC are refused with CFGERR; ARM 0 disarms and leaves what is staged. ARM with NOW or
DISCARD, and NOW with DISCARD, are refused whole. -/
def Obligations.SwapRefusals : Prop :=
  (∀ (s : State) (m : RegMaster) (v : W32), s.dev.armed = true →
    let d := s.dev
    let off (y : Dev) : Dev := { (y.setRf swapSts 31 1 0).setRf swapCtl 0 1 0 with armDue := none }
    (∀ o ∈ [0x100, 0x104], s.dev.writable m 0 o = true → exec (.registerWrite m 0 o 0xF v) s = toDev s (d.cfgErr 0)) ∧
    (s.dev.writable m 0 0x108 = true →
      exec (.swapNow m) s = toDev s (off (d.cfgErr 0)) ∧ exec (.swapDiscard m) s = toDev s (off (d.cfgErr 0)) ∧
      exec (.swapArm m false) s = toDev s (off d) ∧ (off d).shadow = d.shadow ∧ (off (d.cfgErr 0)).shadow = d.shadow ∧ (off d).armed = false) ∧
    (∀ page : Fin 2048, s.dev.writable m page.val 8 = true →
      ∃ w, exec (.pageResync m page) s = toDev s w ∧ w.shadow = d.shadow ∧ w.rbit (page.val * 4096 + 0xC) 31 = true ∧
        ∀ k, k / 4096 ≠ page.val → w.reg k = d.reg k)) ∧
  (∀ (s : State) (m : RegMaster) (v : W32), s.dev.writable m 0 0x108 = true →
    (bit v 0 = true ∧ (bit v 1 = true ∨ bit v 2 = true)) ∨ (bit v 1 = true ∧ bit v 2 = true) →
    exec (.registerWrite m 0 0x108 0xF v) s = toDev s (s.dev.cfgErr 0))

/-- The swap cycle (11 R299, R300, R302): on its Meridian, the earliest of the NOW swaps and the armed one, every staged RWS field becomes active,
the blocks make their checks in their order, SWAP_STS.COUNT advances and SWAP_LAST takes the Meridian; in SAFE it is cancelled; before its time
nothing happens. Where no ring register of a chain changes, the RWS fields of every register read after the swap as the copy left them, but
GRAT_UCAP with UMIN above UMAX, which keeps its old value; a field put back keeps the new value in its shadow copy and sets REJ and CFGERR. A queue
with EN 1 whose contract fails its checks is closed with CERR (08 R189); one with EN 0, or with QDEPTH 0, is closed without it (one swap a command,
the earliest due, and QDEPTH 0: log entry 59); ring registers of a chain that is not OFF keep their old values (09 R254). The shadow digest (14
R382), once made, stands in its eight registers, and a report that waits for it carries it. -/
def Obligations.SwapCycle : Prop :=
  (∀ (s : State),
    let d := s.dev
    let armT : Option Nat := if d.armed then some (d.armDue.getD d.swapAt) else none
    let taken (t : Nat) : Dev :=
      let y := { d with swapDue := d.swapDue.filter (fun x => x != t) }
      if armT = some t then { (y.setRf swapSts 31 1 0).setRf swapCtl 0 1 0 with armDue := none } else y
    (d.swapDue = [] → armT = none → exec .shadowSwap s = toDev s d) ∧
    (∀ t, (armT = some t ∧ ∀ x ∈ d.swapDue.head?, t ≤ x) ∨ (d.swapDue.head? = some t ∧ ∀ x ∈ armT, t ≤ x) →
      (d.mer < t → exec .shadowSwap s = toDev s d) ∧
      (t ≤ d.mer → d.mode = .safe → exec .shadowSwap s = toDev s ((taken t).setRf swapSts 29 1 1)) ∧
      (t ≤ d.mer → d.mode ≠ .safe → d.mode ≠ .datum →
        let b := (taken t).swapBlocks
        exec .shadowSwap s = toDev s { (((b.setRf swapSts 0 16 (b.rf swapSts 0 16 + 1)).setReg (rk .devctl 0 0x110)
          (BitVec.ofNat 32 d.mer)).setReg (rk .devctl 0 0x114) (BitVec.ofNat 32 (d.mer / 2 ^ 32))) with digestDue := true }))) ∧
  (∀ (d : Dev) (k : Nat), d.copyShadow.reg k = ((d.reg k &&& ~~~(rwsMask k)) ||| (d.shadowOf k &&& rwsMask k)) ∧
    d.copyShadow.shadowOf k = d.copyShadow.reg k ∧ d.copyShadow = { d with regs := d.copyShadow.regs, shadow := [] }) ∧
  (∀ d : Dev,
    let d1 := (d.copyShadow.setRf swapSts 28 1 0).checkUcap d
    let d2 := (List.range 64).foldl (Dev.swapChain d) ((List.range 64).foldl (Dev.checkChain d) d1)
    let d3 := d2.queuesSet.foldl (Dev.swapQueue d) { d2 with qOpen := [] }
    let d4 := (List.range 32).foldl (fun y f => (y.setMaxb f).swapU f) d3
    d.swapBlocks = (List.range 64).foldl Dev.swapMbx ((List.range 64).foldl Dev.takeSum d4)) ∧
  (∀ d : Dev, (∀ c, c < 64 → ∀ o ∈ [0, 4, 8], d.copyShadow.reg (chKey c o) = d.reg (chKey c o)) →
    ∀ k, d.swapBlocks.reg k &&& rwsMask k =
      (if k = grKey 0x104 ∧ d.copyShadow.rf k 8 8 < d.copyShadow.rf k 0 8 then d.reg k else d.copyShadow.reg k) &&& rwsMask k) ∧
  (∀ (old d : Dev) (c : Nat),
    let en := d.rbit (chKey c 0) 31
    let changed := ∃ o ∈ [0, 4, 8], d.reg (chKey c o) ≠ old.reg (chKey c o)
    (en = true → d.chState c = 0 → changed → (d.chain c).drained = false → Dev.swapChain old d c = d.openChain c) ∧
    (en = false → old.rbit (chKey c 0) 31 = true → Dev.swapChain old d c = d.closeChain c) ∧
    (en = old.rbit (chKey c 0) 31 → d.chState c ≠ 0 ∨ ¬changed → Dev.swapChain old d c = d)) ∧
  (∀ (old d : Dev) (k page : Nat),
    let w := d.keepOld old k page
    w.shadow = SMap.put d.shadow k (d.reg k) ∧ w.rbit swapSts 28 = true ∧
      (k ≠ swapSts → k / 4096 ≠ page → w.reg k = old.reg k) ∧ w.rbit (page * 4096 + 0xC) 31 = true) ∧
  (∀ (old d : Dev) (q : Nat), q < 8192 →
    let d0 := (d.setRf (qsKey q 4) 0 24 (d.ctBudget q)).setRf (qsKey q 8) 0 24 0
    (d.rbit (ctKey q 0) 31 = false → Dev.swapQueue old d q = d0.setRf (qsKey q 0) 31 1 0) ∧
    (d.rbit (ctKey q 0) 31 = true → d.contractOk q = false → Dev.swapQueue old d q = d0.setRf (qsKey q 0) 31 1 1) ∧
    (d.ctEn q = false → d.contractOk q = true → Dev.swapQueue old d q = d0.setRf (qsKey q 0) 31 1 0) ∧
    (d.ctEn q = true → d.contractOk q = true → q ∈ (Dev.swapQueue old d q).qOpen ∧ (Dev.swapQueue old d q).rf (qsKey q 4) 0 24 = d.ctBudget q % 2 ^ 24)) ∧
  (∀ (old d : Dev) (c : Nat), c < 64 → old.chState c ≠ 0 →
    (Dev.checkChain old d c).reg (chKey c 4) = old.reg (chKey c 4) ∧ (Dev.checkChain old d c).reg (chKey c 8) = old.reg (chKey c 8)) ∧
  (∀ (s : State),
    let d := s.dev
    let g := shadowDigest d
    (d.digestDue = false → exec .shadowDigestDone s = toDev s d) ∧
    (d.digestDue = true →
      exec .shadowDigestDone s = toDev s { d.setDigest (cartKey 0x160) g with
        digestDue := false
        att := if d.att.waits then { d.att with busy := d.att.busy.map (fun b => b.take 0xA8 ++ g ++ b.drop 0xC8), waits := false } else d.att }) ∧
    (∀ i, i < 8 → (d.setDigest (cartKey 0x160) g).reg (cartKey 0x160 + 4 * i) = be32 g i))

/-! ### DMA -/

/-- CH_CTL (09 R236, R238, R244): GO on an enabled host channel with no descriptor in hand fetches the one that CH_DESC names; GO elsewhere, with
one in hand or in ring mode, is refused with CFGERR; ABORT ends the one in hand with status 8, or with its own when that is decided. A fetch that
fails decides the status. A fetched descriptor is held with the status its checks give. The blocks of its move are cut at 64-byte boundaries of the
source, their writes at those of the destination. (ABORT of a descriptor whose status is decided, GO of a ring or disabled channel: log entry 50.)
-/
def Obligations.DmaControl : Prop :=
  (∀ (s : State) (m : RegMaster) (ch : Fin 1024) (n : Nat),
    s.dev.writable m (PageT.first .dmaCh + ch.val / 64) (0x100 + 32 * (ch.val % 64)) = true → s.dev.rf (dcKey ch.val 0) 0 2 = 0 →
    let d := s.dev
    let d0 := d.setReg (dcKey ch.val 0) (d.reg (dcKey ch.val 0) &&& 0xF000_0000)
    (SMap.find? d.dma ch.val = none → d.dcRing ch.val = false → d.dcEn ch.val = true →
      exec (.dmaGo m ch n) s = toDev s (Dev.moveBlocks ch.val n
        (d0.beginDesc ch.val ((d.reg (dcKey ch.val 4)).toNat + d.rf (dcKey ch.val 8) 0 8 * 2 ^ 32)))) ∧
    (SMap.find? d.dma ch.val = none → d.dcEn ch.val = false →
      exec (.dmaGo m ch n) s = toDev s (d0.cfgErr (PageT.first .dmaCh + ch.val / 64))) ∧
    (∀ r, SMap.find? d.dma ch.val = some r → d.dcRing ch.val = false →
      exec (.dmaGo m ch n) s = toDev s (Dev.moveBlocks ch.val n (d0.cfgErr (PageT.first .dmaCh + ch.val / 64)))) ∧
    (SMap.find? d.dma ch.val = none → d.dcRing ch.val = true → d.rf (dcKey ch.val 0x10) 30 2 ≠ 3 →
      exec (.dmaGo m ch n) s = toDev s (d0.cfgErr (PageT.first .dmaCh + ch.val / 64))) ∧
    (∀ r, SMap.find? d.dma ch.val = some r → d.dcRing ch.val = false →
      exec (.dmaAbort m ch) s = toDev s (d0.endDesc ch.val (r.status.getD 8))) ∧
    (∀ r, SMap.find? d.dma ch.val = some r → d.rf (dcKey ch.val 0x10) 30 2 ≠ 3 →
      exec (.dmaAbort m ch) s = toDev s (d0.endDesc ch.val (r.status.getD 8))) ∧
    (SMap.find? d.dma ch.val = none → d.dcRing ch.val = false → exec (.dmaAbort m ch) s = toDev s d0)) ∧
  (∀ (d d1 : Dev) (ch a : Nat) (bs : List Byte), ch < 1024 → d.dmaRead (d.dcCeil ch) a 32 = (d1, .ok bs) →
    SMap.find? (d.beginDesc ch a).dma ch = some { descOf a bs with status := d1.descCheck ch bs (descOf a bs) } ∧
    (d.beginDesc ch a).rf (dcKey ch 0x10) 30 2 = 1) ∧
  (∀ (d d1 : Dev) (ch a c : Nat), d.dmaRead (d.dcCeil ch) a 32 = (d1, .error c) →
    ∃ r, SMap.find? (d.beginDesc ch a).dma ch = some r ∧ r.status = some (if d.dcRing ch then 9 else c)) ∧
  (∀ r : DmaRun, r.moved < r.len →
    0 < r.block.2 ∧ (if r.descends then r.block.1 + r.block.2 + r.moved = r.len else r.block.1 = r.moved ∧ r.block.1 + r.block.2 ≤ r.len) ∧
    (r.src + r.block.1) % 64 + r.block.2 ≤ 64) ∧
  (∀ (r : DmaRun) (a : Nat) (bs : List Byte), bs.length ≤ 64 →
    (∀ p ∈ r.pieces a bs, p.1 % 64 + p.2.length ≤ 64 ∧ a ≤ p.1 ∧ p.1 + p.2.length ≤ a + bs.length ∧ ∀ j, j < p.2.length → p.2.getD j 0 = bs.getD (p.1 - a + j) 0) ∧
    (∀ j, j < bs.length → ∃ p ∈ r.pieces a bs, p.1 ≤ a + j ∧ a + j < p.1 + p.2.length)) ∧
  (∀ (ch n m : Nat) (d d1 d2 : Dev) (r : DmaRun) (bs : List Byte), SMap.find? d.dma ch = some r → r.status = none →
    d.dmaRead (dcReq ch r.key r.priv) (r.src + r.block.1) r.block.2 = (d1, .ok bs) →
    Dev.dmaPieces (dcReq ch r.key r.priv) (r.pieces (r.dst + r.block.1) bs) d1 = (d2, m, none) →
    let k := r.moved + r.block.2
    Dev.moveBlocks ch (n + 1) d = Dev.moveBlocks ch n (({ d2 with dma := SMap.put d2.dma ch { r with
      moved := k, status := if k = r.len then some 0 else none } }).setReg (dcKey ch 0x14) (BitVec.ofNat 32 k)))

/-- The engines' own steps (09 R237, R241, R246; 13 R363): a descriptor that ends leaves CH_STS with its status, idle or, in host mode with a status
other than 0, stopped, and CH_MOVED; the next one follows. (A read-back that finds an uncorrectable word turns OK into UNCORRECTABLE: log entry 70;
CH_STS.STATE and a ring's failed fetch: log entry 50.) A ring channel reads PROD and CONS: nothing to do, a fault when they are more than the
ring apart, or the descriptor at CONS. A stuck channel is aborted, the second within 1 s resets the thallus (its record is the model's: log entry
32). A hold that times out is released. -/
def Obligations.DmaSteps : Prop :=
  (∀ (d : Dev) (ch status : Nat) (lost : Option Nat) (r : DmaRun), ch < 1024 → SMap.find? d.dma ch = some r →
    let w := d.endDesc ch status lost
    let st := if status = 0 ∧ (d.readBacks ch lost r).2 = true then 5 else status
    (∀ dom, lost = some dom → d.rangeTouches dom r.dst r.len = true → d.readBacks ch lost r = (d, false)) ∧
    SMap.find? w.dma ch = none ∧ w.rf (dcKey ch 0x10) 0 8 = st % 256 ∧
    w.rf (dcKey ch 0x10) 30 2 = (if st = 0 ∨ d.dcRing ch = true then 0 else 3) ∧ w.reg (dcKey ch 0x14) = BitVec.ofNat 32 r.moved) ∧
  (∀ (s : State) (ch : Fin 1024) (n : Nat),
    let d := s.dev
    (∀ r c, SMap.find? d.dma ch.val = some r → r.status = some c →
      exec (.dmaDescriptorComplete ch n) s = toDev s (Dev.moveBlocks ch.val n ((d.endDesc ch.val c).nextDesc ch.val c r.next))) ∧
    (d.thOn (ch.val / 256) = true → d.dcEn ch.val = true → d.dcRing ch.val = true → d.rf (dcKey ch.val 0x10) 30 2 ≠ 3 →
      SMap.find? d.dma ch.val = none → ∀ d1 d2 p c, d.ringIdx ch.val 0 = (d1, .ok p) → d1.ringIdx ch.val 8 = (d2, .ok c) →
      let k := (p + 65536 - c) % 65536
      (k = 0 → exec (.dmaRingPoll ch n) s = toDev s (d2.dcState ch.val 0)) ∧
      (d2.dcSlots ch.val < k → exec (.dmaRingPoll ch n) s = toDev s ((d2.setRf (dcKey ch.val 0x10) 0 8 9).dcState ch.val 3)) ∧
      (0 < k → k ≤ d2.dcSlots ch.val → exec (.dmaRingPoll ch n) s =
        toDev s (Dev.moveBlocks ch.val n (d2.beginDesc ch.val (d2.dcRingAt ch.val + 0x40 + 32 * (c % d2.dcSlots ch.val)))))) ∧
    (∀ r, SMap.find? d.dma ch.val = some r → r.status = none → d.heldDom (ch.val / 256) = none →
      let d1 := (d.abortDesc ch.val 8).noteStep 0x14 (ch.val / 256) 7 1 2 0
      exec (.dmaChannelTimeout ch) s =
        toDev s (if 2 ≤ d1.strikes 0x14 (fun t => t == ch.val / 256) then d1.stepThallus (ch.val / 256) 7 else d1))) ∧
  (∀ (s : State) (t : Fin 4) (dom : Nat), s.dev.heldDom t.val = some dom →
    let d1 := s.dev.setRf (pdHold t.val) 30 1 1
    (s.dev.dma.filter (fun e => e.1 / 256 == t.val && s.dev.runTouches dom e.1 e.2) = [] →
      exec (.dmaPdTimeout t) s = toDev s (d1.setRf (pdHold t.val) 31 1 0)) ∧
    (∀ ch r, s.dev.dma.filter (fun e => e.1 / 256 == t.val && s.dev.runTouches dom e.1 e.2) = [(ch, r)] →
      let z := d1.abortDesc ch 7 (some dom)
      exec (.dmaPdTimeout t) s = toDev s ((if r.status = none then z.incRf (pdHold t.val) 16 8 1 else z).release t.val)))

/-! ### Power domains and fences -/

/-- PD_CTL and the domains (13 R354; 09 R245 to R247): a request goes to the four engines and shows REQ; one refused has its bit returned; a bit
written 0 drops the request; PD_STS.BUSY reads 1 while a domain is not as PD_CTL asks. A domain every engine has released goes off with its stores'
contents; one comes on with its pages at reset and its cores waiting for their refill, a deep-store domain by training, which in RUN, DEGRADED and
DRAIN it waits for (log entry 59). In CROZIER and SAFE the write is refused. A request that R247 refuses is refused at once beside one under way;
any other waits for that to end (log entry 15; a lost store reads 0: log entry 2). Fences (13 R355): fencing a frond moves its idle queues to
another frond of their home sets; once it holds no queue and no item its eight cores leave the pool and FENCED shows it; unfencing returns the cores
that are fit for the pool, with a command of the cores' modes at once. -/
def Obligations.PowerDomains : Prop :=
  (∀ e ∈ [(fun (m : RegMaster) (v : W32) => Instr.powerDownRequest m v), (fun m v => .powerUpRequest m v)],
    ∀ (s : State) (m : RegMaster) (v : W32), s.dev.writable m (PageT.first .power) 0x100 = true →
    let d := s.dev
    let d0 := d.setReg pdCtl (BitVec.ofNat 32 (v.toNat &&& 0x00FF_010F))
    (d.mode = .crozier ∨ d.mode = .safe → exec (e m v) s = toDev s (d.cfgErr (PageT.first .power))) ∧
    (d.mode ∈ [Mode.standby, .run, .degraded, .drain, .survey] →
      (d.pdNow = none → v.toNat &&& 0x00FF_010F = 0 → exec (e m v) s = toDev s d0) ∧
      (∀ dom, d.pdNow = some dom → dom ∈ domains → v.toNat &&& 0x00FF_010F = 0 →
        exec (e m v) s = toDev s ((List.range 4).foldl (fun y t => y.setRf (pdHold t) 31 1 0) { d0 with pdNow := none })) ∧
      (∀ dom, d.pdNow = none → dom ∈ domains → v.toNat &&& 0x00FF_010F = 2 ^ domBit dom → d.rbit pdSts (domBit dom) = true →
        exec (e m v) s = toDev s (if d0.pdRefused dom then (d0.setRf pdCtl (domBit dom) 1 0).setRf pdSts 30 1 1
          else { d0.holdDomain dom with pdNow := some dom })) ∧
      (∀ dom other, d.pdNow = some dom → dom ∈ domains → other ∈ domains → other ≠ dom →
        v.toNat &&& 0x00FF_010F = 2 ^ domBit dom + 2 ^ domBit other → d.rbit pdSts (domBit other) = true →
        exec (e m v) s = toDev s (if d0.pdRefused other then (d0.setRf pdCtl (domBit other) 1 0).setRf pdSts 30 1 1 else d0)))) ∧
  (∀ (fz : Fuses) (d : Dev), ∃ r i v, pageOf (PageT.first .power) = some (r, i) ∧ d.readReg fz r i (PageT.first .power) 0x104 = some v ∧
      (v.getLsbD 31 = true ↔ d.pdNow.isSome = true ∨ (∃ t, t < 4 ∧ d.rbit pdCtl t = d.rbit pdSts t) ∨
        (d.intlv = false ∧ d.rbit pdCtl 8 = d.rbit pdSts 8) ∨ (d.intlv = true ∧ ∃ l, l < 8 ∧ d.rbit pdCtl (16 + l) = d.rbit pdSts (16 + l))) ∧
      ∀ j, j < 31 → v.getLsbD j = d.rbit pdSts j) ∧
  (∀ (s : State) (t : Fin 4),
    let d := s.dev
    (d.pdNow = some t.val → d.allReleased = true →
      (∀ dom ∈ domains, dom ≠ t.val → (d.rbit pdCtl (domBit dom) && d.rbit pdSts (domBit dom)) = false) →
      ∃ w, exec (.domainOff (BitVec.ofNat 8 t.val)) s = toDev s w ∧ w.pdNow = none ∧ w.rbit pdSts t.val = false ∧
        (∀ c, w.core c = if c / 64 = t.val then Core.atReset else d.core c) ∧
        ∀ a x, tierOf a = some x → w.byte a = if x.thallusNo = some t.val then 0 else d.byte a) ∧
    (d.rbit pdCtl t.val = false → d.rbit pdSts t.val = false → d.mode ∈ [Mode.standby, .run, .degraded, .drain, .survey] →
      ∃ w, exec (.domainOn (BitVec.ofNat 8 t.val)) s = toDev s w ∧
        w = { (d.resetPages (fun p i => pageThallus p i == some t.val)).setRf pdSts t.val 1 1 with cores := w.cores } ∧
        ∀ c, w.core c = if c / 64 = t.val then { d.core c with refillDue := true } else d.core c)) ∧
  (∀ (s : State) (dom : Nat), dom = domDs ∨ (∃ l, l < 8 ∧ dom = domLayer l) → s.dev.rbit pdCtl (domBit dom) = false →
    s.dev.rbit pdSts (domBit dom) = false → s.dev.mode ∈ [Mode.standby, .run, .degraded, .drain, .survey] →
    exec (.domainOn (BitVec.ofNat 8 dom)) s = toDev s (if s.dev.baseMode = .standby then s.dev.setRf dsSts 30 1 1 else s.dev)) ∧
  (∀ (s : State) (m : RegMaster) (f : Fin 32), s.dev.writable m (PageT.first .power) 0x108 = true →
    let d := s.dev
    let on := d.reg frFence ||| BitVec.ofNat 32 (2 ^ f.val)
    let off := d.reg frFence &&& ~~~(BitVec.ofNat 32 (2 ^ f.val))
    (d.rbit frFence f.val = false → exec (.frfenceWrite m on) s = toDev s ((d.setReg frFence on).fenceFrond f.val)) ∧
    (d.rbit frFence f.val = true → d.rbit (rk .power 0 0x10C) f.val = true →
      ∃ w, exec (.frfenceWrite m off) s = toDev s w ∧ w.reg frFence = off ∧ w.rbit (rk .power 0 0x10C) f.val = false ∧
        (∀ c, c / 8 ≠ f.val ∨ d.makesItems = false ∨ (d.core c).pool = true → w.core c = d.core c) ∧
        ∀ c, c / 8 = f.val → d.makesItems = true → (d.core c).pool = false →
          (w.core c).pool = ({ d with regs := SMap.put d.regs frFence off }).fitForPool c)) ∧
  (∀ (s : State) (f : Fin 32), s.dev.rbit frFence f.val = true → s.dev.queuesOn f.val = [] →
    s.dev.itemsWhere (fun x => x.outstanding && x.frond == f.val) = [] →
    ∃ w, exec (.frondFenceComplete f) s = toDev s w ∧ w.rbit (rk .power 0 0x10C) f.val = true ∧ w.mode = s.dev.mode ∧
      ∀ c, w.core c = if c / 8 = f.val then { s.dev.core c with pool := false } else s.dev.core c)

/-! ### The deep store -/

/-- The deep store's own work (09 R224, R229, R230): the scrubber counts and captures an uncorrectable word (its MASTER a free value), marks a
corrected one until it is written back, each word on its own; a temperature above 85 °C doubles the refresh, below 82 °C ends that, and in STANDBY a
change of more than 25 °C since training trains again; a recalibration changes nothing; training takes LFAIL and TTRAIN, and READY by the mode and
the power: it stays as it is in STANDBY, SURVEY and SAFE, where in STANDBY a transition to RUN that waited for the training is made, or refused when
a layer failed with INTLV 0 (R231); TRAIN is for STANDBY, and a write of DS_CTL while READY is 1 sets CFGERR (R227). -/
def Obligations.DeepStore : Prop :=
  (∀ (s : State) (addr : Nat) (t : Tier) (k : Nat),
    let d := s.dev
    let w := addr / 8 * 8
    let later := if d.scrub.contains w then d.scrub else d.scrub ++ [w]
    tierOf w = some t → t.eccPage = some k → d.mode ≠ .datum → (t.thallusNo.elim d.dsReady d.thOn) = true →
    (d.uncorr.contains w = false → d.corr.contains w = false → exec (.scrubRead addr 0) s = toDev s d) ∧
    (d.uncorr.contains w = false → (d.corr.contains w = true → exec (.scrubRead addr 0) s = toDev s (({ d with scrub := later }).eccCorr t)) ∧
      (d.corr.contains w = false → exec (.scrubRead addr 1) s = toDev s (({ d with corr := d.corr ++ [w], scrub := later }).eccCorr t))) ∧
    (let y : Dev := { d with uncorr := if d.uncorr.contains w then d.uncorr else d.uncorr ++ [w], corr := d.corr.filter (· != w), free := d.free + 1 }
     exec (.scrubRead addr 2) s = toDev s (y.eccUncorr t 2 ((Config.freeValue d.free).toNat % 4096) w))) ∧
  (∀ (s : State) (addr : Nat), s.dev.scrub.contains (addr / 8 * 8) = true →
    exec (.scrubWriteback addr) s = toDev s { s.dev with corr := s.dev.corr.filter (· != addr / 8 * 8), scrub := s.dev.scrub.filter (· != addr / 8 * 8) }) ∧
  (∀ (s : State) (l : Fin 8) (temp : Byte), s.dev.mode ≠ .datum →
    let d := s.dev
    ∃ w, exec (.dsTempRead l temp) s = toDev s w ∧ d.onlyRegs w [dsTemp l.val, dsSts] ∧ w.rf (dsTemp l.val) 8 8 = temp.toNat ∧
      w.rf (dsTemp l.val) 0 8 = d.rf (dsTemp l.val) 0 8 ∧
      w.rbit dsSts (8 + l.val) = (if temp.toInt > 85 then true else if temp.toInt < 82 then false else d.rbit dsSts (8 + l.val)) ∧
      w.rbit dsSts 30 = (d.rbit dsSts 30 || (d.mode == .standby &&
        decide ((temp.toInt - (BitVec.ofNat 8 (d.rf (dsTemp l.val) 0 8)).toInt).natAbs > 25)))) ∧
  (∀ s : State, exec .dsRecalibration s = toDev s s.dev) ∧
  (∀ (s : State) (m : RegMaster), s.dev.writable m (PageT.first .dstore) 0x110 = true →
    let d := s.dev
    ∃ w, exec (.dsTrain m) s = toDev s w ∧ w.intlv = d.intlv ∧
      (d.mode = .standby → w.rbit dsSts 30 = true ∧ (d.dsReady = false → d.onlyRegs w [dsSts])) ∧
      (d.mode ≠ .standby → w.rbit (PageT.first .dstore * 4096 + 0xC) 31 = true ∧ w.reg dsSts = d.reg dsSts) ∧
      (d.dsReady = true → w.rbit (PageT.first .dstore * 4096 + 0xC) 31 = true)) ∧
  (∀ (s : State) (lfail : BitVec 8), s.dev.rbit dsSts 30 = true → s.dev.mode ∈ [Mode.crozier, .run, .degraded, .drain] →
    let d := s.dev
    ∃ w, exec (.dsTrainingDone lfail) s = toDev s w ∧ d.onlyRegs w (dsSts :: pdSts :: (List.range 8).map dsTemp) ∧ w.rbit dsSts 30 = false ∧
      w.rf dsSts 16 8 = lfail.toNat ∧ w.rbit dsSts 31 = ((lfail == 0 || d.intlv) && w.dsPowered) ∧
      (∀ l, l < 8 → w.rf (dsTemp l) 0 8 = d.rf (dsTemp l) 8 8 ∧
        w.rbit pdSts (16 + l) = (d.rbit pdSts (16 + l) || !d.rbit pdCtl (16 + l))) ∧
      w.rbit pdSts 8 = (d.rbit pdSts 8 || !d.rbit pdCtl 8)) ∧
  (∀ (s : State) (lfail : BitVec 8), s.dev.rbit dsSts 30 = true → s.dev.mode ∈ [Mode.standby, .survey, .safe] →
    let d := s.dev
    ∃ y, d.onlyRegs y (dsSts :: pdSts :: (List.range 8).map dsTemp) ∧ y.rbit dsSts 30 = false ∧ y.rf dsSts 16 8 = lfail.toNat ∧
      y.rbit dsSts 31 = d.rbit dsSts 31 ∧
      (∀ l, l < 8 → y.rf (dsTemp l) 0 8 = d.rf (dsTemp l) 8 8 ∧
        y.rbit pdSts (16 + l) = (d.rbit pdSts (16 + l) || !d.rbit pdCtl (16 + l))) ∧
      y.rbit pdSts 8 = (d.rbit pdSts 8 || !d.rbit pdCtl 8) ∧
      (d.mode ≠ .standby ∨ d.rbit modeSts 20 = false → exec (.dsTrainingDone lfail) s = toDev s y) ∧
      (d.mode = .standby → d.rbit modeSts 20 = true → lfail ≠ 0 → d.intlv = false →
        exec (.dsTrainingDone lfail) s = toDev s (y.setRf modeSts 20 1 0).refuseMode) ∧
      (d.mode = .standby → d.rbit modeSts 20 = true → lfail = 0 ∨ d.intlv = true →
        exec (.dsTrainingDone lfail) s = toDev s y.enterRun)) ∧
  (∀ (s : State) (lfail : BitVec 8), s.dev.rbit dsSts 30 = false ∨ s.dev.mode = .datum → exec (.dsTrainingDone lfail) s = toDev s s.dev)

/-! ### Cairn -/

/-- The journal's consume offsets, checkpoint sets and stream (09 R253 to R257, 12 R332): a valid CH_CONS is taken and frees a FULL chain with room; a
set counts MCOUNT, names its chains and waits for its signature, or sets CKFULL; the signed set is written to its ring; a record read back passes
CH_CONS; a stream read not completed stops the stream with CTO. A sealed entry (09 R248, R250, R252): its record holds the header, the text padded
to 64 bytes and the trailer with H = SHA-256(H before ‖ header); SEQ advances and the chain keeps the new H; the record is
read back before it counts as sealed; a failed write or read-back ends the chain with CERR, and every item of that chain still outstanding is lost
with it (10 R282; log entry 72: a failed read-back). (When a stopped stream runs again: log entry 40.) -/
def Obligations.CairnCommands : Prop :=
  (∀ (s : State) (m : RegMaster) (c : Fin 64) (v : W32), s.dev.writable m (PageT.first .cairnCh + c.val / 32) (0x110 + 32 * (c.val % 32)) = true →
    let d := s.dev
    let ok := v.toNat < d.chSize c.val ∧
      (v.toNat + d.chSize c.val - d.chCons c.val) % d.chSize c.val ≤ (d.chWr c.val + d.chSize c.val - d.chCons c.val) % d.chSize c.val
    (d.chStream c.val = true → exec (.chConsWrite m c v) s = toDev s d) ∧
    (d.chStream c.val = false → ok → ∃ w, exec (.chConsWrite m c v) s = toDev s w ∧ d.onlyRegs w [chKey c.val 0x10, chKey c.val 0x1C] ∧
      w.chCons c.val = v.toNat ∧
      (d.chState c.val = 2 → w.chState c.val =
        if d.resv c.val + 65536 ≤ ringFree (d.chSize c.val) (d.chWr c.val) v.toNat then 1 else 2)) ∧
    (d.chStream c.val = false → ¬ok → exec (.chConsWrite m c v) s = toDev s (d.cfgErr (PageT.first .cairnCh + c.val / 32)))) ∧
  (∀ (s : State) (m : RegMaster), s.dev.writable m (PageT.first .cairn) 0x100 = true →
    ∃ w, exec (.ckNow m) s = toDev s w ∧ (∀ k, w.reg k = s.dev.reg k) ∧
      ∀ c, (w.chain c).want = ((s.dev.chain c).want || (decide (c < 64) && s.dev.chState c != 0))) ∧
  (∀ s : State,
    let d := s.dev
    let cs := d.ckDue
    let room := ringNeed d.ckSize (d.reg (caKey 0x118)).toNat (64 + 64 * cs.length + 17088) <
      ringFree d.ckSize (d.reg (caKey 0x118)).toNat (d.reg (caKey 0x11C)).toNat
    d.mode ≠ .drain →
    (d.cairn.ckpt ≠ none ∨ cs = [] ∨ d.ckSize = 0 ∨ (∃ t, d.cairn.ckLast = some t ∧ d.mer < t + 40_000_000) → exec .checkpointSet s = toDev s d) ∧
    (d.cairn.ckpt = none → cs ≠ [] → d.ckSize ≠ 0 → (∀ t, d.cairn.ckLast = some t → t + 40_000_000 ≤ d.mer) →
      (¬room → exec .checkpointSet s = toDev s (d.setRf (caKey 0x104) 31 1 1)) ∧
      (room → ∃ w, exec .checkpointSet s = toDev s w ∧ w.mcount = (d.mcount + 1) % 2 ^ 64 ∧ w.cairn.ckLast = some d.mer ∧
        w.cairn.ckpt = some (ckHeader d cs.length false (d.mcount + 1) ++ cs.flatMap (ckItem d)) ∧
        ∀ c ∈ cs, (w.chain c).fresh = false ∧ (w.chain c).want = false ∧ (w.chain c).lastCk = d.mer))) ∧
  (∀ (s : State) (body : List Byte), s.dev.mode ≠ .drain → s.dev.cairn.ckpt = some body →
    let d := s.dev
    let bs := body ++ idSign body
    let r := ({ d with cairn := { d.cairn with ckpt := none } }).ringWrite (d.rf (caKey 0x110) 0 22 * 4096) d.ckSize (d.reg (caKey 0x118)).toNat bs
    (r.2 = none → exec .checkpointSigned s = toDev s r.1) ∧
    (∀ wr, r.2 = some wr →
      let y := (r.1.setReg (caKey 0x118) (BitVec.ofNat 32 wr)).incRf (caKey 0x104) 0 16 1
      exec .checkpointSigned s = toDev s (if y.rbit (caKey 0x100) 1 then y.streamOut none bs else y))) ∧
  (∀ (s : State) (r : SRec) (t : List SRec), s.dev.cairn.stream = r :: t → r.written = true → s.dev.cairn.streamStop = false →
    let d := s.dev
    let d1 : Dev := { d with cairn := { d.cairn with stream := t } }
    (d.mode ≠ .drain → ∀ c v, r.chain = some (c, v) → exec .streamReadback s = toDev s (d1.setCons c v).pump) ∧
    (d.mode ≠ .drain → r.chain = none → exec .streamReadback s = toDev s d1.pump) ∧
    (d.hsSize ≠ 0 → ∃ w, exec .streamTimeout s = toDev s w ∧ w.rbit (pcKey 0x10C) 30 = true ∧ w.cairn.streamStop = true ∧
      (∀ x ∈ w.cairn.stream, x.written = false) ∧ w.cairn.stream.map SRec.bytes = d.cairn.stream.map SRec.bytes)) ∧
  (∀ (d : Dev) (n : Nat) (x : Item), d.chState x.chain = 0 ∨ x.jlost = true → d.sealItem n x = d.failItem n 1) ∧
  (∀ (d : Dev) (c n : Nat) (x : Item), d.item? n = some x → n < d.nextItem → x.jen = true → x.chain = c →
    x.phase ∈ [Phase.admitted, .ready, .handed, .running] → (d.chainFault c).item? n = some { x with jlost := true }) ∧
  (∀ (d : Dev) (n : Nat) (x : Item), x.chain < 64 → d.chState x.chain ≠ 0 → x.jlost = false →
    let c := x.chain
    let seq := d.chSeq c + 1
    let j := entryHeader 0x4A45 c d.pos x.q x.jtext.length seq x.tin d.mer (sha256 x.jtext)
    let h := sha256 ((d.chain c).h ++ j)
    let len := (entryRecord j x.jtext h seq).length
    let r := d.ringWrite (d.chBase c) (d.chSize c) (d.chWr c) (entryRecord j x.jtext h seq)
    let back (wr : Nat) := r.1.fabRead cairnReq (d.chBase c + (if wr = 0 then d.chSize c else wr) - len) len
    (r.2 = none → d.sealItem n x = r.1.chainFault c) ∧
    (∀ wr z e, r.2 = some wr → back wr = (z, .error e) → d.sealItem n x = z.chainFault c) ∧
    (∀ wr z bs, r.2 = some wr → back wr = (z, .ok bs) → wr < 2 ^ 32 → x.rep = 0 → d.rbit (chKey c 0) 30 = false → d.item? n = some x → x.done.getLsbD 63 = true → x.src = .post none →
      ((d.sealItem n x).chain c).h = h ∧ (d.sealItem n x).chSeq c = seq % 2 ^ 64 ∧ (d.sealItem n x).chWr c = wr ∧ (d.sealItem n x).item? n = none) ∧
    (entryRecord j x.jtext h seq).length = 128 + (x.jtext.length + 63) / 64 * 64)

/-! ### Protection -/

/-- The protection pages. Storage keys (10 R277, R279): SK_DATA writes the key byte of the frame SK_ADDR names, and steps it with AUTOINC; SK_FILL
starts a fill of a range inside one memory, whose end clears SK_STS; a reserved scope, an address outside memory or a fill under way refuse the
write, whose legal other fields are taken all the same (11 R294). Gate windows (10 R283, R284): a window is enabled only inside its memory and apart from the other enabled windows, its range changes only
while it is disabled; GATE_CFGST tells which rule refused a write, 0 a write that was made. GL_TAIL and HL_TAIL (10 R287, 13 R369): a tail moves
up to the head and no further. A word of a block-register image (10 R275): the image becomes pending with the register's other words. -/
def Obligations.ProtectionPages : Prop :=
  (∀ (s : State) (m : RegMaster) (v : W32), s.dev.writable m (PageT.first .skey) 0x10C = true →
    let d := s.dev
    let a := d.skAddr
    let ok := d.fill = none ∧ fld v 2 2 ≠ 3 ∧ (tierOf a).isSome = true
    (ok → ∃ w, exec (.skData m v) s = toDev s w ∧ w = { d with keys := w.keys, regs := w.regs } ∧
      (∀ b, w.keyByte b = if b / 4096 = a / 4096 then BitVec.ofNat 8 (v.toNat % 256) else d.keyByte b) ∧
      w.skAddr = (if d.rbit (skKey 0x100) 0 then (a + 4096) % 2 ^ 40 else a)) ∧
    (¬ok → exec (.skData m v) s = toDev s (d.cfgErr (PageT.first .skey)))) ∧
  (∀ (s : State) (m : RegMaster) (v : W32) (x y : Tier), s.dev.writable m (PageT.first .skey) 0x110 = true →
    let d := s.dev
    let n := fld v 0 22 + 1
    d.fill = none → fld v 24 2 ≠ 3 → bit v 31 = true → tierOf d.skAddr = some x → tierOf (d.skAddr + 4096 * (n - 1)) = some y → x.region = y.region →
    ∃ w, exec (.skFill m v 0) s = toDev s w ∧ w.fill = some ⟨d.skAddr / 4096, n, BitVec.ofNat 8 (fld v 22 8)⟩ ∧ w.rbit (skKey 0x114) 31 = true ∧
      w.keys = d.keys) ∧
  (∀ (s : State) (m : RegMaster) (v : W32), s.dev.writable m (PageT.first .skey) 0x110 = true →
    let d := s.dev
    let n := fld v 0 22 + 1
    let outside := (tierOf d.skAddr).map Tier.region ≠ (tierOf (d.skAddr + 4096 * (n - 1))).map Tier.region ∨ tierOf d.skAddr = none
    (d.fill ≠ none → exec (.skFill m v 0) s = toDev s (d.cfgErr (PageT.first .skey))) ∧
    (d.fill = none → fld v 24 2 = 3 → exec (.skFill m v 0) s = toDev s ((d.setRf (skKey 0x110) 0 22 (fld v 0 22)).cfgErr (PageT.first .skey))) ∧
    (d.fill = none → fld v 24 2 ≠ 3 → bit v 31 = true → outside →
      exec (.skFill m v 0) s = toDev s ((d.setReg (skKey 0x110) (BitVec.ofNat 32 (fld v 0 30))).cfgErr (PageT.first .skey)))) ∧
  (∀ (s : State) (f : Fill), s.dev.fill = some f →
    ∃ w, exec .skFillDone s = toDev s w ∧ w.fill = none ∧ w.reg (skKey 0x114) = 0 ∧
      ∀ b, w.keyByte b = if f.next ≤ b / 4096 ∧ b / 4096 < f.next + f.left then f.value else s.dev.keyByte b) ∧
  (∀ (s : State) (m : RegMaster) (g : Fin 549) (w : Fin 16) (v : W32), s.dev.writable m (PageT.first .gate + g.val) (0x100 + 16 * w.val) = true →
    let d := s.dev
    let k := gateKey g.val (0x100 + 16 * w.val)
    let b := d.rf (gateKey g.val (0x104 + 16 * w.val)) 0 22
    let e := b + d.rf (gateKey g.val (0x108 + 16 * w.val)) 0 22 + 1
    let rises := bit v 31 = true ∧ d.rbit k 31 = false
    let clash := ∃ o, o < 16 ∧ o ≠ w.val ∧ d.rbit (gateKey g.val (0x100 + 16 * o)) 31 = true ∧
      d.rf (gateKey g.val (0x104 + 16 * o)) 0 22 < e ∧ b < d.rf (gateKey g.val (0x104 + 16 * o)) 0 22 + d.rf (gateKey g.val (0x108 + 16 * o)) 0 22 + 1
    (rises → gateFrames g.val < e → exec (.gwCtlWrite m g w v) s = toDev s (d.gateRefused g.val w.val 2)) ∧
    (rises → e ≤ gateFrames g.val → clash → exec (.gwCtlWrite m g w v) s = toDev s (d.gateRefused g.val w.val 1)) ∧
    (¬rises ∨ (e ≤ gateFrames g.val ∧ ¬clash) →
      exec (.gwCtlWrite m g w v) s =
        toDev s ((d.setReg k (v &&& 0xC07F003F)).setReg (gateKey g.val 0x200) (BitVec.ofNat 32 (w.val * 256))))) ∧
  (∀ (s : State) (m : RegMaster) (g : Fin 549) (w : Fin 16) (size : Bool) (v : W32),
    s.dev.writable m (PageT.first .gate + g.val) ((if size then 0x108 else 0x104) + 16 * w.val) = true →
    let d := s.dev
    (d.rbit (gateKey g.val (0x100 + 16 * w.val)) 31 = true → exec (.gwRangeWrite m g w size v) s = toDev s (d.gateRefused g.val w.val 3)) ∧
    (d.rbit (gateKey g.val (0x100 + 16 * w.val)) 31 = false →
      exec (.gwRangeWrite m g w size v) s = toDev s ((d.setReg (gateKey g.val ((if size then 0x108 else 0x104) + 16 * w.val)) (v &&& 0x3FFFFF)).setReg
        (gateKey g.val 0x200) (BitVec.ofNat 32 (w.val * 256))))) ∧
  (∀ (d : Dev) (g w st : Nat), w < 16 → st < 4 → g < 549 →
    (d.gateRefused g w st).reg (gateKey g 0x200) = BitVec.ofNat 32 (w * 256 + st) ∧
    ∀ o, o < 64 → (d.gateRefused g w st).reg (gateKey g (0x100 + 4 * o)) = d.reg (gateKey g (0x100 + 4 * o))) ∧
  (∀ e ∈ [((fun (m : RegMaster) (v : W32) => Instr.glTailWrite m v), PageT.gatelog, 0x504, 0x500), ((fun m v => .hlTailWrite m v), .health, 0x604, 0x600)],
    ∀ (s : State) (m : RegMaster) (v : W32), s.dev.writable m (PageT.first e.2.1) e.2.2.1 = true →
    let d := s.dev
    let t := d.rf (rk e.2.1 0 e.2.2.1) 0 16
    let h := d.rf (rk e.2.1 0 e.2.2.2) 0 16
    let n := v.toNat % 65536
    exec (e.1 m v) s = toDev s (if (n + 65536 - t) % 65536 ≤ (h + 65536 - t) % 65536 then d.setRf (rk e.2.1 0 e.2.2.1) 0 16 n
      else d.cfgErr (PageT.first e.2.1))) ∧
  (∀ (s : State) (m : RegMaster) (c : CoreId) (n : Fin 16) (j : Fin 5) (v : W32),
    s.dev.writable m (PageT.first .coreProt + c.val) (0x200 + 32 * n.val + 4 * j.val) = true →
    let d := s.dev
    let k := rk .coreProt c.val (0x200 + 32 * n.val)
    ∃ w, exec (.brImageWrite m c n j v) s = toDev s w ∧ (w.core c.val).brImage.contains n.val = true ∧ (w.core c.val).br = (d.core c.val).br ∧
      w.reg (k + 4 * j.val) = (if j.val = 4 then v &&& 0x800000FF else v) ∧
      ∀ i, i < 5 → i ≠ j.val → w.reg (k + 4 * i) = if (d.core c.val).brImage.contains n.val then d.reg (k + 4 * i) else (brWords (d.core c.val) n.val).getD i 0)

/-! ### The control store -/

/-- Patch loads (07 R179 to R186): with a core not held the load is refused with status 0x0B, an image outside the stores with 0x0C, one that fails a
check with the check's status; one that passes every check waits for its commit, which fills every held core's control store and shows its level and
measurement. The loader refills a held core after its reset, and a live device lets it run again, its pending block-register images installed (10
R275); where the master copy fails its parity the status is 0x0D and the ladder goes on with the step above (07 R185, 13 R366). The sequencer (07 R161
to R166, R170, R172, R178): a micro-address outside the control store is a machine check; a match register that holds a ROM address puts its patch RAM
word in the place of the ROM's; a word of wrong parity and an illegal word are machine checks; BRANCH and CALL go where TGT and the four conditions
say, the micro-return stack holds 4. An instruction with an enabled match on its ROM path runs word by word from its ROM entry, a microword a cycle,
until it retires or the watchdog runs out. (Log entry 60: what the ROM holds and where an instruction enters it is the implementation's, and which
instructions a patch reaches.) -/
def Obligations.PatchLoads : Prop :=
  (∀ (s : State) (m : RegMaster), s.dev.writable m (PageT.first .ucBcast) 0x100 = true → s.dev.rbit (ucKey 0x104) 31 = false →
    let d := s.dev
    (∀ c, c < 256 → d.coreHeld false c = false → exec (.ucLoadStart m) s = toDev s (d.endLoad 0x0B)) ∧
    ((∀ c, c < 256 → d.coreHeld false c = true) →
      (d.ucLen < 0x60 → exec (.ucLoadStart m) s = toDev s (d.endLoad 0x0C)) ∧
      ((∀ t u, tierOf d.ucImg = some (.thallus t) → tierOf (d.ucImg + d.ucLen - 1) ≠ some (.thallus u)) →
        (tierOf d.ucImg = some .deep → tierOf (d.ucImg + d.ucLen - 1) ≠ some .deep) → exec (.ucLoadStart m) s = toDev s (d.endLoad 0x0C)) ∧
      ((d.rangeFault d.ucImg d.ucLen).isSome = true → exec (.ucLoadStart m) s = toDev s (d.endLoad 0x0C)) ∧
      (∀ d1 im, d.readImage false = (d1, .ok im) →
        (∀ st, headerStatus im = some st → exec (.ucLoadStart m) s = toDev s (d1.endLoad st)) ∧
        (∀ st, headerStatus im = none → bodyStatus s.fuse.rollback im = .error st → exec (.ucLoadStart m) s = toDev s (d1.endLoad st)) ∧
        (∀ l, headerStatus im = none → bodyStatus s.fuse.rollback im = .ok l →
          exec (.ucLoadStart m) s = toDev s { (d1.setRf (ucKey 0x104) 31 1 1).setRf (ucKey 0x104) 24 4 4 with load := some l })))) ∧
  (∀ (s : State) (p : Patch) (meas : List Byte), s.dev.load = some (p, meas) →
    ∃ w, exec .patchCommit s = toDev s w ∧ w.patch = some p ∧ w.load = none ∧ w.reg (ucKey 0x114) = BitVec.ofNat 32 (2 ^ 31 + p.level) ∧
      (∀ i, i < 8 → w.reg (ucKey 0x120 + 4 * i) = be32 meas i) ∧ w.rbit (ucKey 0x104) 31 = false ∧ w.rf (ucKey 0x104) 0 8 = 0 ∧
      ∀ c, c < 256 → w.core c = if s.dev.coreHeld false c then (s.dev.core c).fillPatch p else s.dev.core c) ∧
  (∀ (s : State) (c : CoreId), (s.dev.core c.val).run = .held → (s.dev.core c.val).pool = false → (s.dev.core c.val).resetDue = false →
    s.dev.thOn (thallusOf c.val) = true → s.dev.mode ≠ .datum →
    let d := s.dev
    let d1 (st : Nat) := ((d.setRf (ucKey 0x104) 8 16 c.val).modCore c.val (fun y => { y with refillDue := decide (st ≠ 0) })).setRf (ucKey 0x104) 0 8 st
    (∀ p, d.patch = some p → exec (.patchRefill c true) s = toDev s (((d1 0).modCore c.val (fun y => y.fillPatch p)).returnCore c.val)) ∧
    (∀ ok, d.patch = none → exec (.patchRefill c ok) s = toDev s (((d1 0).modCore c.val (fun y => { y with patchLevel := 0 })).returnCore c.val)) ∧
    (∀ p, d.patch = some p → ∃ y : Dev, exec (.patchRefill c false) s = toDev s (y.unitFailed c.val 0x14) ∧ y.rf (ucKey 0x104) 0 8 = 0x0D ∧
      y = { d1 0x0D with cores := y.cores } ∧ ∀ e, y.core e = (d1 0x0D).core e)) ∧
  (∀ (d : Dev) (c : Nat),
    let w := d.returnCore c
    (d.mode ∉ [Mode.run, .degraded, .drain] ∨ d.rbit frFence (frondOf c) = true → w = d) ∧
    (d.mode ∈ [Mode.run, .degraded, .drain] → d.rbit frFence (frondOf c) = false → (w.core c).run = .running ∧ (w.core c).pool = true ∧
      (w.core c).returning = d.outUnits.any (fun u => unitHas u c) ∧ (w.core c).brImage = [] ∧ (w.core c).patchRam = (d.core c).patchRam ∧ (∀ e, e ≠ c → w.core e = d.core e) ∧
      w.mem = d.mem)) ∧
  (∀ (x : Core) (u : BitVec 14),
    let on (n : Nat) : Prop := bit (SMap.get 0 x.matchReg n) 31 = true ∧ fld (SMap.get 0 x.matchReg n) 18 13 = u.toNat
    (0x2200 ≤ u.toNat → microFetch x u = none) ∧
    (0x2000 ≤ u.toNat → u.toNat < 0x2200 → microFetch x u = some (SMap.get 0 x.patchRam (u.toNat - 0x2000))) ∧
    (u.toNat < 0x2000 → (∀ n, n < 32 → ¬on n) → microFetch x u = some (romWord u)) ∧
    (∀ n, u.toNat < 0x2000 → n < 32 → on n → (∀ k, k < n → ¬on k) →
      microFetch x u = some (SMap.get 0 x.patchRam (fld (SMap.get 0 x.matchReg n) 9 9)))) ∧
  (∀ (d : Dev) (c mode u : Nat),
    let x := d.core c
    let p := x.microPlace u
    let w := x.microRead p
    (0x2200 ≤ u → (microStep d c mode u).1 = .check 7 0 u none) ∧
    (∀ n, u < 0x2200 → x.matchFail = some n → (microStep d c mode u).1 = .check 5 n p (some w)) ∧
    (u < 0x2200 → x.matchFail = none → microParity w.toNat ≠ fld w 32 4 →
      (microStep d c mode u).1 = .check (if p < 0x2000 then 3 else 4) 0 p (some w)) ∧
    (u < 0x2200 → x.matchFail = none → microParity w.toNat = fld w 32 4 → illegalMicro w = true → (microStep d c mode u).1 = .check 7 0 p (some w)) ∧
    (u < 0x2200 → x.matchFail = none → microParity w.toNat = fld w 32 4 → illegalMicro w = false →
      microStep d c mode u = microAct (d.modCore c Core.microCycle) c p mode w)) ∧
  (∀ (d : Dev) (c p : Nat) (w : BitVec 36),
    let st := (d.core c).micro.stack
    let put (l : List (BitVec 14)) : Dev := d.modCore c (fun y => { y with micro := { y.micro with stack := l } })
    (fld w 26 3 = 0 → microSeq d c p w = (.go (branchTo d c w), d)) ∧
    (fld w 26 3 = 1 → 4 ≤ st.length → microSeq d c p w = (.check 7 0 p (some w), d)) ∧
    (fld w 26 3 = 1 → st.length < 4 → microSeq d c p w = (.go (branchTo d c w), put (BitVec.ofNat 14 (p + 1) :: st))) ∧
    (fld w 26 3 = 2 → st = [] → microSeq d c p w = (.check 7 0 p (some w), d)) ∧
    (∀ u t, fld w 26 3 = 2 → st = u :: t → microSeq d c p w = (.go u.toNat, put t)) ∧
    (fld w 26 3 = 3 → microSeq d c p w = (.retire, d)) ∧ (fld w 26 3 = 4 → microSeq d c p w = (.point p (fld w 16 10 * 16), d)) ∧
    (fld w 26 3 = 5 → microSeq d c p w = (.raised (fld w 16 5) (fld w 8 8) p w, d)) ∧
    branchTo d c w / 16 = fld w 16 10 ∧ (branchTo d c w).testBit 3 = microCond d c (fld w 12 4) ∧
    (branchTo d c w).testBit 2 = microCond d c (fld w 8 4) ∧ (branchTo d c w).testBit 1 = microCond d c (fld w 4 4) ∧
    (branchTo d c w).testBit 0 = microCond d c (fld w 0 4)) ∧
  (∀ e ∈ rrRows ++ riRows ++ accRows, ∀ (s : State) (c : CoreId) (i : Dec), s.dev.executes c.val = true → asyncDue s.dev c.val = none →
    decodeNext s.dev c.val = .ok i → i.op = e.op → (s.dev.core c.val).micro.next = none →
    let d := s.dev.goesOn c.val
    let u := (Config.romEntry e.op).toNat
    ((s.dev.core c.val).matchFail = none → (s.dev.core c.val).patched e.op = true →
      exec (e.cmd c) s = ranTo s c.val (microRun c.val i (microRetire c.val i) 8192 0 u (d.microStart c.val i))) ∧
    (∀ n, (s.dev.core c.val).matchFail = some n →
      exec (e.cmd c) s = ranTo s c.val (machineCheck c.val 5 n 0 (placeRead d c.val u) (wordRead d c.val u) d))) ∧
  (∀ (x : Core) (o : Op), x.patched o = true ↔
    ∃ e ∈ x.matchReg, bit e.2 31 = true ∧ romWordOf o (BitVec.ofNat 13 (fld e.2 18 13)) = true) ∧
  (∀ (c : Nat) (i : Dec) (fin : Dev → Dev) (n points u : Nat) (d z : Dev),
    let x := d.core c
    let step := microStep d c (roundMode x i.rnd) u
    (4096 ≤ x.wdog + x.spent → microRun c i fin (n + 1) points u d = machineCheck c 6 0 0 (placeRead d c u) (wordRead d c u) d) ∧
    (x.wdog + x.spent < 4096 →
      (∀ v, step = (.go v, z) → microRun c i fin (n + 1) points u d = microRun c i fin n points v z) ∧
      (∀ sub mreg p w, step = (.check sub mreg p (some w), z) →
        microRun c i fin (n + 1) points u d = machineCheck c sub mreg 0 (BitVec.ofNat 14 p) w z) ∧
      (∀ code sub p w, step = (.raised code sub p w, z) → opidOf i.op = none → (z.core c).micro.failed = none →
        microRun c i fin (n + 1) points u d =
          if code = 16 then machineCheck c sub 0 0 (BitVec.ofNat 14 p) w z
          else if (z.core c).inBF then machineCheck c 1 0 code (BitVec.ofNat 14 p) w z else enterTrap c code 0 sub 0 0 z) ∧
      (step = (.retire, z) → microRun c i fin (n + 1) points u d = fin z))) ∧
  (∀ (c : Nat) (i : Dec) (z : Dev), opidOf i.op = none → (∀ e ∈ (z.core c).microSteps i, e = none) → setsDsticky i.op = false → setsFlags i.op = false →
    (z.core c).micro.delay = none →
    microRetire c i z = retire c i.n { pc := if (z.core c).micro.pcSet then some (z.core c).cb.pc.toNat else none } { z with free := z.free + 1 })

/-! ### Modes -/

/-- MODE_REQ (13 R340 to R346, R360, R362): each request is made from the modes that Table 13.1 gives it, and refused with REJ and CFGERR
elsewhere, RUN asked in DRAIN after a chain has closed among them, and RUN with a link failed and
INTLV 0, in training too; a change of mode records MODE, PREV and CAUSE. From DRAIN the device goes back
to DEGRADED while a unit is out by a fault (R339, R366). RUN waits for a training under way, and STANDBY begins one that a domain waits for (log
entry 59). DATUM resets all but the Datum domain and is refused
while records are unconsumed, unless DISCARD. (What DATUM leaves is the model's reading: log entries 2 and 36.) -/
def Obligations.ModeRequests : Prop :=
  (∀ (d : Dev) (m : Mode) (cause : Nat), cause < 256 →
    let w := d.toMode m cause
    w.mode = m ∧ w.rf modeSts 28 4 = m.code ∧ w.rf modeSts 24 4 = d.mode.code ∧ w.rf modeSts 8 8 = cause) ∧
  (∀ (s : State) (m : RegMaster), s.dev.writable m (PageT.first .mode) 0x104 = true →
    let d := s.dev
    (d.mode ∈ [Mode.run, .degraded] → d.inTransit = false → exec (.modeReqDrain m) s = toDev s (d.toMode .drain 0)) ∧
    (d.mode ∉ [Mode.run, .degraded] ∨ d.inTransit = true → exec (.modeReqDrain m) s = toDev s d.refuseMode) ∧
    (d.mode = .drain → d.drained = true → d.inTransit = false →
      let y := d.setRf dsSts 31 1 0
      exec (.modeReqStandby m) s = toDev s ((if y.dsWaits then y.setRf dsSts 30 1 1 else y).toMode .standby 0)) ∧
    (d.mode ≠ .drain ∨ d.drained = false ∨ d.inTransit = true → exec (.modeReqStandby m) s = toDev s d.refuseMode) ∧
    (d.mode = .standby → d.inTransit = false → d.rf dsSts 16 8 = 0 ∨ d.intlv = true → d.rbit dsSts 30 = true →
      exec (.modeReqRun m) s = toDev s (d.setRf modeSts 20 1 1)) ∧
    (d.mode = .standby → d.inTransit = false → d.rf dsSts 16 8 ≠ 0 → d.intlv = false → exec (.modeReqRun m) s = toDev s d.refuseMode) ∧
    (d.mode = .standby → d.inTransit = false → d.rbit dsSts 30 = false → d.trainBad = false →
      ∃ w, exec (.modeReqRun m) s = toDev s w ∧ (w.mode = .run ∨ w.mode = .degraded) ∧ w.drain = .none ∧ w.uk.left = false) ∧
    (d.mode = .drain → d.drain = .none → d.inTransit = false →
      exec (.modeReqRun m) s = toDev s (d.toMode (if d.faultOut then .degraded else .run) 0)) ∧
    (d.mode = .drain → d.drain ≠ .none → exec (.modeReqRun m) s = toDev s d.refuseMode) ∧
    (d.mode ∉ [Mode.standby, .drain] ∨ d.inTransit = true → exec (.modeReqRun m) s = toDev s d.refuseMode) ∧
    (∀ discard, d.mode = .standby ∨ (d.mode = .drain ∧ d.drained = true) → d.inTransit = false → discard = true ∨ d.unconsumed = false →
      ∃ w, exec (.modeReqDatum m discard) s = toDev s w ∧ w.mode = .datum ∧ w.mer = d.mer ∧ w.cores = [] ∧ w.items = [] ∧ w.mem = [] ∧
        w.pstore = [] ∧ w.reg modeSts = 0 ∧ (∀ k, inDatum k = false → k ≠ modeSts → w.reg k = resetOf k) ∧ w.board.climb = false) ∧
    (∀ discard, d.mode ∉ [Mode.standby, .drain] ∨ d.inTransit = true ∨ (d.mode = .drain ∧ d.drained = false) ∨
        (discard = false ∧ d.unconsumed = true) →
      exec (.modeReqDatum m discard) s = toDev s d.refuseMode))

/-- DRAIN (13 R360, R361): ATTN_N asks for it when it is enabled; with no item outstanding the chains close and the FINAL set begins, and with nothing
to journal or stream the device is DRAINED at once; a stream wait that runs out ends it with STREAMTO. Temperature (13 R348, R352): TMAX and its
sensor are the hottest sensor's, HOT by the threshold; the time above TSTEP is kept; at 115 °C a trip sets TRIP and enters SAFE. -/
def Obligations.DrainAndThermal : Prop :=
  (∀ s : State,
    let d := s.dev
    (d.rbit (rk .mode 0 0x108) 31 = true → d.mode ∈ [Mode.run, .degraded] → d.inTransit = false →
      exec .attnN s = toDev s (d.toMode .drain 1)) ∧
    (d.rbit (rk .mode 0 0x108) 31 = false ∨ d.mode ∉ [Mode.run, .degraded] → exec .attnN s = toDev s d) ∧
    (d.mode ≠ .drain ∨ d.drain ≠ .none ∨ d.outstanding ≠ 0 → exec .drainQuiesced s = toDev s d) ∧
    (d.mode = .drain → d.drain = .none → d.outstanding = 0 →
      exec .drainQuiesced s = toDev s ((((List.range 64).foldl Dev.drainChain { d with drain := .closing }).startCk true).goOn) ∧
      ((∀ c, c < 64 → d.chState c = 0 ∧ d.chStream c = false) → d.ckSize = 0 → d.rbit (caKey 0x100) 1 = false →
        ∃ w, exec .drainQuiesced s = toDev s w ∧ w.drain = .ended ∧ w.drained = true)) ∧
    (∀ till, d.drain = .streaming till → d.mode = .drain → till ≤ d.mer →
      exec .drainStreamTimeout s = toDev s (if d.streamed then d else d.setRf modeSts 22 1 1).endDrain ∧
      (if d.streamed then d else d.setRf modeSts 22 1 1).endDrain.drain = .ended ∧
      (if d.streamed then d else d.setRf modeSts 22 1 1).endDrain.drained = true)) ∧
  (∀ (ts : List Byte) (m : Int) (i : Nat), hottest ts 0 = some (m, i) → i < ts.length ∧ (ts.getD i 0).toInt = m ∧ ∀ t ∈ ts, t.toInt ≤ m) ∧
  (∀ (s : State) (temps : List Byte) (m : Int) (i : Nat), s.dev.mode ≠ .datum → hottest (temps.take 16) 0 = some (m, i) →
    let d := s.dev
    let step := d.rf (rk .clocks 0 0x104) 16 8
    ∃ w, exec (.thermalSensorRead temps) s = toDev s w ∧ (BitVec.ofNat 8 (w.rf thermSts 16 8)).toInt = m ∧ w.rf thermSts 8 4 = i ∧
      w.hot = decide (m ≥ d.rf (rk .clocks 0 0x104) 8 8) ∧ w.rbit thermSts 31 = (d.rbit thermSts 31 || decide (m ≥ 115)) ∧
      w.mode = (if m ≥ 115 then .safe else d.mode) ∧
      w.hotSince = (if m > step then some (d.hotSince.getD d.mer) else none) ∧
      w.coolSince = (if m < (step : Int) - d.rf (rk .clocks 0 0x104) 0 8 then some (d.coolSince.getD d.mer) else none)) ∧
  (∀ (s : State) (temp : Byte),
    (temp.toInt < 115 → exec (.thermalTrip temp) s = toDev s s.dev) ∧
    (115 ≤ temp.toInt → s.dev.mode ≠ .datum → ∃ w, exec (.thermalTrip temp) s = toDev s w ∧ w.mode = .safe ∧ w.tripped = true ∧ w.rbit thermSts 31 = true))

/-! ### Recovery -/

/-- The steps of the ladder (13 R357, R358, R363 to R368): a core reset holds the core with every register at reset until its refill; STRIKES of them
within 1 s in one frond escalate. The watchdog of a context and the heartbeat of a core take the core's step; a core that does not return takes the
step above the largest reset unit that holds it (log entry 28: the severities of the records). A core port's limit takes the frond's step, a core access with no answer is captured in ECC_CAP (log entry 72), a
fabric time-out ends the request at its requester and resets the unit that holds the target. SV_CTL.WARM is a command of the open session's
rights (log entry 53: without them it sets CFGERR). Device warm resets (13 R359, R366, R368; 14 R387): HEALTH_WARM with
its key, SV_CTL.WARM with its right and the ladder ask for one; made, the device is in CROZIER with CAUSE 6, its cores, items and stores but the
deep one gone (log entries 2 and 36); after a thermal trip it waits until the device is cool. -/
def Obligations.RecoverySteps : Prop :=
  (∀ (d : Dev) (c cause : Nat),
    let d0 := d.resetCore c cause
    let d1 := (d0.noteStep 3 c cause 0 2 (if cause = 0x10 then (d0.reg (rk .coreUc c 0x110)).toNat * 2 ^ 32 else 0)).fenceUnit 3 c cause
    d.stepCore c cause = (if d1.strikeMax ≤ d1.strikes 3 (fun g => frondOf g == frondOf c) then d1.stepFrond (frondOf c) 0x13 else d1) ∧
    (d1.core c) = { Core.atReset with patchLevel := (d1.core c).patchLevel, cc := (d1.core c).cc, refillDue := true }) ∧
  (∀ (d : Dev) (c why : Nat),
    let f := frondOf c
    let t := thallusOf c
    ((5, t) ∈ d.outUnits → d.unitFailed c why = (d.health 0x05 why 2 2 t).escalate6 0x14) ∧
    ((5, t) ∉ d.outUnits → (4, f) ∈ d.outUnits → d.unitFailed c why = (d.health 0x04 why 2 2 f).stepThallus t 0x14) ∧
    ((5, t) ∉ d.outUnits → (4, f) ∉ d.outUnits → d.unitFailed c why = (d.health 0x03 why 2 2 c).stepFrond f 0x14)) ∧
  (∀ (s : State) (c : CoreId),
    let d := s.dev
    (d.clocked c.val = true → (d.core c.val).pool = true → (d.core c.val).run ≠ .inGetw →
      exec (.contextWatchdogExpiry c) s = toDev s (d.stepCore c.val 2)) ∧
    (d.clocked c.val = true → (d.core c.val).pool = true → (d.core c.val).run ≠ .inGetw → (d.core c.val).item = none →
      exec (.coreHeartbeatExpiry c) s = toDev s (if (d.core c.val).returning then d.unitFailed c.val 3 else d.stepCore c.val 3)) ∧
    (d.clocked c.val = false ∨ (d.core c.val).run = .inGetw → exec (.contextWatchdogExpiry c) s = toDev s d ∧ exec (.coreHeartbeatExpiry c) s = toDev s d)) ∧
  (∀ (s : State) (f : Fin 32), s.dev.makesItems = true → s.dev.thOn (f.val / 8) = true →
    exec (.frondSlotTimeout f) s = toDev s (s.dev.stepFrond f.val 4)) ∧
  (∀ (s : State) (addr : BitVec 40) (master : BitVec 12) (t : Tier), s.dev.mode ≠ .datum → tierOf addr.toNat = some t →
    let d := s.dev
    let y := if master.toNat < 0x100 then stopCore master.toNat 5 (match t.eccPage with
        | some k => d.eccCapture t k 0 master.toNat (addr.toNat / 8 * 8)
        | none => d)
      else if 0x400 ≤ master.toNat ∧ master.toNat < 0x800 ∧ master.toNat % 256 < 240 then d.abortDesc (master.toNat - 0x400) 7 (d.domOf addr.toNat)
      else d.fabricEnd addr.toNat master.toNat
    exec (.fabricTimeout addr master) s = toDev s (match t with
      | .thallus n => y.stepThallus n 5
      | .frond n => y.stepFrond n 5
      | .working n => y.stepCore n 5
      | .prog n => y.stepCore n 5
      | .deep => y.escalate6 5)) ∧
  (∀ (s : State) (m : RegMaster) (v : W32), s.dev.writable m (PageT.first .health) 0x108 = true →
    let d := s.dev
    (v.toNat / 65536 ≠ 0x5752 → exec (.healthWarm m v) s = toDev s (d.cfgErr (PageT.first .health))) ∧
    (v.toNat / 65536 = 0x5752 → bit v 0 = true → d.warm = none → exec (.healthWarm m v) s = toDev s { d with warm := some 0x15 }) ∧
    (v.toNat / 65536 = 0x5752 → bit v 0 = false → exec (.healthWarm m v) s = toDev s d)) ∧
  (∀ (s : State) (m : RegMaster), s.dev.writable m (PageT.first .survey) 0x100 = true →
    let d := s.dev
    (∀ p rights, d.survey = some (p, rights) → rights / 8 % 2 = 1 → d.warm = none → exec (.svWarm m) s = toDev s { d with warm := some 0x15 }) ∧
    (d.survey.all (fun e => e.2 / 8 % 2 == 0) = true → exec (.svWarm m) s = toDev s (d.cfgErr (PageT.first .survey)))) ∧
  (∀ (s : State) (cause : Nat), s.dev.warm = some cause → s.dev.mode ≠ .datum →
    (s.dev.tripped = true → s.dev.cool = false → exec .deviceWarmReset s = toDev s s.dev) ∧
    (s.dev.tripped = false ∨ s.dev.cool = true →
      ∃ w, exec .deviceWarmReset s = toDev s w ∧ w.mode = .crozier ∧ w.rf modeSts 8 8 = 6 ∧ w.warm = none ∧ w.tripped = false ∧ w.cores = [] ∧
        w.items = [] ∧ w.boot.ready = true ∧ w.board = s.dev.board ∧ (∀ a, 0x4_0000_0000 ≤ a → w.byte a = 0)))

/-! ### Events of the cores -/

/-- A core's events (05 R122, R127, R129; 08 R205; 07 R172 to R178; 10 R271; 05 R143): a due asynchronous trap is taken where the core runs or
waits; the timer runs out in WAIT and GETW, the budget in an instruction's own cycles, which leaves the grace and the pending overrun (log entry
35); the grace completes the item and resets the core; work that microwords have paid for adds no cycles (07 R170); the watchdog runs out; a machine check withdraws the core and enters BF, a second one stops
it (its micro-address, outside the words of the command, is a free value: log entry 9; the severity of the step-1 record of an overrun: log entry
28); a prefetch walk fills a block register; the oldest write-buffer entry is written. -/
def Obligations.CoreEvents : Prop :=
  (∀ (s : State) (c : CoreId),
    let d := s.dev
    let x := d.core c.val
    (∀ y : Dev, (y.takesTraps c.val = false ∨ asyncDue y c.val = none → y.takeAny c.val = y) ∧
      (∀ code, y.takesTraps c.val = true → asyncDue y c.val = some code → (y.core c.val).flight = none →
        (y.core c.val).micro.next = none → y.takeAny c.val = enterAsync c.val code y)) ∧
    exec (.takeInterrupt c none) s = toDev s (d.takeAny c.val) ∧
    (∀ n, d.executes c.val = false ∨ asyncDue d c.val = none → exec (.takeInterrupt c (some n)) s = toDev s d) ∧
    (d.clocked c.val = true → x.ctimer ≠ 0 → x.run = .inWait ∨ x.run = .inGetw →
      let y := pass c.val x.ctimer.toNat d
      exec (.coreTimerExpiry c) s = toDev s (y.takeAny c.val) ∧ (y.core c.val).ctimer = 0 ∧ (y.core c.val).pendTimer = true ∧
        (y.core c.val).budget = x.budget) ∧
    (d.clocked c.val = true → x.run ≠ .inWait → x.run ≠ .inGetw → exec (.coreTimerExpiry c) s = toDev s (d.takeAny c.val)) ∧
    (d.clocked c.val = false → exec (.coreTimerExpiry c) s = toDev s d) ∧
    exec (.budgetOverrun c) s = toDev s (if x.pendOverrun then d.takeAny c.val else d) ∧
    (∀ n y, d.clocked c.val = true → x.onGrace = true → d.openItem c.val = some (n, y) →
      exec (.graceExhausted c) s =
        toDev s ((((d.overrunItem n y.q).modCore c.val (fun k => { k with item := none, budget := 0 })).withdraw c.val 1).stepCore c.val 1)) ∧
    (∀ n, d.clocked c.val = true → x.onGrace = true → x.item = some n → d.openItem c.val = none →
      exec (.graceExhausted c) s =
        toDev s (((d.modCore c.val (fun k => { k with item := none, budget := 0 })).withdraw c.val 1).stepCore c.val 1)) ∧
    (d.executes c.val = true →
      let d1 := d.modCore c.val (fun k => { k.microIdle with flight := none })
      let v := Config.freeValue d.free
      exec (.watchdogExpiry c) s =
        toDev s (archCheck c.val 6 0 (d.modCore c.val (fun k => { k.microIdle with flight := none, spent := 4096 - k.wdog, unbilled := 0 }))) ∧
      (∀ u w, u.toNat < 0x2200 → microParity w.toNat ≠ fld w 32 4 → exec (.machineCheck c (.microword u w)) s =
        toDev s (machineCheck c.val (if u.toNat < 0x2000 then 3 else 4) 0 0 u w d1)) ∧
      (∀ u w, u.toNat < 0x2200 → microParity w.toNat = fld w 32 4 → illegalMicro w = true → exec (.machineCheck c (.microword u w)) s =
        toDev s (machineCheck c.val 7 0 0 u w d1)) ∧
      (∀ u : BitVec 14, 0x2200 ≤ u.toNat → ∃ w, exec (.machineCheck c (.badAddress u)) s =
        toDev s (machineCheck c.val 7 0 0 u w { d1 with free := d.free + 1 })) ∧
      (∀ u : BitVec 14, u.toNat < 0x2200 → exec (.machineCheck c (.stackMisuse u)) s =
        toDev s (machineCheck c.val 7 0 0 (placeRead d c.val u.toNat) (wordRead d c.val u.toNat) d1)) ∧
      (∀ n m, matchRight m = false →
        let y := { d1 with free := d.free + 1 }.modCore c.val (fun k => { k with matchReg := SMap.put k.matchReg n.val m })
        let u := v.toNat % 0x2000
        exec (.machineCheck c (.matchParity n m)) s =
          toDev s (machineCheck c.val 5 ((y.core c.val).matchFail.getD n.val) 0 (placeRead y c.val u) (wordRead y c.val u) y))) ∧
    (∀ va r y, x.prefetch = some va → d.clocked c.val = true → x.brHit va.toNat = none →
      (walk c.val va.toNat false).run (d.modCore c.val (fun k => { k with prefetch := none })) = .ok r y →
      exec (.prefetchWalk c) s = toDev s y) ∧
    (x.wbuf = [] → exec (.writeBufferDrain c) s = toDev s d) ∧
    (∀ e t, x.wbuf = e :: t → exec (.writeBufferDrain c) s =
      toDev s ((d.store (.frond (frondOf c.val)) c.val e.addr e.bytes).modCore c.val (fun k => { k with wbuf := t })))) ∧
  (∀ x : Core,
    let n := if x.paid then 0 else x.spent
    let k := n - x.unbilled
    let y := x.account
    y.spent = 0 ∧ y.cc = x.cc + n ∧ y.ctimer = BitVec.ofNat 32 (x.ctimer.toNat - n) ∧
    (x.item = none ∨ x.inBF = true → y.budget = x.budget ∧ y.onGrace = x.onGrace ∧ y.pendOverrun = x.pendOverrun) ∧
    (x.item ≠ none → x.inBF = false → k < x.budget.toNat → y.budget = BitVec.ofNat 32 (x.budget.toNat - k) ∧ y.onGrace = x.onGrace) ∧
    (x.item ≠ none → x.inBF = false → x.onGrace = false → x.budget ≠ 0 → x.budget.toNat ≤ k →
      y.budget = BitVec.ofNat 32 (256 - (k - x.budget.toNat)) ∧ y.onGrace = true ∧ y.pendOverrun = true) ∧
    (x.item ≠ none → x.inBF = false → x.onGrace = true → x.budget.toNat ≤ k → y.budget = 0 ∧ y.pendOverrun = x.pendOverrun)) ∧
  (∀ (d : Dev) (n q : Nat),
    let k := SMap.get 0 d.qStrike q + 1
    let d1 := (d.endOverrun n).noteStep 1 q 1 1 1 0
    (d1.strikeMax ≤ k → d.overrunItem n q = ({ d1 with qStrike := SMap.put d1.qStrike q 0 } : Dev).stepContext q) ∧
    (k < d1.strikeMax → d.overrunItem n q = { d1 with qStrike := SMap.put d1.qStrike q k })) ∧
  (∀ (d : Dev) (c : CoreId) (sub mreg detail : Nat) (u : BitVec 14) (w : BitVec 36),
    ((d.core c.val).mck = false → sub = 4 ∨ sub = 5 ∨ (d.core c.val).trapPatched 16 = false →
      let y := (machineCheck c.val sub mreg detail u w d).core c.val
      y.mck = true ∧ y.pool = false ∧ y.cur = 8 ∧ y.run = .running ∧
        y.cb.pc = BitVec.ofNat 16 (((d.core c.val).pendTvb.getD (d.core c.val).tvb).toNat * 256 + 128)) ∧
    ((d.core c.val).mck = true →
      machineCheck c.val sub mreg detail u w d = stopCore c.val 0x10 (d.setRf (rk .coreUc c.val 0x110) 30 1 1)))

/-- The hand-over of an item to a core that waits in GETW (08 R203, R204; 05 R134): its descriptor is written, and where its context is resident that
bank becomes current with PC at the entry, CONT[0] and RESUME clear and BUDGET loaded; nothing is handed to a core that does not wait. The egress
schedule (12 R311, R312, R315; 08 R199, R201): the next frame of a port, a refusal record before any other, leaves when the port is up and is
counted, else it is discarded and counted; a PTP event message is stamped in both cases; the item that it belongs to ends, which releases its
output part. -/
def Obligations.HandoverAndEgress : Prop :=
  (∀ (s : State) (c : CoreId) (stop : Option Nat),
    let d := s.dev
    (d.clocked c.val = false ∨ (d.core c.val).pool = false ∨ (d.core c.val).run ≠ .inGetw → exec (.itemDispatch c stop) s = toDev s d) ∧
    (d.clocked c.val = true → (d.core c.val).pool = true → (d.core c.val).run = .inGetw → asyncDue d c.val = none →
      ∀ d1 d2 n x b, d.nextFor c.val = (d1, some (n, x)) → d1.fabWrite gratReq (workBase c.val + 0x3_FFC0) (itemWords x) = (d2, none) →
        (d2.core c.val).patched .getw = false → ((spend c.val 6 d2).core c.val).bankOf x.q = some b →
        exec (.itemDispatch c stop) s = toDev s (startItem c.val b n x true (spend c.val 6 d2)))) ∧
  (∀ (c b n : Nat) (x y : Item) (res : Bool) (d : Dev), b < 8 → d.item? n = some y →
    let w := startItem c b n x res d
    (w.core c).cur = b ∧ (w.core c).cb.pc = BitVec.ofNat 16 x.entry ∧ (w.core c).cb.cont0 = 0 ∧ (w.core c).csw.resume = false ∧
      (w.core c).budget = BitVec.ofNat 32 x.ebudget ∧ (w.core c).onGrace = false ∧ (w.core c).item = some n ∧ (w.core c).run = .running ∧
      w.item? n = some { y with phase := .running }) ∧
  (∀ (l : List Egr) (e : Egr), nextEgress l = some e → e ∈ l ∧ ((∃ x ∈ l, x.refusal = true) → e.refusal = true)) ∧
  (∀ (s : State) (p : Fin 16) (e : Egr), nextEgress (SMap.get [] s.dev.egress p.val) = some e →
    let d := s.dev
    let f := d.replyFrame p.val e
    let ends (y : Dev) : Dev := match e.item with
      | some n => y.dropItem n
      | none => y
    let d1 : Dev := { d with egress := SMap.put d.egress p.val ((SMap.get [] d.egress p.val).erase e) }
    (d.portEn p.val = true → d.portUp p.val = true →
      let y := ((d1.emit (.frame p.val f)).incRf (macKey p.val 0x15C) 0 32 1).ptpStamp p.val f
      exec (.frameTransmit p) s = toDev s (ends (if e.record then y.incRf (macKey p.val 0x160) 0 32 1 else y))) ∧
    (d.portEn p.val = false ∨ d.portUp p.val = false →
      exec (.frameTransmit p) s = toDev s (ends ((d1.incRf (macKey p.val 0x164) 0 32 1).ptpStamp p.val f)))) ∧
  (∀ (d : Dev) (n : Nat),
    (d.dropItem n).item? n = none ∧ (∀ k, k ≠ n → (d.dropItem n).item? k = d.item? k) ∧
    (∀ x, d.item? n = some x → x.jen = false → d.dropItem n = { d with items := SMap.drop d.items n })) ∧
  (∀ (s : State) (p : Fin 16), SMap.get [] s.dev.egress p.val = [] → exec (.frameTransmit p) s = toDev s s.dev)

/-! ### Power, pins and time -/

/-- The pins and supplies (13 R353, R356, Tables 13.4 and 13.5; 15 R392, R396, R402): a power-on reset keeps only the fuses; a fall of PORST_N or
PWROK, a supply out of range or a lost clock outside DATUM is a cold reset, which keeps the Datum domain (log entries 2 and 36); with both pins high,
the clock running and the supplies in range the device climbs to CROZIER (log entry 37). (Log entry 11: a pin command without VDD_AON does nothing;
log entry 66: without VDD_IO no pin is sensed, and the clock runs again at a rise of PORST_N or PWROK.) -/
def Obligations.PinsAndResets : Prop :=
  (∀ e ∈ [(Instr.vddAonRise, true), (.powerRemoved, false)], ∀ s : State,
    ∃ w, exec e.1 s = toDev s w ∧ w.mode = .datum ∧ w.mer = 0 ∧ w.board.aon = e.2 ∧ w.board.climb = true ∧ w.board.porst = false ∧
      w.board.pwrok = false ∧ w.cores = [] ∧ w.items = [] ∧ w.mem = [] ∧ ∀ k, w.reg k = if k = modeSts then 0 else resetOf k) ∧
  (∀ d : Dev,
    let w := d.coldReset
    w.mode = .datum ∧ w.mer = d.mer ∧ w.cores = [] ∧ w.items = [] ∧ w.mem = [] ∧ w.pstore = [] ∧ w.board.climb = true ∧ w.board.waiting = false ∧
      ∀ k, w.reg k = if k = modeSts then 0 else if inDatum k then d.reg k else resetOf k) ∧
  (∀ s : State, s.dev.board.aon = true →
    let d := s.dev
    let lo : Dev := { d with board := { d.board with porst := false, climb := true } }
    let off : Dev := { d with board := { d.board with pwrok := false } }
    let lost (y : Dev) : Dev := { y with board := { y.board with refclk := false } }
    (d.rbit railSts 6 = true →
      exec .porstNFall s = toDev s (if d.mode = .datum then lo else lo.coldReset) ∧
      exec .pwrokFall s = toDev s (if d.mode = .datum then off else off.coldReset) ∧
      (∀ (strap : BitVec 3) (test : Bool),
        let d1 : Dev := { d.setReg (rk .datum 0 0x1E4) (BitVec.ofNat 32 (2 ^ 31 + strap.toNat)) with
          board := { d.board with porst := true, test := test, refclk := true } }
        exec (.porstNRise strap test) s = toDev s d1.tryClimb)) ∧
    (d.rbit railSts 6 = false → exec .porstNFall s = toDev s d ∧ exec .pwrokFall s = toDev s d ∧
      ∀ strap test, exec (.porstNRise strap test) s = toDev s d) ∧
    exec .refclkLoss s = toDev s (lost (if d.mode = .datum then d else d.coldReset.setRf railSts 30 1 1)) ∧
    (∀ low : BitVec 7,
      let d1 : Dev := { d.setRf railSts 0 7 (127 - low.toNat) with board := { d.board with pwrok := d.board.pwrok && !low.getLsbD 6 } }
      exec (.railFault low) s = toDev s (if d.mode = .datum then d1.tryClimb else if low = 0 ∨ d.board.pwrok = false then d1
        else ((d1.coldReset).setRf railSts 31 1 1).setRf railSts 16 7 low.toNat)) ∧
    (∀ rails : BitVec 7,
      let d1 := d.setRf railSts 0 7 rails.toNat
      let d2 : Dev := { d1 with board := { d.board with pwrok := true, refclk := true } }
      let d3 : Dev := { d1 with board := { d.board with pwrok := false } }
      exec (.pwrokRise rails) s = toDev s (if rails.getLsbD 6 then d2.tryClimb else d3))) ∧
  (∀ d : Dev,
    (d.mayClimb = true ↔ d.board.aon = true ∧ d.board.refclk = true ∧ d.mode = .datum ∧ d.board.pwrok = true ∧ d.board.porst = true ∧
      d.board.test = false ∧ d.rf railSts 0 7 = 0x7F) ∧
    d.tryClimb = (if d.mayClimb = false then d else if d.board.waiting = true then d.toCrozier 7 (d.rf wakeSts 8 4) (d.rf wakeSts 0 3)
      else if d.board.climb = true then d.toCrozier 0 (if d.boot.epochDue then 3 else 0) 0 else d)) ∧
  (∀ (d : Dev) (cause src idx : Nat), cause < 256 → src < 16 → idx < 8 →
    let w := d.toCrozier cause src idx
    w.mode = .crozier ∧ w.boot.ready = true ∧ w.board.climb = false ∧ w.board.waiting = false ∧ w.rf modeSts 8 8 = cause ∧ w.rf wakeSts 8 4 = src ∧
      w.rf wakeSts 0 3 = idx ∧ w.rbit (rk .clocks 0 0x100) 31 = true ∧ w.rbit dsSts 30 = true)

/-- Meridian and civil time (13 R343, R344): a load takes a later value in CROZIER and STANDBY, else it is refused; a write of CIV_OFF clears the
fraction; 1,000 fc add CIV_TRIM × 1,000 / 2^32 ns, exactly with the fraction kept; PPS_OUT rises for WIDTH µs where civil time first reaches a whole
second; an edge of PPS_IN of the chosen sense captures Meridian. Alarms and wakes (13 R345, R346): an armed alarm whose time has come disarms, shows
FIRED and interrupts, and wakes when it is to; an enabled comparator whose pin shows its sense and has held it for DEB ticks interrupts and wakes. A
wake from DATUM climbs with PWROK high and the supplies in range, else it waits for PWROK (log entry 37); a wait that runs out shows PWRTO. The tick
(00 R8, R9; 08 R193, R199): FINE_TICK moves Meridian to the next whole µs, in DATUM 1,000 on, and gives the meters their tokens; on an empty queue
1 ns passes, in DATUM 1 µs (log entry 3); nothing passes without VDD_AON or REFCLK. -/
def Obligations.TimeAndAlarms : Prop :=
  (∀ (s : State) (m : RegMaster), s.dev.writable m (PageT.first .datum) 0x110 = true →
    let d := s.dev
    let v := d.reg64 (datKey 0x108)
    exec (.meridianLoad m) s =
      toDev s (if (d.mode = .crozier ∨ d.mode = .standby) ∧ d.mer ≤ v then ({ d with mer := v } : Dev).ppsSince d
        else d.cfgErr (PageT.first .datum))) ∧
  (∀ (s : State) (m : RegMaster) (hi : Bool) (v : W32), s.dev.writable m (PageT.first .datum) (if hi then 0x118 else 0x114) = true →
    exec (.civOffWrite m hi v) s = toDev s (({ s.dev.setReg (datKey (if hi then 0x118 else 0x114)) v with civFrac := 0 } : Dev).ppsSince s.dev)) ∧
  (∀ d old : Dev, d.ppsSince old =
    if old.civil / 1_000_000_000 < d.civil / 1_000_000_000 then { d with board := { d.board with ppsAt := some d.mer } } else d) ∧
  (∀ s : State, s.dev.datumRuns = true →
    let d := s.dev
    let t : Int := d.civOff * 2 ^ 32 + d.civFrac + (d.reg (datKey 0x11C)).toInt * 1000
    ∃ w, exec .civilTrimTick s = toDev s w ∧ w.civFrac < 2 ^ 32 ∧
      (-(2 ^ 95) ≤ t → t < 2 ^ 95 → w.civOff * 2 ^ 32 + w.civFrac = t) ∧ w.mer = d.mer) ∧
  (∀ s : State, s.dev.datumRuns = true →
    let d := s.dev
    let k := datKey 0x128
    (d.mode ≠ .datum → d.rbit k 31 = true → d.board.ppsAt = some d.mer →
      exec .ppsOutEdge s = toDev s { d with board := { d.board with ppsEnd := d.mer + d.rf k 0 20 * 1000, ppsAt := none } }) ∧
    (d.mode = .datum ∨ d.rbit k 31 = false ∨ d.board.ppsAt ≠ some d.mer → exec .ppsOutEdge s = toDev s d) ∧
    (∀ rising : Bool, exec (.ppsInEdge rising) s =
      toDev s (if d.ioOn = true ∧ d.rbit k 30 = true ∧ d.rbit k 29 ≠ rising then d.setReg64 (datKey 0x120) d.mer else d))) ∧
  (∀ s : State, s.dev.datumRuns = true →
    let d := s.dev
    (∀ i : Fin 8,
      let k := datKey (0x148 + 16 * i.val)
      let fired := ((d.setRf k 29 1 1).setRf k 31 1 0).raiseIrq (PageT.first .datum) (2 ^ i.val)
      (d.rbit k 31 = true → d.reg64 (datKey (0x140 + 16 * i.val)) ≤ d.mer →
        exec (.alarmMatch i) s = toDev s (if d.rbit k 30 then fired.wake 1 i.val else fired)) ∧
      (d.rbit k 31 = false ∨ d.mer < d.reg64 (datKey (0x140 + 16 * i.val)) → exec (.alarmMatch i) s = toDev s d)) ∧
    (∀ (j : Fin 4) (before level : Bool) (held : Nat),
      let k := datKey (0x1C0 + 4 * j.val)
      let was := d.ioOn && before
      let now := d.ioOn && level
      let shown : Prop := (d.rf k 29 2 = 0 ∧ was = false ∧ now = true) ∨ (d.rf k 29 2 = 1 ∧ was = true ∧ now = false) ∨
        (d.rf k 29 2 = 2 ∧ now = true) ∨ (d.rf k 29 2 = 3 ∧ now = false)
      (d.rbit k 31 = true → shown → d.rf k 0 8 ≤ held →
        exec (.wakeMatch j before level held) s = toDev s ((d.raiseIrq (PageT.first .datum) (2 ^ (8 + j.val))).wake 2 j.val)) ∧
      (d.rbit k 31 = false ∨ ¬shown ∨ held < d.rf k 0 8 → exec (.wakeMatch j before level held) s = toDev s d))) ∧
  (∀ (d : Dev) (src idx : Nat), src < 16 → idx < 8 → d.mode = .datum → d.ioOn = false ∨ d.board.porst = true → d.board.waiting = false → d.board.test = false →
    let y : Dev := { (d.setRf wakeSts 8 4 src).setRf wakeSts 0 3 idx with board := { d.board with waiting := true } }
    d.wake src idx = if d.datumRuns = true ∧ d.board.pwrok = true ∧ d.railsOk = true then y.toCrozier 7 src idx else y) ∧
  (∀ (d : Dev) (src idx : Nat), d.mode ≠ .datum ∨ (d.ioOn = true ∧ d.board.porst = false) → d.wake src idx = d) ∧
  (∀ s : State, s.dev.mode = .datum → s.dev.board.waiting = true →
    exec .pwrokWaitTimeout s = toDev s { s.dev.setRf wakeSts 31 1 1 with board := { s.dev.board with waiting := false } }) ∧
  (∀ s : State, s.dev.datumRuns = true →
    ∃ w, exec .fineTick s = toDev s w ∧ w.mer = (if s.dev.mode = .datum then s.dev.mer + 1000 else (s.dev.mer / 1000 + 1) * 1000) ∧
      w.mode = s.dev.mode ∧ w.cores = s.dev.cores ∧ w.mem = s.dev.mem ∧
      (s.dev.mode ≠ .datum → ∀ p, SMap.get 0 w.rzUsed p = SMap.get 0 s.dev.rzUsed p - s.dev.rf (rk .rz 0 (0x140 + 4 * p)) 0 8)) ∧
  (∀ s : State, s.dev.datumRuns = false → exec .fineTick s = toDev s s.dev) ∧
  (∀ s : State, s.pending = [] → step s = toDev s s.dev.lateResets.pass1) ∧
  (∀ d : Dev, (∀ e ∈ d.cores, e.2.resetDue = false) → d.lateResets = d) ∧
  (∀ d : Dev, d.datumRuns = true → d.pass1.mer = (if d.mode = .datum then d.mer + 1000 else d.mer + 1) ∧ d.pass1.mode = d.mode) ∧
  (∀ d : Dev, d.datumRuns = false → d.pass1 = d)

/-! ### Crozier -/

/-- The stages of boot (14 R370 to R375, R383): S0 after a power-on reset blows an EPOCH step and sets MCOUNT from it, and holds with EPOCH_SPENT when
none is left; the first slot that passes the checks of Table 14.6 is booted, CORE[0] released at its ENTRY; with none Crozier holds; a stage that
overruns its limit holds, S1 to S3 with S0 done and, in slot 1, slot 0's status kept. (Log entry 39: the lines' form, and what a stage cut short
leaves.) -/
def Obligations.BootStages : Prop :=
  (∀ (s : State) (slot0 slot1 : List Byte), s.dev.mode = .crozier → s.dev.boot.ready = true →
    let d := s.dev
    (d.boot.epochDue = true → 1024 ≤ s.fuse.epoch →
      exec (.crozierStart slot0 slot1) s = toDev s ((d.setRf czSts 16 8 0xB).czHold 0 0xB)) ∧
    (∀ f1 d1, d.bootS0 s.fuse = some (f1, d1) →
      (∀ d2, d1.checkSlot f1 0 slot0 = (d2, none) → exec (.crozierStart slot0 slot1) s = .next { s with fuse := f1, dev := d2.bootImage 0 slot0 }) ∧
      (∀ d2 e, d1.checkSlot f1 0 slot0 = (d2, some e) →
        (∀ d3, d2.checkSlot f1 1 slot1 = (d3, none) → exec (.crozierStart slot0 slot1) s = .next { s with fuse := f1, dev := d3.bootImage 1 slot1 }) ∧
        (∀ d3 stage st, d2.checkSlot f1 1 slot1 = (d3, some (stage, st)) →
          exec (.crozierStart slot0 slot1) s = .next { s with fuse := f1, dev := d3.czHold stage st })))) ∧
  (∀ (fz : Fuses) (d : Dev),
    (d.boot.epochDue = false → ∃ y, d.bootS0 fz = some (fz, y) ∧ y.boot = d.boot) ∧
    (d.boot.epochDue = true → fz.epoch < 1024 → ∃ y, d.bootS0 fz = some ({ fz with epoch := fz.epoch + 1 }, y) ∧ y.boot.epochDue = false ∧
      y.mcount = (fz.epoch + 1) * 2 ^ 40)) ∧
  (∀ (d : Dev) (stage st : Nat), stage < 8 → st < 256 →
    let w := d.czHold stage st
    (w.core 0).run = .held ∧ w.rbit czSts 31 = true ∧ w.rf czSts 24 3 = stage ∧ w.rf czSts 0 8 = st ∧ w.boot.ready = false ∧ w.boot.s4 = false ∧
      w.out = .uart (ascii "CROZIER HOLD " ++ hex2 st) :: d.out) ∧
  (∀ (d : Dev) (n : Nat) (im : List Byte), n < 2 →
    let w := d.bootImage n im
    w.boot.s4 = true ∧ w.boot.ready = false ∧ w.boot.keysel = beAt im 0xA 1 ∧ w.boot.rollback = beAt im 0x10 1 ∧ (w.core 0).run = .running ∧
      (w.core 0).pool = false ∧ ((w.core 0).bank 0).pc = BitVec.ofNat 16 (beAt im 0x12 2) ∧ w.rf czSts 24 3 = 4 ∧ w.rf czSts 30 1 = n ∧
      w.out = .uart (ascii "CROZIER RUN") :: d.out) ∧
  (∀ (s : State), s.dev.mode = .crozier →
    let d := s.dev
    (∀ two im0 im1, exec (.bootStageTimeout 4 two im0 im1) s = toDev s (if d.boot.s4 then d.czHold 4 0xA else d)) ∧
    (∀ (st : Fin 5) two im0 im1, st ≠ 4 → d.boot.ready = false → exec (.bootStageTimeout st two im0 im1) s = toDev s d) ∧
    (d.boot.ready = true → ∀ two im0 im1, exec (.bootStageTimeout 0 two im0 im1) s = toDev s (d.czHold 0 0xA)) ∧
    (d.boot.ready = true → ∀ (st : Fin 5) im0 im1 f1 d1, st ≠ 0 → st ≠ 4 → d.bootS0 s.fuse = some (f1, d1) →
      (∀ w, d1.slotTimeout f1 st.val 0 im0 = some w → exec (.bootStageTimeout st false im0 im1) s = .next { s with fuse := f1, dev := w }) ∧
      (d1.slotTimeout f1 st.val 0 im0 = none → exec (.bootStageTimeout st false im0 im1) s = toDev s d) ∧
      (∀ d2, d1.checkSlot f1 0 im0 = (d2, none) → exec (.bootStageTimeout st true im0 im1) s = toDev s d) ∧
      (∀ d2 e, d1.checkSlot f1 0 im0 = (d2, some e) →
        (∀ w, d2.slotTimeout f1 st.val 1 im1 = some w → exec (.bootStageTimeout st true im0 im1) s = .next { s with fuse := f1, dev := w }) ∧
        (d2.slotTimeout f1 st.val 1 im1 = none → exec (.bootStageTimeout st true im0 im1) s = toDev s d)))) ∧
  (∀ (fz : Fuses) (d : Dev) (n : Nat) (im : List Byte),
    let y := d.setRf czSts 30 1 n
    let hold (k : Nat) : Dev := ((y.setRf czSts (16 - 8 * n) 8 0xA).slotLine n 0xA).czHold k 0xA
    d.slotTimeout fz 1 n im = some (hold 1) ∧
    (slotStatus fz im = none → d.slotTimeout fz 2 n im = some (hold 2)) ∧
    (slotStatus fz im ≠ none → d.slotTimeout fz 2 n im = none ∧ d.slotTimeout fz 3 n im = none) ∧
    (slotResult fz im = none → ∃ w : Dev, d.slotTimeout fz 3 n im = some (w.czHold 3 0xA) ∧ w.out = (y.slotLine n 0).out))

/-- The commands of the boot firmware (14 R376, R377, Table 14.5): each is carried out from the slot at the top of CORE[0]'s working store and ends
with its status and a 0 in the command byte; PATCH releases CORE[0] with its
pending block-register images installed (10 R275); the fuse commands blow their fuses or are REFUSED; DONE passes to STANDBY. An unknown code ends as
UNKNOWN (log entry 17: by whichever command of the boot firmware reads it). -/
def Obligations.BootCommands : Prop :=
  (∀ (d : Dev) (st : Nat), st < 256 → (d.czEnd st).byte czSlot = 0 ∧ (d.czEnd st).byte (czSlot + 1) = BitVec.ofNat 8 st) ∧
  (∀ (s : State), s.dev.czReads = true →
    let d := s.dev
    let fz := s.fuse
    let c := (d.byte czSlot).toNat
    (∀ e ∈ [Instr.regWrite, .regRead, .patch, .rollback, .enroll, .ownerOnly, .surveyOff, .crozierDone], 9 < c → exec e s = toDev s (d.czEnd 0xFE)) ∧
    (∀ flash, c = 1 → d.czArg 0xC 4 ≤ flash.length →
      let a := d.czArg 0x10 5
      let n := d.czArg 0xC 4
      let ok := match tierOf a, tierOf (a + (n - 1)) with
        | some (.thallus _), some (.thallus _) => True
        | some .deep, some .deep => True
        | some (.working 0), some (.working 0) => True
        | _, _ => False
      (¬ok ∨ d.rangeFault a n ≠ none → exec (.flashCopy flash) s = toDev s (d.czEnd 0xFD)) ∧
      (∀ d1, ok → d.rangeFault a n = none → d.fabWrite loaderReq a (flash.take n) = (d1, none) → exec (.flashCopy flash) s = toDev s (d1.czEnd 0))) ∧
    (c = 2 → d.czArg 8 3 < 0x80_0000 → exec .regWrite s =
      toDev s ((d.busWrite fz .crozier (d.czArg 8 3 / 4096) (d.czArg 8 3 % 4096) 0xF (BitVec.ofNat 32 (d.czArg 0xB 4))).1.czEnd 0)) ∧
    (∀ d1 v, c = 3 → d.czArg 8 3 < 0x80_0000 → d.busRead fz .crozier (d.czArg 8 3 / 4096) (d.czArg 8 3 % 4096) = (d1, some v) →
      exec .regRead s = toDev s ((d1.czPut 0x10 (toBytes 4 v.toNat)).czEnd 0)) ∧
    (c = 4 → d.rbit (ucKey 0x104) 31 = true → exec .patch s = toDev s (d.czEnd 0xFD)) ∧
    (c = 4 → d.rbit (ucKey 0x104) 31 = false → d.rbit (PageT.first .ucBcast * 4096 + 0x28) 0 = true →
      exec .patch s = toDev s ((installImages 0 (d.logErr (PageT.first .ucBcast) .locked true 0x102 (PageT.first .ucBcast) 0x100)).czEnd
        (d.rf (ucKey 0x104) 0 8))) ∧
    (c = 4 → d.rbit (ucKey 0x104) 31 = false → d.rbit (PageT.first .ucBcast * 4096 + 0x28) 0 = false → d.czArg 0xD 4 < 2 ^ 16 →
      let y := (((((d.setReg (ucKey 0x108) (BitVec.ofNat 32 (d.czArg 8 5))).setRf (ucKey 0x10C) 0 8 (d.czArg 8 5 / 2 ^ 32)).setRf (ucKey 0x110) 0 16
        (d.czArg 0xD 4))).startLoad fz.rollback true).commitLoad true
      exec .patch s = toDev s ((installImages 0 y).czEnd (y.rf (ucKey 0x104) 0 8)) ∧ ((installImages 0 y).core 0).brImage = []) ∧
    (c = 5 → exec .rollback s = if d.czArg 8 1 ≤ d.boot.rollback ∧ d.czArg 8 1 ≤ 64
      then .next { s with fuse := { fz with rollback := max fz.rollback (d.czArg 8 1) }, dev := d.czEnd 0 } else toDev s (d.czEnd 0xFD)) ∧
    (c = 6 → exec .enroll s = if fz.ownerHash = 0 ∧ d.boot.keysel = 0
      then .next { s with fuse := { fz with ownerHash := BitVec.ofNat 256 (d.czArg 8 32) }, dev := d.czEnd 0 } else toDev s (d.czEnd 0xFD)) ∧
    (c = 7 → exec .ownerOnly s = if fz.ownerHash = 0 then toDev s (d.czEnd 0xFD) else .next { s with fuse := { fz with ownerOnly := true }, dev := d.czEnd 0 }) ∧
    (c = 8 → exec .surveyOff s = .next { s with fuse := { fz with surveyDis := true }, dev := d.czEnd 0 }) ∧
    (c = 9 → ∃ w, exec .crozierDone s = toDev s w ∧ w.mode = .standby ∧ w.boot.s4 = false ∧ w.digestDue = true ∧ w.rf czSts 24 3 = 5 ∧
      w.byte czSlot = 0 ∧ w.byte (czSlot + 1) = 0))

/-! ### Lanes and ports -/

/-- Lane groups, ports and their registers (12 R306 to R308, R310, R315 to R317; 08 R193; 13 R363): LG_CFG.MODE changes only while no port or link of
the group runs; RZ_METER within its limits; a port trains up when it is enabled and its lane leads it, a Uaska group sends HELLO; eight failed
trainings within 1 s hold it down until it is written again; a loss takes the port down, and a link that goes down begins anew at HELLO (log entry
27). A group's record names the group, a port's the port (log entry 28). PFC follows the ring's fill, with the quanta 0xFFFF and 0. -/
def Obligations.LanesAndPorts : Prop :=
  (∀ (s : State) (m : RegMaster) (g : Fin 4) (v : W32), s.dev.writable m (PageT.first .lg + g.val) 0x100 = true →
    let d := s.dev
    let k := lgKey g.val 0x100
    (fld v 16 3 = d.lgMode g.val → fld v 16 3 < 6 →
      exec (.lgCfgWrite m g v) s = toDev s ((List.range 4).foldl (fun y j => y.releaseLane (4 * g.val + j))
        (d.setReg k ((d.reg k &&& ~~~0x0007_FF00) ||| (v &&& 0x0007_FF00))))) ∧
    (6 ≤ fld v 16 3 →
      ∃ w, exec (.lgCfgWrite m g v) s = toDev s w ∧ w.lgMode g.val = d.lgMode g.val ∧ w.rbit ((PageT.first .lg + g.val) * 4096 + 0xC) 31 = true) ∧
    (fld v 16 3 ≠ d.lgMode g.val → d.laneBusy g.val = true →
      ∃ w, exec (.lgCfgWrite m g v) s = toDev s w ∧ w.reg k = d.reg k ∧ w.linkHeld = d.linkHeld ∧ w.linkFails = d.linkFails ∧ w.uk = d.uk ∧
        w.rbit ((PageT.first .lg + g.val) * 4096 + 0xC) 31 = true) ∧
    (fld v 16 3 ≠ d.lgMode g.val → fld v 16 3 < 6 → d.laneBusy g.val = false →
      ∃ w, exec (.lgCfgWrite m g v) s = toDev s w ∧ w.lgMode g.val = fld v 16 3)) ∧
  (∀ (s : State) (m : RegMaster) (p : Fin 16) (v : W32), s.dev.writable m (PageT.first .mac + p.val) 0x100 = true →
    let d := s.dev
    let k := macKey p.val 0x100
    let now : W32 := if bit v 31 = true ∧ d.idlePage p.val = true then 0x4000_0700 else 0xC000_0700
    let y := d.setReg k ((d.reg k &&& ~~~now) ||| (v &&& now))
    (bit v 31 = false → exec (.macCfgWrite m p v) s = toDev s ((y.releaseLane p.val).portDown p.val)) ∧
    (bit v 31 = true → d.idlePage p.val = false → exec (.macCfgWrite m p v) s = toDev s (y.releaseLane p.val)) ∧
    (bit v 31 = true → d.idlePage p.val = true →
      exec (.macCfgWrite m p v) s = toDev s ((y.cfgErr (PageT.first .mac + p.val)).releaseLane p.val))) ∧
  (∀ (s : State) (m : RegMaster) (p : Fin 16) (v : W32), s.dev.writable m (PageT.first .rz) (0x140 + 4 * p.val) = true →
    let d := s.dev
    let k := rk .rz 0 (0x140 + 4 * p.val)
    fld v 0 8 ≤ d.rateLimit p.val → 1 ≤ fld v 16 8 → fld v 16 8 ≤ 16 →
    exec (.rzMeterWrite m p v) s = toDev s (d.setReg k ((d.reg k &&& ~~~0x00FF_00FF) ||| (v &&& 0x00FF_00FF)))) ∧
  (∀ (s : State) (m : RegMaster), s.dev.writable m (PageT.first .ptp) 0x10C = true →
    exec (.ptpTxtsPop m) s = toDev s { s.dev with ptp := s.dev.ptp.drop 1 }) ∧
  (∀ (s : State) (g k : Fin 4), s.dev.lanesRun = true → s.dev.linkHeld.contains (4 * g.val + k.val) = false →
    let d := s.dev
    let p := 4 * g.val + k.val
    (d.groupDir g.val = none → d.portRate p ≠ 0 → d.portEn p = true → d.portUp p = false →
      exec (.linkTrained g k) s = toDev s (((d.incRf (lgKey g.val 0x104) 0 8 1).laneState g.val k.val true).setRf (macKey p 0x114) 31 1 1)) ∧
    (∀ west, d.groupDir g.val = some west → k = 0 → (d.link west).trained = false →
      exec (.linkTrained g k) s = toDev s (((((d.incRf (lgKey g.val 0x104) 0 8 1).laneState g.val 0 true).linkUpBit g.val false).setLink west
        { Link.down with trained := true }).sendOn west 0x01 15 d.helloBytes)) ∧
    ((d.groupDir g.val = none ∧ d.portRate p ≠ 0 ∧ d.portEn p = true) ∨ (d.groupDir g.val ≠ none ∧ k = 0) →
      let ts := d.mer :: (SMap.get [] d.linkFails p).filter (fun t => decide (d.mer < t + 1_000_000_000))
      let d1 : Dev := { d.incRf (lgKey g.val 0x104) 0 8 1 with linkFails := SMap.put d.linkFails p ts }
      exec (.linkTrainingFailed g k) s = toDev s (if ts.length < 8 then d1
        else ({ d1 with linkHeld := p :: d1.linkHeld, linkFails := SMap.drop d1.linkFails p }).health 0x12 8 1 2
          (if d.groupDir g.val = none then p else g.val)))) ∧
  (∀ (s : State) (g k : Fin 4),
    let d := s.dev
    let p := 4 * g.val + k.val
    (d.groupDir g.val = none → d.portUp p = true →
      exec (.linkLoss g k) s = toDev s ((d.setRf (macKey p 0x114) 31 1 0).laneState g.val k.val false)) ∧
    (∀ west, d.groupDir g.val = some west → k = 0 → exec (.linkLoss g k) s = toDev s (d.dirDown west))) ∧
  (∀ (s : State) (p : Fin 16), s.dev.portEn p.val = true → s.dev.portUp p.val = true → s.dev.rf (macKey p.val 0x110) 16 8 ≠ 0 →
    let d := s.dev
    let pri := BitVec.ofNat 8 (d.rf (macKey p.val 0x110) 16 8)
    let fill := d.ringFill (p.val / 4) * 8
    (d.rf (macKey p.val 0x110) 8 3 * 0x40_0000 < fill →
      exec (.pfcXoffRepeat p) s = toDev s ((d.emit (.pfc p.val pri 0xFFFF)).setRf (macKey p.val 0x114) 30 1 1)) ∧
    (fill ≤ d.rf (macKey p.val 0x110) 8 3 * 0x40_0000 → fill < d.rf (macKey p.val 0x110) 0 3 * 0x40_0000 → d.rbit (macKey p.val 0x114) 30 = true →
      exec (.pfcXoffRepeat p) s = toDev s ((d.emit (.pfc p.val pri 0)).setRf (macKey p.val 0x114) 30 1 0)))

/-! ### The Uaska ring -/

/-- Links and control flits (12 R316 to R320, R326): a write of UK_CTL that names one group for both directions is refused; any other one with a legal
BEAT sets its fields, cuts each direction that loses its group or its enable, whose group then reads as idle, sends TOPO if one of them was up (log
entry 27: how a link is cut), and sets DIRERR for a direction whose group is not in Uaska mode; HELLO brings a trained link up when the ring is the
same and the positions differ, else POSERR; BEAT and TOPO update the member's row and the map, LEAVE and three missed BEATs lose the member; BEAT,
LEAVE and a TOPO not yet seen are passed on; what a device that the map no longer reaches has said of its links is forgotten (log entries 57 and 67: which bits of a map are taken, and how a flit for every device goes on). -/
def Obligations.RingControl : Prop :=
  (∀ (s : State) (m : RegMaster) (v : W32), s.dev.writable m (PageT.first .uaska) 0x100 = true →
    let d := s.dev
    (bit v 14 = true → bit v 10 = true → fld v 12 2 = fld v 8 2 →
      ∃ w, exec (.ukCtlWrite m v) s = toDev s w ∧ w.reg (ukKey 0x100) = d.reg (ukKey 0x100) ∧
        w.rbit (PageT.first .uaska * 4096 + 0xC) 31 = true) ∧
    (bit v 14 = false ∨ bit v 10 = false ∨ fld v 12 2 ≠ fld v 8 2 → fld v 0 8 ≠ 0 →
      let merged := (d.reg (ukKey 0x100) &&& ~~~0x8007_77FF) ||| (v &&& 0x8007_77FF)
      let y := d.setReg (ukKey 0x100) merged
      let lost (w : Bool) : Bool := d.dirGroup w != y.dirGroup w || !bit v 31
      let z := ([false, true].foldl (fun z w => if lost w then z.cutDir w (d.dirGroup w) else z) y).noteDirErr
      exec (.ukCtlWrite m v) s = toDev s (if [false, true].any (fun w => lost w && (d.link w).up) then z.sendTopo.forgetLost.pushCommits else z) ∧
        z.reg (ukKey 0x100) = merged ∧
        z.dirGroup false = (if bit v 14 then some (fld v 12 2) else none) ∧ z.dirGroup true = (if bit v 10 then some (fld v 8 2) else none) ∧
        ∀ w, (lost w = true → z.link w = Link.down) ∧ (lost w = false → z.link w = d.link w) ∧
          (∀ g, lost w = true → (d.link w).trained = true → d.dirGroup w = some g → z.rbit (lgKey g 0x104) 24 = false) ∧
          (∀ g, z.dirGroup w = some g → d.lgMode g ≠ 5 → z.rbit (ukKey 0x10C) 30 = true))) ∧
  (∀ (d : Dev) (west : Bool),
    let d1 := d.setLink west Link.down
    ((d.link west).trained = false → ∀ g, d.cutDir west g = d1) ∧
    ((d.link west).trained = true → d.cutDir west none = d1.incRf (ukKey 0x204) 0 32 1 ∧
      ∀ g, d.cutDir west (some g) = (d1.incRf (ukKey 0x204) 0 32 1).laneState g 0 false)) ∧
  (∀ (s : State) (west : Bool) (pl : List Byte), (s.dev.link west).trained = true →
    let d := s.dev
    (beAt pl 0 4 ≠ (d.reg (ukKey 0x104)).toNat ∨ beAt pl 4 1 % 8 = d.pos →
      exec (.hello west pl) s = toDev s ((d.tookFlits west 0 1).setRf (ukKey 0x10C) 31 1 1)) ∧
    (beAt pl 0 4 = (d.reg (ukKey 0x104)).toNat → beAt pl 4 1 % 8 ≠ d.pos → (d.link west).hello = true →
      exec (.hello west pl) s = toDev s (d.tookFlits west 0 1)) ∧
    (beAt pl 0 4 = (d.reg (ukKey 0x104)).toNat → beAt pl 4 1 % 8 ≠ d.pos → (d.link west).hello = false →
      ∃ w, exec (.hello west pl) s = toDev s w ∧ (w.link west).up = true)) ∧
  (∀ s : State, s.dev.rbit (ukKey 0x100) 31 = true →
    let d1 := s.dev.sendAll 0x02 (toBytes 1 s.dev.pos ++ toBytes 1 s.dev.uk.fullFor.toNat ++ toBytes 8 s.dev.mer)
    exec .beatSend s = toDev s { d1 with uk := { d1.uk with fullFor := 0 } }) ∧
  (∀ (s : State) (west : Bool) (src : Fin 8) (pl : List Byte), (s.dev.link west).trained = true →
    let d := s.dev
    let d1 := d.tookFlits west 0 1
    let d2 : Dev := { d1 with uk := { d1.uk with known := setBit d.uk.known src.val true } }
    let full := (BitVec.ofNat 8 (beAt pl 1 1)).getLsbD d.pos
    let m := BitVec.ofNat 16 (beAt pl 0 2)
    exec (.beat west src pl) s = toDev s (({ d2 with uk := { d2.uk with
      beats := SMap.put d.uk.beats src.val d.mer, repfull := setBit d.uk.repfull src.val full } } : Dev).passOn west src.val 0x02 pl).forgetLost.pushCommits ∧
    (src.val = d.pos ∨ SMap.find? d.uk.topos src.val = some pl → exec (.topo west src pl) s = toDev s d1) ∧
    (src.val ≠ d.pos → SMap.find? d.uk.topos src.val ≠ some pl → exec (.topo west src pl) s =
      toDev s (({ d2 with uk := { d2.uk with topo := d2.mergeTopo src.val m, topos := SMap.put d.uk.topos src.val pl } } : Dev).sendFlit (!west)
        ⟨0x03, src.val, 15, pl⟩).forgetLost.pushCommits)) ∧
  (∀ d : Dev, d.forgetLost = { d with uk := { d.uk with topos := d.forgetLost.uk.topos } } ∧
    ∀ t, SMap.find? d.forgetLost.uk.topos t = if (d.route t).isSome then SMap.find? d.uk.topos t else none) ∧
  (∀ (d : Dev) (t : Nat) (m : BitVec 16) (i : Nat), i < 8 →
    let said (j : Nat) : Prop := SMap.find? d.uk.topos j ≠ none
    (i = t ∨ i = d.prevPos t ∨ (¬ said t ∧ ¬ said i ∧ ¬ said (d.nextPos i)) → (d.mergeTopo t m).getLsbD i = m.getLsbD i) ∧
    (i ≠ t → i ≠ d.prevPos t → said t ∨ said i ∨ said (d.nextPos i) → (d.mergeTopo t m).getLsbD i = d.uk.topo.getLsbD i)) ∧
  (∀ (d : Dev) (west : Bool) (t : Nat) (vct : Byte) (pl : List Byte),
    let on := (if west then d.nextPos d.pos else d.prevPos d.pos)
    (∀ n, d.route t = some (west, n) → on ≠ t → d.passOn west t vct pl = d.sendFlit (!west) ⟨vct, t, 15, pl⟩) ∧
    ((∀ n, d.route t ≠ some (west, n)) ∨ on = t → d.passOn west t vct pl = d)) ∧
  (∀ (s : State) (src : Fin 8),
    let d := s.dev
    let lost (y : Dev) : Dev := ({ y with uk := { y.uk with beats := SMap.drop y.uk.beats src.val } }).forgetLost.pushCommits
    (d.fromDir src.val = none → exec (.leave src) s = toDev s d) ∧
    (∀ west, d.fromDir src.val = some west →
      let y := d.tookFlits west 0 1
      (SMap.find? d.uk.beats src.val = none → exec (.leave src) s = toDev s y) ∧
      (SMap.find? d.uk.beats src.val ≠ none → exec (.leave src) s =
        toDev s (lost ((y.fromDir src.val).elim y (fun dir => y.passOn dir src.val 0x04 (toBytes 1 src.val)))))) ∧
    (∀ b, SMap.find? d.uk.beats src.val = some b → b + 30_000 * d.rf (ukKey 0x100) 0 8 ≤ d.mer → exec (.memberLost src) s = toDev s (lost d)) ∧
    (∀ b, SMap.find? d.uk.beats src.val = some b → d.mer < b + 30_000 * d.rf (ukKey 0x100) 0 8 → exec (.memberLost src) s = toDev s d))

/-- Retry on a link (12 R318, Table 12.3): the SEQ acknowledged frees the flits kept up to it; credits returned add to their channel's, at most 32; a
NAK or the timer sends every flit still kept again, and a link whose oldest one has been replayed eight times without progress goes down; what waits
is then sent while it may be, each flit taking the next SEQ, a credit and a place in the replay buffer: control before commit before bulk, but a bulk
one after 63 others. A bad flit or a gap is answered with one NAK. Flits taken are acknowledged. A link that is not trained takes nothing. (Log
entry 67: a NAK that returns credits is IDLE's with its NAK bit; log entry 27: what a link that goes down gives up.) -/
def Obligations.RingRetry : Prop :=
  (∀ (l : Link) (ack : BitVec 12),
    (∀ k f, l.replay[k]? = some f → f.1 = ack → (∀ i g, i < k → l.replay[i]? = some g → g.1 ≠ ack) →
      l.acked ack = { l with replay := l.replay.drop (k + 1), tries := 0 }) ∧
    ((∀ f ∈ l.replay, f.1 ≠ ack) → l.acked ack = l)) ∧
  (∀ (l : Link) (crd : Byte),
    let n := crd.toNat % 64
    (crd.toNat / 64 = 0 → l.credited crd = { l with cr0 := min 32 (l.cr0 + n) }) ∧
    (crd.toNat / 64 = 1 → l.credited crd = { l with cr1 := min 32 (l.cr1 + n) }) ∧
    (crd.toNat / 64 = 2 → l.credited crd = { l with cr2 := min 32 (l.cr2 + n) }) ∧ (crd.toNat / 64 = 3 → l.credited crd = l)) ∧
  (∀ (s : State) (west : Bool),
    let d := s.dev
    let l := d.link west
    let freed (ack : BitVec 16) : Link := l.acked (BitVec.ofNat 12 (ack.toNat / 16))
    (l.trained = false → ∀ ack crd, ∀ e ∈ [Instr.replayTimeout west, .nak west ack, .idle west ack crd, .flitBadCrcOrGap west], exec e s = toDev s d) ∧
    (l.trained = true →
      exec (.replayTimeout west) s = toDev s (d.replay west) ∧
      (∀ ack, exec (.nak west ack) s = toDev s (((d.setLink west ((freed ack).credited 0)).replay west).pumpDir west)) ∧
      (∀ ack crd, let y := d.setLink west ((freed ack).credited crd)
        (ack.getLsbD 3 = false → exec (.idle west ack crd) s = toDev s (y.pumpDir west)) ∧
        (ack.getLsbD 3 = true → exec (.idle west ack crd) s = toDev s ((y.replay west).pumpDir west))) ∧
      (l.gap = false → exec (.flitBadCrcOrGap west) s = toDev s ((d.setLink west { l with gap := true }).sendIdle west true)) ∧
      (l.gap = true → exec (.flitBadCrcOrGap west) s = toDev s d))) ∧
  (∀ (d : Dev) (west : Bool),
    let l := d.link west
    (l.trained = false ∨ l.replay = [] → d.replay west = d) ∧
    (l.trained = true → l.replay ≠ [] → 8 ≤ l.tries → d.replay west = d.dirDown west) ∧
    (l.trained = true → l.replay ≠ [] → l.tries < 8 →
      (d.replay west).link west = { l with tries := l.tries + 1 } ∧
      (d.replay west).reg (ukKey 0x200) = setFld (d.reg (ukKey 0x200)) 0 32 (satAdd 32 (d.rf (ukKey 0x200) 0 32) 1) ∧
      (d.replay west).out = (l.replay.map (fun f => Out.flit west f.1 l.rxSeq false 0 f.2)).reverse ++ d.out) ∧
    (l.trained = true → let y := d.cutDir west (d.dirGroup west)
      d.dirDown west = if l.up then y.sendTopo.forgetLost.pushCommits else y) ∧
    (l.nextFlit = none → d.pumpDir west = d) ∧
    (∀ f, l.nextFlit = some f →
      d.pumpDir west = ((d.setLink west (l.sent f)).emit (.flit west l.txSeq l.rxSeq false l.crd f)).pumpDir west)) ∧
  (∀ (l : Link) (f : Flit), vcOf f.vct < 3 →
    let y := l.sent f
    y.txSeq = l.txSeq + 1 ∧ y.replay = l.replay ++ [(l.txSeq, f)] ∧ y.wait = l.wait.erase f ∧ y.credit (vcOf f.vct) = l.credit (vcOf f.vct) - 1 ∧
      (∀ vc, vc < 3 → vc ≠ vcOf f.vct → y.credit vc = l.credit vc) ∧
      ∀ vc, l.pick vc = some f → f ∈ l.wait ∧ vcOf f.vct = vc ∧ l.replay.length < 256 ∧ 0 < l.credit vc) ∧
  (∀ (d : Dev) (west nak : Bool),
    let l := d.link west
    (d.sendIdle west nak).out = .flit west 0 l.rxSeq nak l.crd ⟨0, d.pos, 15, []⟩ :: d.out ∧ ((d.sendIdle west nak).link west) = l.paid) ∧
  (∀ (d : Dev) (west : Bool) (vc n : Nat),
    ((d.tookFlits west vc n).link west).rxSeq = (d.link west).rxSeq + BitVec.ofNat 12 n ∧ ((d.tookFlits west vc n).link west).gap = false) ∧
  (∀ (l : Link) (f : Flit),
    (63 ≤ l.sinceBulk → l.pick 2 = some f → l.nextFlit = some f) ∧
    (l.sinceBulk < 63 ∨ l.pick 2 = none → l.pick 0 = some f → l.nextFlit = some f) ∧
    (l.sinceBulk < 63 ∨ l.pick 2 = none → l.pick 0 = none → l.pick 1 = some f → l.nextFlit = some f) ∧
    (l.pick 0 = none → l.pick 1 = none → l.nextFlit = l.pick 2))

/-- What the ring brings from a device over a link that is up (12 R320 to R325, R327; 13 R367): a flit for another device is sent on over its route; a
HEALTH record is logged (log entry 42); a remote request is made here and answered, a remote answer ends its request, and so does its time-out (the
layout of the two flits is log entry 41). Commits: a sealed entry that asks for replication waits as a commit, whose message, H(n − 1) and the
record, goes in at most five flits to each partner it has not gone to; a message from no member, with a hash that disagrees, or for which the replica
ring has no room (a ring of SIZE 0 never has any), is answered so; an entry already held is answered OK; any other is written, after a RUN record where it does not follow the last
one held, read back, held and answered OK (log entry 72: no answer where that fails); an OK of a live partner counts, and with enough of them the
item is answered with JSTATE 2; an answer that matches no open commit is LATE. -/
def Obligations.RingMessages : Prop :=
  (∀ (s : State) (src dst : Fin 8) (west : Bool), s.dev.fromDir src.val = some west → dst.val ≠ s.dev.pos →
    let d := s.dev
    let sent (vct : Byte) (ps : List (List Byte)) : Dev :=
      ps.foldl (fun z p => z.sendRoute ⟨vct, src.val, dst.val, p⟩) (d.tookFlits west (vct.toNat / 64) ps.length)
    ∀ pl : List Byte, exec (.healthFlit src dst pl) s = toDev s (sent 0x05 [pl]) ∧ exec (.cack src dst pl) s = toDev s (sent 0x51 [pl]) ∧
      exec (.cmsg src dst pl) s = toDev s (sent 0x50 (commitParts (beAt pl 34 1) (beAt pl 40 8) pl)) ∧
      exec (.rreq src dst pl) s = toDev s (sent 0xA0 [pl]) ∧ exec (.rrsp src dst pl) s = toDev s (sent 0xA1 [pl])) ∧
  (∀ (s : State) (src dst : Fin 8), s.dev.fromDir src.val = none → ∀ pl : List Byte,
    ∀ e ∈ [Instr.healthFlit src dst pl, .cmsg src dst pl, .cack src dst pl, .rreq src dst pl, .rrsp src dst pl], exec e s = toDev s s.dev) ∧
  (∀ (s : State) (src dst : Fin 8) (west : Bool), s.dev.fromDir src.val = some west → dst.val = s.dev.pos →
    let d := s.dev
    let y := d.tookFlits west 2 1
    (∀ r, exec (.healthFlit src dst r) s = toDev s ((d.tookFlits west 0 1).healthLog (padTo 32 r))) ∧
    (∀ msg, exec (.cmsg src dst msg) s =
      toDev s ((d.tookFlits west 1 (commitParts (beAt msg 34 1) (beAt msg 40 8) msg).length).takeCommit src.val msg)) ∧
    (∀ pl, exec (.cack src dst pl) s = toDev s ((d.tookFlits west 1 1).commitAck src.val (beAt pl 0 1) (beAt pl 1 1) (beAt pl 4 8))) ∧
    (∀ pl z ok, beAt pl 1 1 % 2 = 1 →
      y.busWrite s.fuse (.peer src) (beAt pl 2 3 % 2 ^ 23 / 4096) (beAt pl 2 3 % 2 ^ 23 % 4096) 0xF (BitVec.ofNat 32 (beAt pl 5 4)) = (z, ok) →
      exec (.rreq src dst pl) s = toDev s (z.sendTo src.val 0xA1 (toBytes 1 (beAt pl 0 1) ++ toBytes 1 (if ok then 0 else 1) ++ toBytes 4 0))) ∧
    (∀ pl z v, beAt pl 1 1 % 2 = 0 → y.busRead s.fuse (.peer src) (beAt pl 2 3 % 2 ^ 23 / 4096) (beAt pl 2 3 % 2 ^ 23 % 4096) = (z, some v) →
      exec (.rreq src dst pl) s = toDev s (z.sendTo src.val 0xA1 (toBytes 1 (beAt pl 0 1) ++ toBytes 1 0 ++ toBytes 4 v.toNat))) ∧
    (∀ pl r, d.uk.remote.find? (fun x => x.tag == beAt pl 0 1 && x.dev == src.val) = some r →
      let y1 : Dev := { y with uk := { y.uk with remote := y.uk.remote.filter (fun x => x != r) } }
      exec (.rrsp src dst pl) s = toDev s (if beAt pl 1 1 = 0 then (if r.read then y1.emit (.hostRead (toBytes 4 (beAt pl 2 4))) else y1)
        else y1.hostFail (if r.read then some 4 else none)))) ∧
  (∀ (d : Dev) (t : Nat) (msg : List Byte), t < 8 →
    let j := slice msg 32 64
    let seq := beAt j 8 8
    (d.rbit (ukKey 0x108) t = false → d.takeCommit t msg = d.sendAck t (beAt j 2 1) 3 seq) ∧
    (d.rbit (ukKey 0x108) t = true → sha256 (slice msg 96 (beAt j 6 2)) ≠ slice j 32 32 → d.takeCommit t msg = d.sendAck t (beAt j 2 1) 1 seq) ∧
    let hp := slice msg 0 32
    let h := sha256 (hp ++ j)
    let held := SMap.get [] d.cairn.reps (64 * t + beAt j 2 1 % 64)
    let follows := ∃ e, held.head? = some e ∧ e.2 = hp
    let size := d.rf (repKey t 4) 0 16 * 65536
    let base := d.rf (repKey t 0) 0 22 * 4096
    let room (recs : List (List Byte)) := replicaNeed size (d.reg (repKey t 8)).toNat recs < ringFree size (d.reg (repKey t 8)).toNat (d.reg (repKey t 12)).toNat
    (d.rbit (ukKey 0x108) t = true → sha256 (slice msg 96 (beAt j 6 2)) = slice j 32 32 →
      let trailer := slice msg (96 + (beAt j 6 2 + 63) / 64 * 64) 32
      (trailer ≠ h → d.takeCommit t msg = d.sendAck t (beAt j 2 1) 1 seq) ∧
      (trailer = h → size ≠ 0 → (seq, h) ∈ held → d.takeCommit t msg = d.sendAck t (beAt j 2 1) 0 seq) ∧
      (trailer = h → size = 0 → d.takeCommit t msg =
        ({ d with uk := { d.uk with fullFor := d.uk.fullFor ||| BitVec.ofNat 8 (2 ^ t) } } : Dev).sendAck t (beAt j 2 1) 2 seq) ∧
      (trailer = h → size ≠ 0 → (seq, h) ∉ held → ∀ recs : List (List Byte),
        (follows → recs = [slice msg 32 (msg.length - 32)]) →
        (¬follows → recs = [toBytes 2 0x5255 ++ toBytes 1 t ++ toBytes 1 (beAt j 2 1) ++ zeros 4 ++ toBytes 8 seq ++ hp ++ zeros 16,
          slice msg 32 (msg.length - 32)]) →
        (¬room recs → d.takeCommit t msg =
          ({ d with uk := { d.uk with fullFor := d.uk.fullFor ||| BitVec.ofNat 8 (2 ^ t) } } : Dev).sendAck t (beAt j 2 1) 2 seq) ∧
        (∀ y, room recs → d.writeReplica t recs = (y, false) → d.takeCommit t msg = y) ∧
        (∀ y, room recs → d.writeReplica t recs = (y, true) →
          let wr := (y.reg (repKey t 8)).toNat
          let back := y.fabRead cairnReq (base + (if wr = 0 then size else wr) - (msg.length - 32)) (msg.length - 32)
          (∀ z e, back = (z, .error e) → d.takeCommit t msg = z) ∧
          (∀ z bs, back = (z, .ok bs) → d.takeCommit t msg = ({ z with cairn := { z.cairn with
            reps := SMap.put z.cairn.reps (64 * t + beAt j 2 1 % 64) ((seq, h) :: held) } } : Dev).sendAck t (beAt j 2 1) 0 seq))))) ∧
  (∀ (d : Dev) (t : Nat) (r : List Byte) (rs : List (List Byte)),
    let w := d.ringWrite (d.rf (repKey t 0) 0 22 * 4096) (d.rf (repKey t 4) 0 16 * 65536) (d.reg (repKey t 8)).toNat r
    d.writeReplica t [] = (d, true) ∧ (w.2 = none → d.writeReplica t (r :: rs) = (w.1, false)) ∧
      ∀ wr, w.2 = some wr → d.writeReplica t (r :: rs) = (w.1.setReg (repKey t 8) (BitVec.ofNat 32 wr)).writeReplica t rs) ∧
  (∀ (d : Dev) (n : Nat) (x : Item) (wr : Nat), x.chain < 64 → d.chState x.chain ≠ 0 → x.jlost = false → x.rep ≠ 0 → d.item? n = some x →
    let c := x.chain
    let seq := d.chSeq c + 1
    let j := entryHeader 0x4A45 c d.pos x.q x.jtext.length seq x.tin d.mer (sha256 x.jtext)
    let h := sha256 ((d.chain c).h ++ j)
    let record := entryRecord j x.jtext h seq
    (d.ringWrite (d.chBase c) (d.chSize c) (d.chWr c) record).2 = some wr →
    (d.ringWrite (d.chBase c) (d.chSize c) (d.chWr c) record).1.ringBack (d.chBase c) (d.chSize c) wr record.length =
      ((d.ringWrite (d.chBase c) (d.chSize c) (d.chWr c) record).1.ringBack (d.chBase c) (d.chSize c) wr record.length |>.1, true) →
    ∃ y : Dev, d.sealItem n x = y.pushCommit n false ∧ (y.chain c).h = h ∧ y.chSeq c = seq % 2 ^ 64 ∧
      y.item? n = some { x with jstate := 1, phase := .commit, jseq := seq, msg := (d.chain c).h ++ record, parts := [], oks := [], mem := d.ukMembers
                                tcommit := d.mer + tR x.rep }) ∧
  (∀ (d : Dev) (n : Nat) (x : Item) (moved : Bool), d.item? n = some x → x.phase = .commit →
    let need := partnersNeeded x.rep
    let oks := x.oks.filter (d.liveIn x.mem)
    let new := (d.partnersIn x.mem x.rep).filter (fun t => !x.parts.contains t && !x.oks.contains t)
    (need ≤ oks.length → d.pushCommit n moved = (d.modItem n (fun y => { y with jstate := 2 })).finish n) ∧
    (oks.length < need → d.pushCommit n moved = new.foldl (fun y t => (commitParts x.chain x.jseq x.msg).foldl (fun z p => z.sendTo t 0x50 p) y)
      ((if moved && new ≠ [] then d.incRf (ukKey 0x214) 0 32 1 else d).modItem n (fun y => { y with parts := y.parts ++ new })))) ∧
  (∀ (chain seq : Nat) (msg : List Byte), msg.length ≤ 1200 →
    let ps := commitParts chain seq msg
    ps.flatMap (fun p => p.drop 4) = msg ∧ ps.length ≤ 5 ∧
      ∀ i p, ps[i]? = some p → p.length ≤ 244 ∧ p.take 4 = toBytes 1 chain ++ toBytes 1 (i * 16 + ps.length) ++ toBytes 2 seq) ∧
  (∀ (d : Dev) (mem : BitVec 8) (rep t : Nat), t ∈ d.partnersIn mem rep →
    d.liveIn mem t = true ∧ d.uk.repfull.getLsbD t = false ∧ ∃ w hops, d.route t = some (w, hops) ∧ hops ≤ (if rep = 1 then 3 else 5)) ∧
  (∀ (d : Dev) (t chain status seq : Nat),
    let open_ := d.itemsWhere (fun x => x.phase == .commit && x.chain == chain && x.jseq == seq)
    (open_ = [] → d.commitAck t chain status seq = d.incRf (ukKey 0x208) 0 32 1) ∧
    (∀ n x, open_.head? = some (n, x) →
      (d.liveIn x.mem t = true → d.commitAck t chain 0 seq =
        (d.modItem n (fun y => { y with oks := t :: y.oks.filter (fun u => u != t) })).pushCommit n true) ∧
      (d.liveIn x.mem t = false → d.commitAck t chain 0 seq = d) ∧
      d.commitAck t chain 1 seq = d.incRf (ukKey 0x20C) 0 32 1 ∧ d.commitAck t chain 2 seq = d.incRf (ukKey 0x210) 0 32 1 ∧
      (3 ≤ status → d.commitAck t chain status seq = d))) ∧
  (∀ (s : State) (tag : Nat) (r : RemoteAcc), s.dev.uk.remote.find? (fun x => x.tag == tag) = some r →
    exec (.remoteAccessTimeout tag) s = toDev s
      (({ s.dev with uk := { s.dev.uk with remote := s.dev.uk.remote.filter (fun x => x != r) } }).hostFail (if r.read then some 4 else none))) ∧
  (∀ (s : State) (off : Nat) (wr : Option W32), s.dev.mode ≠ .datum →
    let d := s.dev
    let t := d.rf (ukKey 0x110) 0 3
    (d.live t = false → exec (.remoteWindowAccess off wr) s = toDev s (d.hostFail (if wr.isNone then some 4 else none))) ∧
    (d.live t = true → exec (.remoteWindowAccess off wr) s = toDev s (({ d with uk := { d.uk with
      remote := d.uk.remote ++ [RemoteAcc.mk d.uk.nextTag wr.isNone t], nextTag := (d.uk.nextTag + 1) % 256 } }).sendTo t 0xA0
        (rreqBytes d.uk.nextTag (off % 2 ^ 23) wr))))

/-! ### The host port -/

/-- The PCIe port (12 R328 to R333): link down, a reset and D3hot stop the stream and hold messages; no link comes up while the
port's receivers lack their termination (15 R399, R400; log entry 66); link up and D0 send what is pending; a vector's
entry takes its message and is unmasked where the host may reach page MBX; a BAR4 access inside its window reads or writes the deep store, or is
answered with an error; a read of a word of BAR2 gives what it holds, a write of MBX_RES or MBX_DATA there is WRITE_RO, and a read of a register
that its slot denies gives 0 (log entry 13: these reads are BAR4_ACCESS's, at offsets from 2^30 on); a word of the function's configuration space is
read, and written: the MSI-X enable and function mask, D0 and D3hot, Extended Tag and Max_Payload_Size, AER's status bits (log entry 73: the places
of these registers, and how a host reaches them); HIRQ_SET sets bits of HIRQ_PEND. (Log entry 46: an access is taken whatever the link's state; log
entry 68: the words of BAR2; log entry 59: a GO of a mailbox whose queue is off or in error sets REJ.) Mailboxes (12 R334 to R337; 08 R215), where
the host may reach page MBX: a free one takes request bytes; GO on an enabled free one with 1 to 256 bytes makes the item and is busy; an ACK with
the result's number frees it; anything else sets REJ, which a 1 to MBX_STS.REJ clears (log entry 13: that write is REGISTER_WRITE's, on a page from
2048 on). -/
def Obligations.HostPort : Prop :=
  (∀ s : State, s.dev.mode ≠ .datum →
    let d := s.dev
    let out : Dev := { d with pci := { d.pci with
      up := false, msixEn := false, msixMask := false, d3 := false, speed := 0, width := 0, mps := 128, extTag := false, bars := [], aerCor := 0,
      aerUnc := 0 } }
    exec .pcieLinkDown s = toDev s out.stopStream ∧ exec .perstN s = toDev s out.stopStream ∧
    (d.board.aon = false ∨ d.rbit railSts 5 = false → ∀ sp wd mps, exec (.pcieLinkUp sp wd mps) s = toDev s d) ∧
    (d.board.aon = true → d.rbit railSts 5 = true → ∀ sp wd (mps : Fin 3), exec (.pcieLinkUp sp wd mps) s =
      toDev s (({ d with pci := { d.pci with
        up := true, msixEn := true, msixMask := false, d3 := false, speed := sp, width := wd, mps := 128 * 2 ^ mps.val } } : Dev).sendPending).restream)) ∧
  (∀ s : State, s.dev.pci.up = true →
    let d := s.dev
    let y (e : Bool) : Dev := { d with pci := { d.pci with d3 := e } }
    (d.pci.d3 = false → exec (.d3hot true) s = toDev s (y true).stopStream) ∧
    (d.pci.d3 = true → exec (.d3hot false) s = toDev s ((y false).sendPending).restream) ∧
    (∀ e, d.pci.d3 = e → exec (.d3hot e) s = toDev s d)) ∧
  (∀ (d : Dev) (v : Nat), (d.pci.up = false ∨ d.pci.msixEn = false ∨ d.pci.msixMask = true ∨ d.pci.d3 = true ∨ v ∉ d.pci.unmasked) → d.mode ≠ .datum →
    v ∈ (d.sendMsix v).pci.pend ∧ (d.sendMsix v).out = d.out) ∧
  (∀ (d : Dev) (v : Nat), d.pci.up = true → d.pci.msixEn = true → d.pci.msixMask = false → d.pci.d3 = false → v ∈ d.pci.unmasked →
    d.sendMsix v = d.emit (.msix v (SMap.get (0, 0) d.pci.table v).1 (SMap.get (0, 0) d.pci.table v).2)) ∧
  (∀ (s : State) (v : Fin 2048) (addr : W64) (data : W32), s.dev.mode ≠ .datum →
    let d := s.dev
    grantOf (d.reg (rk .gslot 0 (0x100 + 4 * 0x37))) 0 (d.regReq .host) .write = none →
    exec (.msixUnmask v addr data) s = toDev s ({ d with pci := { d.pci with
      table := SMap.put d.pci.table v.val (addr, data)
      unmasked := if d.pci.unmasked.contains v.val then d.pci.unmasked else d.pci.unmasked ++ [v.val] } }).sendPending) ∧
  (∀ (s : State) (off : Nat), s.dev.mode ≠ .datum →
    let d := s.dev
    let a := d.rf (pcKey 0x104) 0 4 * 2 ^ 30 + off
    (∀ bs : List Byte, bs ≠ [] → off + bs.length ≤ 2 ^ 30 →
      (d.rangeFault a bs.length ≠ none → ∀ n, exec (.bar4Access off (some bs) n) s = toDev s (d.errTo .host)) ∧
      (∀ y n, d.rangeFault a bs.length = none → d.fabWrite (d.regReq .host) a bs = (y, none) → exec (.bar4Access off (some bs) n) s = toDev s y) ∧
      (∀ y e n, d.rangeFault a bs.length = none → d.fabWrite (d.regReq .host) a bs = (y, some e) →
        exec (.bar4Access off (some bs) n) s = toDev s (y.errTo .host))) ∧
    (∀ n, 0 < n → off + n ≤ 2 ^ 30 → d.rangeFault a n ≠ none →
      exec (.bar4Access off none n) s = toDev s ((d.errTo .host).emit (.hostRead (zeros n)))) ∧
    (∀ n y bs, 0 < n → off + n ≤ 2 ^ 30 → d.rangeFault a n = none → d.fabRead (d.regReq .host) a n = (y, .ok bs) →
      exec (.bar4Access off none n) s = toDev s (y.emit (.hostRead bs)))) ∧
  (∀ (s : State) (o : Nat), s.dev.mode ≠ .datum →
    let d := s.dev
    (o < 2 ^ 15 → o % 4 = 0 → grantOf (d.reg (rk .gslot 0 (0x100 + 4 * 0x37))) 0 (d.regReq .host) .read = none →
      exec (.bar4Access (2 ^ 30 + o) none 4) s = toDev s (d.emit (.hostRead (laneBytes (d.bar2View o)))) ∧
      ((d.mbx (o / 0x200)).result = none → 0x110 ≤ o % 0x200 → o % 0x200 < 0x200 → d.bar2View o = 0)) ∧
    (∀ y, o < 2 ^ 23 → d.busRead s.fuse .host (o / 4096) (o % 4096 / 4 * 4) = (y, none) →
      exec (.bar4Access (2 ^ 31 + o) none 4) s = toDev s (y.emit (.hostRead (zeros 4))))) ∧
  (∀ (s : State) (o n : Nat) (bs : List Byte), s.dev.mode ≠ .datum → o < 4096 → o % 4 = 0 → bs.length = 4 →
    let d := s.dev
    let v := BitVec.ofNat 32 (ofBytes bs.reverse)
    let write := exec (.bar4Access (3 * 2 ^ 30 + o) (some bs) n) s
    (d.pci.up = false → write = toDev s d ∧ exec (.bar4Access (3 * 2 ^ 30 + o) none 4) s = toDev s d) ∧
    (d.pci.up = true →
      exec (.bar4Access (3 * 2 ^ 30 + o) none 4) s = toDev s (d.emit (.hostRead (laneBytes (d.pci.config o)))) ∧
      (o = 0x90 → write = toDev s ({ d with pci := { d.pci with msixEn := bit v 31, msixMask := bit v 30 } } : Dev).sendPending) ∧
      (o = 0x44 → fld v 0 2 = 3 → write = exec (.d3hot true) s) ∧ (o = 0x44 → fld v 0 2 = 0 → write = exec (.d3hot false) s) ∧
      (∀ k : Fin 3, o = 0x58 → fld v 5 3 = k.val →
        write = toDev s ({ d with pci := { d.pci with extTag := bit v 8, mps := 128 * 2 ^ k.val } } : Dev).sendPending) ∧
      (o = 0x104 → write = toDev s ({ d with pci := { d.pci with aerUnc := d.pci.aerUnc &&& ~~~v } } : Dev).sendPending) ∧
      (o = 0x110 → write = toDev s ({ d with pci := { d.pci with aerCor := d.pci.aerCor &&& ~~~v } } : Dev).sendPending))) ∧
  (∀ p : Pci, p.config 0 = BitVec.ofNat 32 (0x9640 * 2 ^ 16 + Config.vendorId.toNat) ∧ fld (p.config 8) 8 24 = 0x0B_4000 ∧
    bit (p.config 0x90) 31 = p.msixEn ∧ bit (p.config 0x90) 30 = p.msixMask ∧ fld (p.config 0x90) 16 11 = 2047 ∧ bit (p.config 0x58) 8 = p.extTag ∧
    fld (p.config 0x44) 0 2 = (if p.d3 then 3 else 0) ∧ p.config 0x104 = p.aerUnc ∧ p.config 0x110 = p.aerCor) ∧
  (∀ (d : Dev) (mb : Fin 64) (o : Nat) (be : BitVec 4) (v : W32), o % 4 = 0 → o = 0x104 ∨ (0x110 ≤ o ∧ o < 0x200) →
    d.bar2Word (0x200 * mb.val + o) be v = d.logErr (PageT.first .mbx) .writeRo true 0x300 (PageT.first .mbx) (0x200 * mb.val + o)) ∧
  (∀ (s : State) (m : RegMaster) (i : Fin 8) (v : W32), s.dev.writable m (PageT.first .mbx) (0x200 + 4 * i.val) = true →
    let k := rk .mbx 0 (0x220 + 4 * i.val)
    exec (.hirqSet m i v) s = toDev s (s.dev.setReg k (s.dev.reg k ||| v))) ∧
  (∀ (s : State) (mb : Fin 64), s.dev.mode ≠ .datum →
    grantOf (s.dev.reg (rk .gslot 0 (0x100 + 4 * 0x37))) 0 (s.dev.regReq .host) .write = none →
    let d := s.dev
    let x := d.mbx mb.val
    let k := rk .mbx 0 (0x100 + 4 * mb.val)
    (∀ (off : Fin 256) (bs : List Byte), x.free = true → exec (.mbxReqWrite mb off bs) s =
      toDev s (d.setMbx mb.val { x with req := ((padTo 256 x.req).take off.val ++ bs ++ (padTo 256 x.req).drop (off.val + bs.length)).take 256 })) ∧
    (∀ off bs, x.free = false → exec (.mbxReqWrite mb off bs) s = toDev s (d.setMbx mb.val { x with rej := true })) ∧
    (∀ v : W32, bit v 31 = true →
      let n := fld v 0 9
      (d.makesItems = true → d.rbit k 31 = true → d.rbit k 30 = false → x.free = true → 1 ≤ n → n ≤ 256 →
        exec (.mbxGo mb v) s =
          toDev s ((d.setMbx mb.val { x with seq := x.nextSeq, busy := true }).mbxItem mb.val (d.rf k 16 13) ((padTo 256 x.req).take n))) ∧
      (d.makesItems = false ∨ d.rbit k 31 = false ∨ d.rbit k 30 = true ∨ x.free = false ∨ n = 0 ∨ 256 < n →
        exec (.mbxGo mb v) s = toDev s (d.setMbx mb.val { x with rej := true }))) ∧
    (∀ v : W32, bit v 31 = true → x.result ≠ none → fld v 0 16 = x.seq.toNat →
      exec (.mbxAck mb v) s = toDev s (d.setMbx mb.val { x with result := none })) ∧
    (∀ v : W32, bit v 31 = false ∨ x.result = none ∨ fld v 0 16 ≠ x.seq.toNat →
      exec (.mbxAck mb v) s = toDev s (d.setMbx mb.val { x with rej := true })) ∧
    (∀ v : W32, bit v 30 = true → ∀ h : 2048 + mb.val < 2304,
      exec (.registerWrite .host ⟨2048 + mb.val, h⟩ 0x10C 0xF v) s = toDev s (d.setMbx mb.val { x with rej := false }))) ∧
  (∀ x : Mbx, x.result = none → x.res = 0 ∧ x.data = zeros 240) ∧
  (∀ d : Dev, d.errTo .host = (({ d.setRf (rk .pcie 0 0x10C) 31 1 1 with pci := { d.pci with
    aerCor := d.pci.aerCor ||| 0x2000, aerUnc := d.pci.aerUnc ||| 0x8000 } } : Dev).emit .errCor).emit (.errResponse 0x300))

/-! ### Attestation, Survey and the board's ports -/

/-- Attestation and Survey (14 R380 to R388): AT_CTL.GO starts a report of the state at that moment, another meanwhile sets BUSYERR; its signature
ends it. A challenge makes a nonce, or LOCKOUT after eight failures; a submission uses it up and opens a session only when every check passes, the
mode and no transition, the fuse, 1,988 words, the fields, SERIAL and NONCE, the key, the signature, the first to fail giving its status; END and
the session's time close it; a nonce dies after 60 s. -/
def Obligations.AttestAndSurvey : Prop :=
  (∀ (s : State) (m : RegMaster), s.dev.writable m (PageT.first .cartouche) 0x1A0 = true →
    let d := s.dev
    (d.att.busy ≠ none → exec (.atGo m) s = toDev s (d.setRf (cartKey 0x1A4) 29 1 1)) ∧
    (d.att.busy = none → exec (.atGo m) s = toDev s { (d.setRf (cartKey 0x1A4) 31 1 1).setRf (cartKey 0x1A4) 30 1 0 with
      att := ⟨some (reportHeader s.fuse d), d.digestDue, []⟩ })) ∧
  (∀ (s : State) (h : List Byte), s.dev.att.busy = some h →
    (s.dev.att.waits = true ∨ s.dev.cairn.ckpt ≠ none → exec .attestationSigned s = toDev s s.dev) ∧
    (s.dev.att.waits = false → s.dev.cairn.ckpt = none →
      ∃ w, exec .attestationSigned s = toDev s w ∧ w.att = ⟨none, false, h ++ idSign h⟩ ∧ w.rbit (cartKey 0x1A4) 31 = false ∧
        w.rbit (cartKey 0x1A4) 30 = true)) ∧
  (∀ (s : State) (m : RegMaster), s.dev.writable m (PageT.first .survey) 0x100 = true →
    let d := s.dev
    (d.sv.fails < 8 → exec (.svChal m) s =
      toDev s { d with sv := { d.sv with nonce := some (Config.entropy d.free, d.mer), words := [] }, free := d.free + 1 }) ∧
    (8 ≤ d.sv.fails → exec (.svChal m) s = toDev s (d.setRf svSts 0 8 8)) ∧
    (let r := d.sv.words.flatMap (fun w => toBytes 4 w.toNat)
      let y : Dev := { d with sv := { d.sv with nonce := none } }
      (∀ st, svStatus s.fuse d r = some st →
        exec (.svSubmit m) s = toDev s { y.setRf svSts 0 8 st with sv := { y.sv with fails := min 8 (d.sv.fails + 1) } }) ∧
      (svStatus s.fuse d r = none → ∃ w, exec (.svSubmit m) s = toDev s w ∧ w.mode = .survey ∧ w.survey = some (d.mode, beAt r 6 2) ∧
        w.sv.till = d.mer + beAt r 0x30 4 * 1_000_000_000 ∧ w.rf svSts 0 8 = 0 ∧ w.sv.nonce = none)) ∧
    (∀ p rights, d.survey = some (p, rights) → (m = .host ∨ m = .debug) →
      exec (.svEnd m) s = toDev s (({ d with survey := none } : Dev).toMode p 8)) ∧
    (m ≠ .host → m ≠ .debug → exec (.svEnd m) s = toDev s d)) ∧
  (∀ (s : State) (m : RegMaster) (v : W32), s.dev.writable m (PageT.first .survey) 0x140 = true →
    exec (.svDataWrite m v) s = toDev s { s.dev with sv := { s.dev.sv with words := s.dev.sv.words ++ [v] } }) ∧
  (∀ (fz : Fuses) (d : Dev) (r : List Byte),
    let modeOk := (d.mode = .standby ∨ d.mode = .safe) ∧ d.inTransit = false
    let fieldsOk := beAt r 0 4 = 0x414B5356 ∧ beAt r 4 2 = 1 ∧ beAt r 6 2 < 16 ∧ 1 ≤ beAt r 0x30 4 ∧ beAt r 0x30 4 ≤ 86400 ∧ beAt r 0x34 12 = 0
    let nonceOk := slice r 8 8 = toBytes 8 Config.serial.toNat ∧
      ∃ n t, d.sv.nonce = some (n, t) ∧ d.mer < t + 60_000_000_000 ∧ slice r 0x10 32 = toBytes 32 n.toNat
    let keyOk := sha256 (slice r 0x40 32) = toBytes 32 (if fz.ownerHash = 0 then Config.rootHash else fz.ownerHash).toNat
    let sigOk := slhVerify (slice r 0x40 32) (slice r 0 0x60) (slice r 0x60 7856) = true
    (¬modeOk → svStatus fz d r = some 1) ∧
    (modeOk → fz.surveyDis = true → svStatus fz d r = some 2) ∧
    (modeOk → fz.surveyDis = false → d.sv.words.length ≠ 1988 → svStatus fz d r = some 3) ∧
    (modeOk → fz.surveyDis = false → d.sv.words.length = 1988 →
      (¬fieldsOk → svStatus fz d r = some 4) ∧
      (fieldsOk → ¬nonceOk → svStatus fz d r = some 5) ∧
      (fieldsOk → nonceOk → ¬keyOk → svStatus fz d r = some 6) ∧
      (fieldsOk → nonceOk → keyOk → ¬sigOk → svStatus fz d r = some 7) ∧
      (fieldsOk → nonceOk → keyOk → sigOk → svStatus fz d r = none))) ∧
  (∀ (s : State) (n : BitVec 256) (t : Nat), s.dev.sv.nonce = some (n, t) →
    exec .nonceExpiry s = toDev s (if t + 60_000_000_000 ≤ s.dev.mer then { s.dev with sv := { s.dev.sv with nonce := none } } else s.dev)) ∧
  (∀ (s : State) (p : Mode) (rights : Nat), s.dev.survey = some (p, rights) →
    exec .sessionExpiry s = toDev s (if s.dev.sv.till ≤ s.dev.mer then ({ s.dev with survey := none } : Dev).toMode p 8 else s.dev))

/-- JTAG and I2C (14 R384 to R388, Table 14.8; 15 R407, Table 15.11), outside DATUM: each instruction is loaded and shifts its register, least
significant bit first; EXTEST, CLAMP and HIGHZ give way to BYPASS with JREF while items may run, and else drive the output balls (log entry 66: the
order of the 35 cells, and that a level the model does not know is captured as a free value); SVCHAL's 1 challenges, and the next eight shifts give
the nonce; DBGMEM shifts 80 bits out, DBGCORE 48 (log entry 18: the places of data, address and write flag in the 80, the low 48 bits of the core's
register), and free bits where the session lacks their right or the read is denied; a denied page read gives 0. Without VDD_IO no ball is driven or
pulled, and with it the pulls of Table 15.5 act (log entry 66). DBGCORE reads the cores in SURVEY entered from SAFE, where all are stopped.
The I2C target reads the status block from its index, wrapping at 16; only the first byte of a write is acknowledged. -/
def Obligations.BoardPorts : Prop :=
  (∀ s : State, s.dev.mode ≠ .datum →
    let d := s.dev
    let at_ (c : Byte) : Dev := { d with board := { d.board with jtag := c } }
    let byp : Dev := { ({ d.setRf svSts 30 1 1 with board := { d.board with jtag := 0xFF } } : Dev) with out := .jtag [false] :: d.out }
    exec .bypass s = toDev s ((at_ 0xFF).emit (.jtag [false])) ∧
    exec .idcode s = toDev s ((at_ 1).emit (.jtag (shiftOut 32 (Config.stepMajor.toNat % 16 * 2 ^ 28 + 0x9640 * 2 ^ 12 + 0x2B3 * 2 + 1)))) ∧
    (∀ e ∈ [(Instr.clamp, (3 : Byte)), (.highz, 4)], exec e.1 s = toDev s (if d.makesItems then byp else (at_ e.2).emit (.jtag [false]))) ∧
    (∀ v, d.makesItems = true → exec (.extest v) s = toDev s byp) ∧
    (∀ e ∈ [((fun v => Instr.extest v), (0 : Byte)), ((fun v => .samplePreload v), 2)], ∀ v : List Bool, e.2 = 2 ∨ d.makesItems = false →
      ∃ w, ∃ bs : List Bool, exec (e.1 v) s = toDev s w ∧ bs.length = 35 ∧ w.board.boundary = (bs ++ v).drop v.length ∧ w.board.jtag = e.2 ∧
        w.out = .jtag ((bs ++ v).take v.length) :: d.out ∧
        ∀ (i : Nat) b lv, balls[i]? = some b → (at_ e.2).ballLevel b = some lv → bs[i]? = some lv) ∧
    (let chal (v : W32) (z : Dev) : Dev :=
        if v = 1 then { z.challenge with board := { z.challenge.board with svNext := 0 } } else z
     (∀ v w, (at_ 0x10).nonceWords[d.board.svNext]? = some w →
        exec (.svchal v) s = toDev s (chal v (({ d with board := { d.board with jtag := 0x10, svNext := d.board.svNext + 1 } } : Dev).emit
          (.jtag (shiftOut 32 w.toNat))))) ∧
     (∀ v, (at_ 0x10).nonceWords[d.board.svNext]? = none → ∃ bs : List Bool, bs.length = 32 ∧
        exec (.svchal v) s = toDev s (chal v (({ at_ 0x10 with free := d.free + 1 } : Dev).emit (.jtag bs))))) ∧
    (∀ v : W32, d.sv.words.length ≠ 1987 →
      exec (.svresp v) s = toDev s { at_ 0x11 with sv := { d.sv with words := d.sv.words ++ [v] } }) ∧
    (∀ v : W32, d.sv.words.length = 1987 →
      exec (.svresp v) s = toDev s (({ at_ 0x11 with sv := { d.sv with words := d.sv.words ++ [v] } } : Dev).submit s.fuse)) ∧
    exec .svstat s = toDev s ((at_ 0x12).emit (.jtag (shiftOut 32 (((at_ 0x12).viewSurvey 0x104).getD 0).toNat))) ∧
    (let open_ (y : Dev) (n : Nat) (cmd : Instr) : Prop :=
        ∃ (bs : List Bool) (k : Nat), bs.length = n ∧ exec cmd s = toDev s (({ y with free := k } : Dev).emit (.jtag bs))
     let mem (a : Nat) (wr : Bool) (data : Nat) : List Bool := shiftOut 32 data ++ shiftOut 40 a ++ shiftOut 8 (if wr then 1 else 0)
     (∀ a v, d.survey = none → open_ (at_ 0x20) 80 (.dbgmem a v)) ∧
     (∀ a v p rights, d.survey = some (p, rights) → rights / (if v = none then 1 else 2) % 2 = 0 → open_ (at_ 0x20) 80 (.dbgmem a v)) ∧
     (∀ a p rights, d.survey = some (p, rights) → rights % 2 = 1 → pageAt a.toNat = none → d.rangeFault a.toNat 4 = none →
       (∀ y bs, (at_ 0x20).fabRead (d.regReq .debug) a.toNat 4 = (y, .ok bs) →
         exec (.dbgmem a none) s = toDev s (y.emit (.jtag (mem a.toNat false (ofBytes bs))))) ∧
       (∀ y e, (at_ 0x20).fabRead (d.regReq .debug) a.toNat 4 = (y, .error e) → open_ (y.errTo .debug) 80 (.dbgmem a none))) ∧
     (∀ a page off p rights, d.survey = some (p, rights) → rights % 2 = 1 → pageAt a.toNat = some (page, off) →
       (∀ y v, (at_ 0x20).busRead s.fuse .debug page off = (y, some v) →
         exec (.dbgmem a none) s = toDev s (y.emit (.jtag (mem a.toNat false v.toNat)))) ∧
       (∀ y, (at_ 0x20).busRead s.fuse .debug page off = (y, none) → exec (.dbgmem a none) s = toDev s (y.emit (.jtag (mem a.toNat false 0))))) ∧
     (∀ a v p rights, d.survey = some (p, rights) → rights / 2 % 2 = 1 →
       (∀ y, pageAt a.toNat = none → d.rangeFault a.toNat 4 = none →
         (at_ 0x20).fabWrite (d.regReq .debug) a.toNat (toBytes 4 v.toNat) = (y, none) →
         exec (.dbgmem a (some v)) s = toDev s (y.emit (.jtag (mem a.toNat true v.toNat)))) ∧
       (∀ page off, pageAt a.toNat = some (page, off) → exec (.dbgmem a (some v)) s =
         toDev s (((at_ 0x20).busWrite s.fuse .debug page off 0xF v).1.emit (.jtag (mem a.toNat true v.toNat))))) ∧
     (∀ c b r, d.survey = none → open_ (at_ 0x21) 48 (.dbgcore c b r)) ∧
     (∀ c b r p rights, d.survey = some (p, rights) →
       rights / 4 % 2 = 0 ∨ (p ≠ .safe ∧ d.coreHeld false c.val = false ∧ (d.core c.val).run ≠ .stopped) ∨ 8 < b.toNat ∨ 50 ≤ r.toNat →
       open_ (at_ 0x21) 48 (.dbgcore c b r)) ∧
     (∀ c b r p rights, d.survey = some (p, rights) → rights / 4 % 2 = 1 →
       p = .safe ∨ d.coreHeld false c.val = true ∨ (d.core c.val).run = .stopped → b.toNat ≤ 8 → r.toNat < 50 →
       exec (.dbgcore c b r) s = toDev s ((at_ 0x21).emit (.jtag (shiftOut 48 (((d.core c.val).bank b.toNat).readIdx b.toNat r.toNat).toNat))))) ∧
    (d.survey = none → exec .trstN s = toDev s { d with board := { d.board with boundary := [], jtag := 1, svNext := 8 } }) ∧
    (∀ p rights, d.survey = some (p, rights) → ∃ w, exec .trstN s = toDev s w ∧ w.mode = p ∧ w.survey = none) ∧
    (∀ v t, exec (.i2cIndexWrite (v :: t)) s =
      toDev s (({ d with board := { d.board with i2c := v.toNat % 16 } } : Dev).emit (.i2cAck (true :: t.map (fun _ => false))))) ∧
    (∀ n, exec (.i2cRead n) s = toDev s (d.emit (.i2c ((List.range n).map (fun i => d.i2cBlock.getD ((d.board.i2c + i) % 16) 0)))))) ∧
  (∀ (s : State) bs, s.dev.mode = .datum → exec (.i2cIndexWrite bs) s = toDev s (s.dev.emit (.i2cAck (bs.map (fun _ => false))))) ∧
  (∀ (d : Dev) (b : Ball),
    (d.ioOn = false → d.drives b = .z) ∧
    (d.ioOn = true → d.mode = .datum ∨ d.board.jtag.toNat ∉ [0, 3, 4] → d.drives b = d.function b) ∧
    (d.ioOn = true → d.mode ≠ .datum → d.board.jtag = 4 → d.drives b = .z) ∧
    (d.ioOn = true → d.mode ≠ .datum → d.board.jtag = 0 ∨ d.board.jtag = 3 → b.isOut = true → b.openDrain = false →
      d.drives b = Drive.of (d.cellOf b))) ∧
  (∀ d : Dev,
    (∀ b ∈ [Ball.perstN, .attnN, .qspiCsN, .qspiIo 0, .qspiIo 1, .qspiIo 2, .qspiIo 3, .tms, .tdi, .trstN, .uartRxd],
      d.pull b = if d.ioOn then .up else .none) ∧
    (∀ b ∈ [Ball.pwrok, .evtIn 0, .evtIn 1, .evtIn 2, .evtIn 3, .tck, .strap 0, .strap 1, .strap 2, .testmode, .ppsIn],
      d.pull b = if d.ioOn then .down else .none) ∧
    (∀ b ∈ [Ball.porstN, .qspiClk, .i2cScl, .i2cSda, .tdo, .uartTxd, .thermtripN, .alertN, .ppsOut], d.pull b = .none) ∧
    d.terminated .refclk = d.board.aon ∧
    (∀ k, d.mode = .datum ∨ d.rbit railSts 5 = false → d.terminated (.serdes k) = false ∧ d.terminated (.pcie k) = false) ∧
    (∀ k, d.lgMode (k / 4) = 0 → d.terminated (.serdes k) = false) ∧
    (∀ k, d.board.aon = true → d.mode ≠ .datum → d.rbit railSts 5 = true →
      d.terminated (.pcie k) = true ∧ (d.lgMode (k / 4) ≠ 0 → d.terminated (.serdes k) = true))) ∧
  (∀ d : Dev, d.function .qspiCsN = (if d.mode = .datum then .z else .high) ∧ d.function .thermtripN = (if d.tripped then .low else .z) ∧
    d.function .alertN = (if d.alertLow then .low else .z) ∧ d.function .ppsOut = Drive.of d.ppsPin ∧
    ∀ i, d.function (.evtOut i) = Drive.of (d.evtOut i)) ∧
  (∀ d : Dev, d.i2cBlock.length = 16 ∧ d.i2cBlock.drop 8 = toBytes 8 d.mer ∧ d.i2cBlock.head? = some (BitVec.ofNat 8 (d.rf modeSts 24 4 * 16 + d.mode.code)))

/-! ### The Graticule -/

/-- Frames and items (12 R306 to R315; 08 R191 to R207, R218): a frame the MAC drops is counted under its reason; an accepted one is counted and,
where items are made, dropped for a bad checksum or for want of a token, else classified by the first rule that holds and made an item; the oldest
arrived item is admitted with its contract or refused for the first test it fails, in the order DRAIN, CLOSED, SIZE, QDEPTH, PEER, RING, NOFROND,
CHAIN, CLASS, PORT, GRID; an admitted one is staged in its queue's order, and its journal and egress texts are read after DONE. (Log entry 22: how U
adapts after a refusal; log entry 55: PFC is judged after each change of a ring's fill.) DB_ACK pops a doorbell; a queue with nothing outstanding
may migrate, but to no fenced frond (13 R355). -/
def Obligations.ItemPath : Prop :=
  (∀ (s : State) (p : Fin 16) (f : List Byte) (good : Bool),
    let d := s.dev
    (d.portEn p.val = false ∨ d.portUp p.val = false → exec (.frameReceive p f good) s = toDev s d) ∧
    (d.portEn p.val = true → d.portUp p.val = true →
      (∀ i, d.macDrop p.val (parseEth f) good = some i → exec (.frameReceive p f good) s = toDev s (d.incRf (macKey p.val (0x140 + 4 * i)) 0 32 1)) ∧
      (d.macDrop p.val (parseEth f) good = none →
        (d.makesItems = false → exec (.frameReceive p f good) s = toDev s (d.incRf (macKey p.val 0x140) 0 32 1)) ∧
        (d.makesItems = true → exec (.frameReceive p f good) s =
          toDev s ((d.incRf (macKey p.val 0x140) 0 32 1).rhizoid p.val f))) ∧
      (good = false → d.macDrop p.val (parseEth f) good = some 1))) ∧
  (∀ (s : State) (n : Nat) (x : Item), s.dev.makesItems = true → s.dev.itemsWhere (fun y => y.phase == .arrived) = (n, x) ::
      (s.dev.itemsWhere (fun y => y.phase == .arrived)).tail →
    let d := s.dev
    let d0 := d.settleU (d.qFrond x.q)
    (∀ r, d0.firstRefusal x = some r → r ≠ 1 → r ≠ 2 → exec .admitItem s = toDev s (d0.refuse n x r)) ∧
    (d0.firstRefusal x = some 1 → exec .admitItem s = toDev s ((d0.refuse n x 1).adaptU (d.qFrond x.q) false)) ∧
    (d0.firstRefusal x = some 2 → exec .admitItem s = toDev s ((d0.refuse n x 2).adaptU (d.qFrond x.q) true)) ∧
    (d0.firstRefusal x = none → ∃ w y, exec .admitItem s = toDev s w ∧ w.item? n = some y ∧ y.phase = .admitted ∧ y.frond = d.qFrond x.q ∧
      y.ebudget = d0.qEbudget x.q ∧ y.chg = d0.qEbudget x.q + 416 ∧ y.deadline = d0.ctDeadline x.q ∧ y.frame = d0.reg (ctKey x.q 0x14) ∧
      y.entry = d0.rf (ctKey x.q 0xC) 0 16 ∧ y.seq = SMap.get 0 d.qSeq x.q ∧ SMap.get 0 w.qSeq x.q = SMap.get 0 d.qSeq x.q + 1 ∧
      y.q = x.q ∧ y.tin = x.tin ∧ y.itag = x.itag)) ∧
  (∀ (d : Dev) (p : Fin 16) (f : List Byte),
    let e := parseEth f
    let v := ipView e
    let k := d.classify p.val f
    let used := SMap.get 0 d.rzUsed p.val
    let burst := d.rf (rk .rz 0 (0x140 + 4 * p.val)) 16 8
    (v.sumOk = false → d.rhizoid p.val f = d.incRf (rk .rz 0 0x1C0) 0 32 1) ∧
    (v.sumOk = true → burst ≤ used → d.rhizoid p.val f = d.incRf (rk .rz 0 (0x180 + 4 * p.val)) 0 32 1) ∧
    (v.sumOk = true → used < burst → ∀ w ok,
      let x : Item := { q := k.q, src := .port p.val k.kind k.hdr, tin := d.mer, itag := k.itag, plen := k.payload.length, exq := k.exq
                        head := padTo 10 (k.payload.drop 6), ring := p.val / 4, roff := none }
      ({ d with rzUsed := SMap.put d.rzUsed p.val (used + 1) } : Dev).arrive x k.payload = (w, ok) →
      d.rhizoid p.val f = if ok then w else w.incRf (rk .rz 0 0x1C0) 0 32 1) ∧
    let exq := d.rf (rk .rz 0 0x100) 16 13
    (v.ext = true ∨ (∀ n, n < 128 → d.ruleHolds p.val e v n = false) → k = ⟨exq, 0, f.take e.off, e.data, tagAt e.data 0, true⟩) ∧
    (∀ n, n < 128 → v.ext = false → d.ruleHolds p.val e v n = true → (∀ i, i < n → d.ruleHolds p.val e v i = false) →
      let kind := fld (d.rule n 0) 28 2
      let pl := if kind = 0 then e.data else slice e.data v.uoff v.ulen
      let foff := fld (d.rule n 2) 9 9
      let q := fld (d.rule n 2) 19 13 + ((beAt pl foff 2 >>> fld (d.rule n 3) 16 4) &&& fld (d.rule n 3) 0 13)
      k.payload = pl ∧ k.kind = kind ∧ k.itag = tagAt pl (fld (d.rule n 2) 0 9) ∧ (foff + 2 ≤ pl.length → q ≤ 8191 → k.q = q ∧ k.exq = false) ∧
        (pl.length < foff + 2 ∨ 8191 < q → k.q = exq ∧ k.exq = true)) ∧
    (∀ n, d.ruleHolds p.val e v n = true ↔
      let w := d.rule n 0
      let key := fld (d.rule n 1) 16 16
      bit w 31 = true ∧ bit w p.val = true ∧ (fld w 28 2 = 0 → e.etype = key) ∧ (fld w 28 2 ≠ 0 → fld w 28 2 = v.kind ∧ v.port = key) ∧
        (bit w 30 = true → ∃ t, e.vlan = some t ∧ t % 4096 = fld w 16 12)) ∧
    (beAt f 12 2 ≠ 0x8100 → e = ⟨beAt f 0 6, none, beAt f 12 2, 14, f.drop 14⟩) ∧
    (beAt f 12 2 = 0x8100 → e = ⟨beAt f 0 6, some (beAt f 14 2), beAt f 16 2, 18, f.drop 18⟩)) ∧
  (∀ (d : Dev) (x : Item),
    let q := x.q
    let fr := d.qFrond q
    let now := d.mer
    let chg := d.qEbudget q + 416
    let dc : Int := (x.tin + d.ctDeadline q : Nat) - (d.tFix q : Int)
    let opened := d.ctEn q = true ∧ q ∈ d.qOpen ∧ d.rbit (qsKey q 0) 31 = false ∧ (d.ctJen q = true → d.chState (d.ctChain q) = 1)
    let peers := d.ctRep q ≠ 0 → partnersNeeded (d.ctRep q) ≤ (d.partners (d.ctRep q)).length
    let migrates := SMap.find? d.migr q ≠ none
    let chain := chainFits d.admStep (d.uOf fr) (d.chainOf q + chg + 2 * tSt (d.ctPaymax q) + (if migrates then 16000 else 0)) now dc = true
    let cls := ∀ p k h, x.src = .port p k h → d.clsOf fr (d.ctClass q) + chg ≤ 4096 * d.rf (grKey (0x140 + 4 * d.ctClass q)) 0 20
    let port := ∀ p k h, x.src = .port p k h → d.portOut p + d.ctEgrmax q + 24 ≤ d.portCeil p
    let grid := ∀ edge, pointEdge now dc ≤ edge →
      fits d.admStep (d.mOf fr) (d.uOf fr) (demUpTo (d.charges fr) edge + chg + d.blk fr) edge now = true
    let r := d.firstRefusal x
    (d.mode = .drain → r = some 7) ∧
    (d.mode ≠ .drain → (¬opened → r = some 6) ∧ (opened → (d.ctPaymax q < x.plen → r = some 10) ∧
      (x.plen ≤ d.ctPaymax q → (d.ctQdepth q ≤ d.outQ q → r = some 5) ∧ (d.outQ q < d.ctQdepth q → (¬peers → r = some 9) ∧
        (peers → (x.roff = none → r = some 11) ∧ (x.roff ≠ none → (d.mOf fr < 1 ∨ d.fencedOut q = true → r = some 8) ∧
          (1 ≤ d.mOf fr → d.fencedOut q = false → (¬chain → r = some 2) ∧ (chain → (¬cls → r = some 3) ∧ (cls → (¬port → r = some 4) ∧
            (port → 4 ≤ d.uOf fr → (¬grid → r = some 1) ∧ (grid → r = none)))))))))))) ∧
  (∀ (step m u dem e now chain : Nat) (dc : Int), step < 4 →
    (fits step m u dem e now = true ↔
      (dem : Int) * 100 * fDen step ≤ (fNum step : Int) * (m * ((u : Int) - 4)) * ((e : Int) - now) - 2000 * m * 100 * fDen step) ∧
    (chainFits step u chain now dc = true ↔ (chain : Int) * 100 * fDen step ≤ (fNum step : Int) * (100 - (u : Int)) * (dc - now)) ∧
    ((fNum step, fDen step) ∈ [(2, 1), (8, 5), (4, 3), (1, 1)] ∧ fNum 0 = 2 ∧ fDen 0 = 1)) ∧
  (∀ (d : Dev) (q : Nat), let p := d.ctPaymax q
    tSt p = 256 + (p + 31) / 32 ∧
    d.tFix q = ((8 * (p + 64) + 99) / 100 + 120) + (1232 + (d.ctEgrmax q + 31) / 32 + 100 * d.ewin) + (if d.ctJen q then 1500 else 0) +
      (if d.ctRep q = 1 then 5000 else if d.ctRep q = 2 then 8000 else 0)) ∧
  (∀ (d : Dev) (x : Item),
    (d.firstRefusal x = none → d.ctEn x.q = true ∧ x.plen ≤ d.ctPaymax x.q ∧ d.outQ x.q < d.ctQdepth x.q ∧ x.roff ≠ none ∧ 1 ≤ d.mOf (d.qFrond x.q))) ∧
  (∀ (s : State) (n : Nat) (x : Item) (o : Nat), s.dev.makesItems = true → s.dev.item? n = some x →
    let d := s.dev
    (x.phase = .admitted → d.turnOf n x.q = true → x.roff = some o →
      ∀ d1 d2 bs, d.fabRead (stageReq (x.frond / 8)) ((Tier.thallus x.ring).base + o) x.plen = (d1, .ok bs) →
        d1.fabWrite (stageReq (x.frond / 8)) (frondBase x.frond + stageOff x.frame) bs = (d2, none) →
        exec (.stageItem n) s = toDev s ((d2.modItem n (fun y => { y with phase := .ready, roff := none })).pfcGroup x.ring)) ∧
    (x.phase = .admitted → d.turnOf n x.q = false → exec (.stageItem n) s = toDev s d) ∧
    (x.phase = .done →
      let d0 := x.core.elim d (fun c => drainAll c d)
      let read (y : Dev) (on : Bool) (off len : Nat) :=
        if on then y.fabRead (egressReq (x.frond / 8)) (frondBase x.frond + stageOff x.frame + 16 * off) len else (y, .ok [])
      let j := read d0 (bit x.done 62) (fld x.done 14 12) (16 * (fld x.done 8 6 + 1))
      let e (y : Dev) := read y (bit x.done 63) (fld x.done 40 12) (fld x.done 26 14)
      (∀ d1 k, j = (d1, .error k) → exec (.doneTextRead n) s = toDev s (d1.failItem n 1)) ∧
      (∀ d1 d2 jt k, j = (d1, .ok jt) → e d1 = (d2, .error k) → exec (.doneTextRead n) s = toDev s (d2.failItem n 1)) ∧
      (∀ d1 d2 jt et, j = (d1, .ok jt) → e d1 = (d2, .ok et) →
        let d3 := ({ d2 with cairn := { d2.cairn with reads := d2.cairn.reads + 1 } } : Dev).modItem n
          (fun y => { y with egr := et, jtext := jt, order := d2.cairn.reads })
        (bit x.done 62 = true → exec (.doneTextRead n) s = toDev s (d3.modItem n (fun y => { y with phase := .texts }))) ∧
        (bit x.done 62 = false → exec (.doneTextRead n) s = toDev s (d3.finish n)))) ∧
    (x.phase = .commit → x.tcommit ≤ d.mer → exec (.commitTimeout n) s = toDev s (d.failItem n 3)) ∧
    (x.phase = .commit → d.mer < x.tcommit → exec (.commitTimeout n) s = toDev s d) ∧
    (x.phase = .texts → d.sealNext n x = true → exec (.cairnSeal n) s = toDev s (d.sealItem n x)) ∧
    (x.phase = .texts → d.sealNext n x = false → exec (.cairnSeal n) s = toDev s d)) ∧
  (∀ (s : State) (m : RegMaster) (c : CoreId), s.dev.writable m (PageT.first .gratDb) (0x104 + 8 * c.val) = true →
    let d := s.dev
    let l := (SMap.get [] d.db c.val).drop 1
    let y : Dev := { d with db := SMap.put d.db c.val l }
    exec (.dbAck m c) s = toDev s (if l = [] then y.setRf (dbKey c.val) 30 1 0 else y)) ∧
  (∀ (s : State) (q : Fin 8192) (f : Fin 32),
    let d := s.dev
    (d.outQ q.val ≠ 0 ∨ q.val ∉ d.qOpen ∨ bit (d.reg (ctKey q.val 0x10)) f.val = false → exec (.queueMigration q f) s = toDev s d) ∧
    (d.rbit (rk .power 0 0x108) f.val = true → exec (.queueMigration q f) s = toDev s d) ∧
    (d.makesItems = true → d.rbit (rk .power 0 0x108) f.val = false → q.val ∈ d.qOpen → bit (d.reg (ctKey q.val 0x10)) f.val = true → f.val ≠ d.qFrond q.val → d.outQ q.val = 0 →
      SMap.find? d.migr q.val = none →
      ∃ w, exec (.queueMigration q f) s = toDev s w ∧ w.qFrond q.val = f.val ∧ w.rbit (qsKey q.val 0) 30 = true ∧
        SMap.find? w.migr q.val = some (d.mer + 8000)))

/-! ### The whole machine -/

/-- A step is the front command's effect on the state with the queue's rest. -/
def Obligations.StepFront : Prop :=
  ∀ (c : Instr) (s : State), step { s with pending := c :: s.pending } = exec c s

/-- The state after reset (13 Table 13.5): DATUM, Meridian 0, no command waiting, every page register at its reset value, the stores empty and in
canonical form, every core at core reset, the fuses in range. -/
def Obligations.ResetState : Prop :=
  State.reset.pending = [] ∧ State.reset.dev.mode = .datum ∧ State.reset.dev.mer = 0 ∧ (∀ k, State.reset.dev.reg k = resetOf k) ∧
    State.reset.dev.memOk ∧ (∀ c, State.reset.dev.core c = Core.atReset) ∧ State.reset.fuse.inRange ∧ (∀ a, State.reset.dev.byte a = 0)

/-- Fuses only blow (14 R370): a step of any state leaves each fuse blown at least as far, and within its range; no command but CROZIER_START, a
BOOT_STAGE_TIMEOUT whose S0 has run, and the four fuse commands of the boot firmware changes a fuse, and only the front command leaves the queue. -/
def Obligations.FusesOnlyBlow : Prop :=
  ∀ s t : State, step s = .next t →
    s.fuse.grown t.fuse ∧ (s.fuse.inRange → t.fuse.inRange) ∧ t.pending = s.pending.tail ∧
    (t.fuse ≠ s.fuse → ∃ c, s.pending.head? = some c ∧
      ((∃ a b, c = .crozierStart a b) ∨ (∃ a b e f, c = .bootStageTimeout a b e f) ∨ c = .rollback ∨ c = .enroll ∨ c = .ownerOnly ∨ c = .surveyOff))

/-- The memories keep their canonical form (log entry 2: an unlisted byte reads 0): addresses strictly rising, no entry equal to what an unlisted
address reads as. Every command and the idle step keep it, from every state, so that equal memories are equal data. -/
def Obligations.MemoryCanonical : Prop :=
  ∀ s t : State, s.dev.memOk → step s = .next t → t.dev.memOk
end

