-- ==== Sys2Proof/Laws/Maps.lean ====
section
/-!
SUPPORT. Sparse maps and stores: reading after a change, and the canonical form that every change of a store keeps.
-/
namespace Sys2Proof.Machine

/-! ### Sparse maps -/

@[simp] theorem SMap.get_put {α : Type} (d : α) (m : SMap α) (i j : Nat) (v : α) :
    SMap.get d (SMap.put m i v) j = if j = i then v else SMap.get d m j := by
  induction m with
  | nil => by_cases h : j = i <;> simp [SMap.put, SMap.get, h]
  | cons e t ih =>
    obtain ⟨k, w⟩ := e
    simp only [SMap.put]
    split
    · by_cases h : j = i
      · simp [SMap.get, h]
      · simp [SMap.get, h]
    · split
      · rename_i h2
        subst h2
        by_cases h : j = i
        · simp [SMap.get, h]
        · simp [SMap.get, h]
      · rename_i h2
        by_cases h : j = k
        · subst h
          simp [SMap.get, Ne.symm h2]
        · simp [SMap.get, h, ih]

@[simp] theorem SMap.put_put {α : Type} (m : SMap α) (i : Nat) (v w : α) : SMap.put (SMap.put m i v) i w = SMap.put m i w := by
  induction m with
  | nil => simp [SMap.put]
  | cons e t ih =>
    obtain ⟨k, u⟩ := e
    simp only [SMap.put]
    split
    · simp [SMap.put]
    · split
      · rename_i h2; simp [SMap.put]
      · rename_i h1 h2; simp [SMap.put, h1, h2, ih]

theorem SMap.find?_put {α : Type} (m : SMap α) (i j : Nat) (v : α) :
    SMap.find? (SMap.put m i v) j = if j = i then some v else SMap.find? m j := by
  induction m with
  | nil => by_cases h : j = i <;> simp [SMap.put, SMap.find?, h]
  | cons e t ih =>
    obtain ⟨k, w⟩ := e
    simp only [SMap.put]
    split
    · by_cases h : j = i
      · simp [SMap.find?, h]
      · simp [SMap.find?, h]
    · split
      · rename_i h2
        subst h2
        by_cases h : j = i
        · simp [SMap.find?, h]
        · simp [SMap.find?, h]
      · rename_i h2
        by_cases h : j = k
        · subst h
          simp [SMap.find?, Ne.symm h2]
        · simp [SMap.find?, h, ih]

theorem SMap.get_drop {α : Type} (d : α) (m : SMap α) (i j : Nat) :
    SMap.get d (SMap.drop m i) j = if j = i then d else SMap.get d m j := by
  induction m with
  | nil => simp [SMap.drop, SMap.get]
  | cons e t ih =>
    obtain ⟨k, w⟩ := e
    simp only [SMap.drop] at ih
    by_cases hk : k = i
    · subst hk
      simp only [SMap.drop, List.filter, bne_self_eq_false, ih, SMap.get]
      by_cases h : j = k <;> simp [h]
    · have hb : (k != i) = true := by simp [hk]
      simp only [SMap.drop, List.filter, hb, SMap.get, ih]
      by_cases h : j = k
      · subst h; simp [hk]
      · simp [h]

/-! ### Stores -/

/-- Putting a byte at an address leaves the addresses rising, and lists that byte. -/
theorem SMap.put_sorted (m : List Host.Cell) (a : Nat) (v : Byte) (h : m.Pairwise (fun x y => x.1 < y.1)) :
    (SMap.put (α := Byte) m a v).Pairwise (fun x y => x.1 < y.1) ∧
      ∀ e ∈ SMap.put (α := Byte) m a v, e = (a, v) ∨ e ∈ m := by
  induction m with
  | nil => simp [SMap.put]
  | cons e t ih =>
    obtain ⟨k, w⟩ := e
    have ht := (List.pairwise_cons.1 h).2
    have hk := (List.pairwise_cons.1 h).1
    obtain ⟨i1, i2⟩ := ih ht
    simp only [SMap.put]
    split
    · rename_i hak
      refine ⟨List.pairwise_cons.2 ⟨?_, h⟩, by simp⟩
      intro x hx
      rcases List.mem_cons.1 hx with rfl | hx
      · exact hak
      · exact Nat.lt_trans hak (hk x hx)
    · split
      · rename_i h2
        subst h2
        exact ⟨List.pairwise_cons.2 ⟨fun x hx => hk x hx, ht⟩, by intro x hx; rcases List.mem_cons.1 hx with rfl | hx <;> simp [*]⟩
      · rename_i h1 h2
        refine ⟨List.pairwise_cons.2 ⟨?_, i1⟩, ?_⟩
        · intro x hx
          rcases i2 x hx with rfl | hx
          · show k < a; omega
          · exact hk x hx
        · intro x hx
          rcases List.mem_cons.1 hx with rfl | hx
          · simp
          · rcases i2 x hx with rfl | hx <;> simp [*]

/-- A write keeps the canonical form (09 R220). -/
theorem memPut_wf (m : List Host.Cell) (a : Nat) (v : Byte) (h : Memory.wf m) : Memory.wf (memPut m a v) := by
  obtain ⟨h1, h2⟩ := h
  unfold memPut
  split
  · exact ⟨h1.sublist List.filter_sublist, fun e he => h2 e (List.mem_filter.1 he).1⟩
  · rename_i hv
    obtain ⟨s1, s2⟩ := SMap.put_sorted m a v h1
    refine ⟨s1, fun e he => ?_⟩
    rcases s2 e he with rfl | he
    · exact hv
    · exact h2 e he

/-- A byte reads as it was last written, and a write leaves every other byte alone. -/
theorem memGet_memPut (m : List Host.Cell) (a b : Nat) (v : Byte) :
    memGet (memPut m a v) b = if b = a then v else memGet m b := by
  unfold memPut memGet
  split
  · rename_i hv; subst hv; rw [SMap.get_drop]
  · exact SMap.get_put (α := Byte) 0 m a b v

theorem Dev.setByte_memOk (d : Dev) (a : Nat) (v : Byte) (h : Memory.wf d.mem) : Memory.wf (d.setByte a v).mem := by
  unfold Dev.setByte
  split
  · exact h
  · exact memPut_wf _ _ _ h

theorem Dev.setBytes_memOk (d : Dev) (a : Nat) (bs : List Byte) (h : Memory.wf d.mem) : Memory.wf (d.setBytes a bs).mem := by
  induction bs generalizing d a with
  | nil => exact h
  | cons v t ih => exact ih _ _ (Dev.setByte_memOk d a v h)

theorem Dev.eccUncorr_mem (d : Dev) (t : Tier) (kind master w : Nat) : (d.eccUncorr t kind master w).mem = d.mem := by
  unfold Dev.eccUncorr
  split
  · rfl
  · unfold Dev.eccCapture; split <;> rfl

theorem Dev.eccCorr_mem (d : Dev) (t : Tier) : (d.eccCorr t).mem = d.mem := by
  unfold Dev.eccCorr
  split <;> rfl

theorem Dev.eccMergeWord_mem (t : Tier) (master a n : Nat) (d : Dev) (w : Nat) : (Dev.eccMergeWord t master a n d w).mem = d.mem := by
  unfold Dev.eccMergeWord
  split
  · rfl
  · split
    · exact Dev.eccUncorr_mem ..
    · split
      · exact Dev.eccCorr_mem ..
      · rfl

/-- The error marks of a write change no byte. -/
theorem Dev.eccMerge_mem (d : Dev) (t : Tier) (master a n : Nat) : (d.eccMerge t master a n).mem = d.mem := by
  unfold Dev.eccMerge
  generalize wordsOf a n = ws
  induction ws generalizing d with
  | nil => rfl
  | cons w ws ih => exact (ih (Dev.eccMergeWord t master a n d w)).trans (Dev.eccMergeWord_mem ..)

/-- Every store of bytes keeps the canonical form. -/
theorem Dev.store_memOk (d : Dev) (t : Tier) (master a : Nat) (bs : List Byte) (h : Memory.wf d.mem) :
    Memory.wf (d.store t master a bs).mem :=
  Dev.setBytes_memOk _ _ _ (by rw [Dev.eccMerge_mem]; exact h)

theorem Dev.orByte_memOk (d : Dev) (t : Tier) (master a : Nat) (v : Byte) (h : Memory.wf d.mem) :
    Memory.wf (d.orByte t master a v).mem := Dev.store_memOk _ _ _ _ _ h

/-- A byte of a memory other than the program stores, after one is written. -/
theorem Dev.byte_setByte (d : Dev) (a b : Nat) (v : Byte) (ha : a < 0x70_0000_0000) (hb : b < 0x70_0000_0000) :
    (d.setByte a v).byte b = if b = a then v else d.byte b := by
  have h1 : ¬ 0x70_0000_0000 ≤ a := by omega
  have h2 : ¬ 0x70_0000_0000 ≤ b := by omega
  simp only [Dev.setByte, Dev.byte, h1, h2, if_false]
  exact memGet_memPut ..

/-- Bytes outside a written range are as before. -/
theorem Dev.byte_setBytes_out (d : Dev) (a b : Nat) (bs : List Byte) (ha : a + bs.length ≤ 0x70_0000_0000) (hb : b < 0x70_0000_0000)
    (ho : b < a ∨ a + bs.length ≤ b) : (d.setBytes a bs).byte b = d.byte b := by
  induction bs generalizing d a with
  | nil => rfl
  | cons v t ih =>
    simp only [List.length_cons] at ha ho
    simp only [Dev.setBytes]
    rw [ih (d.setByte a v) (a + 1) (by omega) (by omega), Dev.byte_setByte d a b v (by omega) hb, if_neg (by omega)]

end Sys2Proof.Machine
end

