-- ==== Sys2Proof/Laws/State.lean ====
section
/-!
SUPPORT. The device's fields under its updates: one lemma for each field and update, and what a register, a core and a bank read as
after one is written.
-/
namespace Sys2Proof.Machine

theorem Dev.setReg_regs (d : Dev) (k : Nat) (v : W32) : (d.setReg k v).regs = SMap.put d.regs k v := rfl
theorem Dev.setCore_cores (d : Dev) (c : Nat) (x : Core) : (d.setCore c x).cores = SMap.put d.cores c x := rfl
@[simp] theorem Dev.emit_out (d : Dev) (o : Out) : (d.emit o).out = o :: d.out := rfl
theorem Dev.setItem_items (d : Dev) (n : Nat) (x : Item) : (d.setItem n x).items = SMap.put d.items n x := rfl

/-! ### setReg changes `regs` alone -/

@[simp] theorem Dev.setReg_mer (d : Dev) (k : Nat) (v : W32) : (d.setReg k v).mer = d.mer := rfl
@[simp] theorem Dev.setReg_mode (d : Dev) (k : Nat) (v : W32) : (d.setReg k v).mode = d.mode := rfl
@[simp] theorem Dev.setReg_shadow (d : Dev) (k : Nat) (v : W32) : (d.setReg k v).shadow = d.shadow := rfl
@[simp] theorem Dev.setReg_mem (d : Dev) (k : Nat) (v : W32) : (d.setReg k v).mem = d.mem := rfl
@[simp] theorem Dev.setReg_pstore (d : Dev) (k : Nat) (v : W32) : (d.setReg k v).pstore = d.pstore := rfl
@[simp] theorem Dev.setReg_keys (d : Dev) (k : Nat) (v : W32) : (d.setReg k v).keys = d.keys := rfl
@[simp] theorem Dev.setReg_uncorr (d : Dev) (k : Nat) (v : W32) : (d.setReg k v).uncorr = d.uncorr := rfl
@[simp] theorem Dev.setReg_corr (d : Dev) (k : Nat) (v : W32) : (d.setReg k v).corr = d.corr := rfl
@[simp] theorem Dev.setReg_cores (d : Dev) (k : Nat) (v : W32) : (d.setReg k v).cores = d.cores := rfl
@[simp] theorem Dev.setReg_qFrame (d : Dev) (k : Nat) (v : W32) : (d.setReg k v).qFrame = d.qFrame := rfl
@[simp] theorem Dev.setReg_db (d : Dev) (k : Nat) (v : W32) : (d.setReg k v).db = d.db := rfl
@[simp] theorem Dev.setReg_outUnits (d : Dev) (k : Nat) (v : W32) : (d.setReg k v).outUnits = d.outUnits := rfl
@[simp] theorem Dev.setReg_pci (d : Dev) (k : Nat) (v : W32) : (d.setReg k v).pci = d.pci := rfl
@[simp] theorem Dev.setReg_items (d : Dev) (k : Nat) (v : W32) : (d.setReg k v).items = d.items := rfl
@[simp] theorem Dev.setReg_nextItem (d : Dev) (k : Nat) (v : W32) : (d.setReg k v).nextItem = d.nextItem := rfl
@[simp] theorem Dev.setReg_qSeq (d : Dev) (k : Nat) (v : W32) : (d.setReg k v).qSeq = d.qSeq := rfl
@[simp] theorem Dev.setReg_qArr (d : Dev) (k : Nat) (v : W32) : (d.setReg k v).qArr = d.qArr := rfl
@[simp] theorem Dev.setReg_qOpen (d : Dev) (k : Nat) (v : W32) : (d.setReg k v).qOpen = d.qOpen := rfl
@[simp] theorem Dev.setReg_migr (d : Dev) (k : Nat) (v : W32) : (d.setReg k v).migr = d.migr := rfl
@[simp] theorem Dev.setReg_qStrike (d : Dev) (k : Nat) (v : W32) : (d.setReg k v).qStrike = d.qStrike := rfl
@[simp] theorem Dev.setReg_hist (d : Dev) (k : Nat) (v : W32) : (d.setReg k v).hist = d.hist := rfl
@[simp] theorem Dev.setReg_hseq (d : Dev) (k : Nat) (v : W32) : (d.setReg k v).hseq = d.hseq := rfl
@[simp] theorem Dev.setReg_warm (d : Dev) (k : Nat) (v : W32) : (d.setReg k v).warm = d.warm := rfl
@[simp] theorem Dev.setReg_tripped (d : Dev) (k : Nat) (v : W32) : (d.setReg k v).tripped = d.tripped := rfl
@[simp] theorem Dev.setReg_uTarget (d : Dev) (k : Nat) (v : W32) : (d.setReg k v).uTarget = d.uTarget := rfl
@[simp] theorem Dev.setReg_hotSince (d : Dev) (k : Nat) (v : W32) : (d.setReg k v).hotSince = d.hotSince := rfl
@[simp] theorem Dev.setReg_coolSince (d : Dev) (k : Nat) (v : W32) : (d.setReg k v).coolSince = d.coolSince := rfl
@[simp] theorem Dev.setReg_rzUsed (d : Dev) (k : Nat) (v : W32) : (d.setReg k v).rzUsed = d.rzUsed := rfl
@[simp] theorem Dev.setReg_egress (d : Dev) (k : Nat) (v : W32) : (d.setReg k v).egress = d.egress := rfl
@[simp] theorem Dev.setReg_cairn (d : Dev) (k : Nat) (v : W32) : (d.setReg k v).cairn = d.cairn := rfl
@[simp] theorem Dev.setReg_dma (d : Dev) (k : Nat) (v : W32) : (d.setReg k v).dma = d.dma := rfl
@[simp] theorem Dev.setReg_uk (d : Dev) (k : Nat) (v : W32) : (d.setReg k v).uk = d.uk := rfl
@[simp] theorem Dev.setReg_mbox (d : Dev) (k : Nat) (v : W32) : (d.setReg k v).mbox = d.mbox := rfl
@[simp] theorem Dev.setReg_linkFails (d : Dev) (k : Nat) (v : W32) : (d.setReg k v).linkFails = d.linkFails := rfl
@[simp] theorem Dev.setReg_linkHeld (d : Dev) (k : Nat) (v : W32) : (d.setReg k v).linkHeld = d.linkHeld := rfl
@[simp] theorem Dev.setReg_ptp (d : Dev) (k : Nat) (v : W32) : (d.setReg k v).ptp = d.ptp := rfl
@[simp] theorem Dev.setReg_swapDue (d : Dev) (k : Nat) (v : W32) : (d.setReg k v).swapDue = d.swapDue := rfl
@[simp] theorem Dev.setReg_armDue (d : Dev) (k : Nat) (v : W32) : (d.setReg k v).armDue = d.armDue := rfl
@[simp] theorem Dev.setReg_digestDue (d : Dev) (k : Nat) (v : W32) : (d.setReg k v).digestDue = d.digestDue := rfl
@[simp] theorem Dev.setReg_patch (d : Dev) (k : Nat) (v : W32) : (d.setReg k v).patch = d.patch := rfl
@[simp] theorem Dev.setReg_load (d : Dev) (k : Nat) (v : W32) : (d.setReg k v).load = d.load := rfl
@[simp] theorem Dev.setReg_civFrac (d : Dev) (k : Nat) (v : W32) : (d.setReg k v).civFrac = d.civFrac := rfl
@[simp] theorem Dev.setReg_board (d : Dev) (k : Nat) (v : W32) : (d.setReg k v).board = d.board := rfl
@[simp] theorem Dev.setReg_boot (d : Dev) (k : Nat) (v : W32) : (d.setReg k v).boot = d.boot := rfl
@[simp] theorem Dev.setReg_att (d : Dev) (k : Nat) (v : W32) : (d.setReg k v).att = d.att := rfl
@[simp] theorem Dev.setReg_sv (d : Dev) (k : Nat) (v : W32) : (d.setReg k v).sv = d.sv := rfl
@[simp] theorem Dev.setReg_drain (d : Dev) (k : Nat) (v : W32) : (d.setReg k v).drain = d.drain := rfl
@[simp] theorem Dev.setReg_fill (d : Dev) (k : Nat) (v : W32) : (d.setReg k v).fill = d.fill := rfl
@[simp] theorem Dev.setReg_pdNow (d : Dev) (k : Nat) (v : W32) : (d.setReg k v).pdNow = d.pdNow := rfl
@[simp] theorem Dev.setReg_scrub (d : Dev) (k : Nat) (v : W32) : (d.setReg k v).scrub = d.scrub := rfl
@[simp] theorem Dev.setReg_survey (d : Dev) (k : Nat) (v : W32) : (d.setReg k v).survey = d.survey := rfl
@[simp] theorem Dev.setReg_free (d : Dev) (k : Nat) (v : W32) : (d.setReg k v).free = d.free := rfl
@[simp] theorem Dev.setReg_out (d : Dev) (k : Nat) (v : W32) : (d.setReg k v).out = d.out := rfl

/-! ### setRf changes `regs` alone -/

@[simp] theorem Dev.setRf_mer (d : Dev) (k lo w v : Nat) : (d.setRf k lo w v).mer = d.mer := rfl
@[simp] theorem Dev.setRf_mode (d : Dev) (k lo w v : Nat) : (d.setRf k lo w v).mode = d.mode := rfl
@[simp] theorem Dev.setRf_shadow (d : Dev) (k lo w v : Nat) : (d.setRf k lo w v).shadow = d.shadow := rfl
@[simp] theorem Dev.setRf_mem (d : Dev) (k lo w v : Nat) : (d.setRf k lo w v).mem = d.mem := rfl
@[simp] theorem Dev.setRf_pstore (d : Dev) (k lo w v : Nat) : (d.setRf k lo w v).pstore = d.pstore := rfl
@[simp] theorem Dev.setRf_keys (d : Dev) (k lo w v : Nat) : (d.setRf k lo w v).keys = d.keys := rfl
@[simp] theorem Dev.setRf_uncorr (d : Dev) (k lo w v : Nat) : (d.setRf k lo w v).uncorr = d.uncorr := rfl
@[simp] theorem Dev.setRf_corr (d : Dev) (k lo w v : Nat) : (d.setRf k lo w v).corr = d.corr := rfl
@[simp] theorem Dev.setRf_cores (d : Dev) (k lo w v : Nat) : (d.setRf k lo w v).cores = d.cores := rfl
@[simp] theorem Dev.setRf_qFrame (d : Dev) (k lo w v : Nat) : (d.setRf k lo w v).qFrame = d.qFrame := rfl
@[simp] theorem Dev.setRf_db (d : Dev) (k lo w v : Nat) : (d.setRf k lo w v).db = d.db := rfl
@[simp] theorem Dev.setRf_outUnits (d : Dev) (k lo w v : Nat) : (d.setRf k lo w v).outUnits = d.outUnits := rfl
@[simp] theorem Dev.setRf_pci (d : Dev) (k lo w v : Nat) : (d.setRf k lo w v).pci = d.pci := rfl
@[simp] theorem Dev.setRf_items (d : Dev) (k lo w v : Nat) : (d.setRf k lo w v).items = d.items := rfl
@[simp] theorem Dev.setRf_nextItem (d : Dev) (k lo w v : Nat) : (d.setRf k lo w v).nextItem = d.nextItem := rfl
@[simp] theorem Dev.setRf_qSeq (d : Dev) (k lo w v : Nat) : (d.setRf k lo w v).qSeq = d.qSeq := rfl
@[simp] theorem Dev.setRf_qArr (d : Dev) (k lo w v : Nat) : (d.setRf k lo w v).qArr = d.qArr := rfl
@[simp] theorem Dev.setRf_qOpen (d : Dev) (k lo w v : Nat) : (d.setRf k lo w v).qOpen = d.qOpen := rfl
@[simp] theorem Dev.setRf_migr (d : Dev) (k lo w v : Nat) : (d.setRf k lo w v).migr = d.migr := rfl
@[simp] theorem Dev.setRf_qStrike (d : Dev) (k lo w v : Nat) : (d.setRf k lo w v).qStrike = d.qStrike := rfl
@[simp] theorem Dev.setRf_hist (d : Dev) (k lo w v : Nat) : (d.setRf k lo w v).hist = d.hist := rfl
@[simp] theorem Dev.setRf_hseq (d : Dev) (k lo w v : Nat) : (d.setRf k lo w v).hseq = d.hseq := rfl
@[simp] theorem Dev.setRf_warm (d : Dev) (k lo w v : Nat) : (d.setRf k lo w v).warm = d.warm := rfl
@[simp] theorem Dev.setRf_tripped (d : Dev) (k lo w v : Nat) : (d.setRf k lo w v).tripped = d.tripped := rfl
@[simp] theorem Dev.setRf_uTarget (d : Dev) (k lo w v : Nat) : (d.setRf k lo w v).uTarget = d.uTarget := rfl
@[simp] theorem Dev.setRf_hotSince (d : Dev) (k lo w v : Nat) : (d.setRf k lo w v).hotSince = d.hotSince := rfl
@[simp] theorem Dev.setRf_coolSince (d : Dev) (k lo w v : Nat) : (d.setRf k lo w v).coolSince = d.coolSince := rfl
@[simp] theorem Dev.setRf_rzUsed (d : Dev) (k lo w v : Nat) : (d.setRf k lo w v).rzUsed = d.rzUsed := rfl
@[simp] theorem Dev.setRf_egress (d : Dev) (k lo w v : Nat) : (d.setRf k lo w v).egress = d.egress := rfl
@[simp] theorem Dev.setRf_cairn (d : Dev) (k lo w v : Nat) : (d.setRf k lo w v).cairn = d.cairn := rfl
@[simp] theorem Dev.setRf_dma (d : Dev) (k lo w v : Nat) : (d.setRf k lo w v).dma = d.dma := rfl
@[simp] theorem Dev.setRf_uk (d : Dev) (k lo w v : Nat) : (d.setRf k lo w v).uk = d.uk := rfl
@[simp] theorem Dev.setRf_mbox (d : Dev) (k lo w v : Nat) : (d.setRf k lo w v).mbox = d.mbox := rfl
@[simp] theorem Dev.setRf_linkFails (d : Dev) (k lo w v : Nat) : (d.setRf k lo w v).linkFails = d.linkFails := rfl
@[simp] theorem Dev.setRf_linkHeld (d : Dev) (k lo w v : Nat) : (d.setRf k lo w v).linkHeld = d.linkHeld := rfl
@[simp] theorem Dev.setRf_ptp (d : Dev) (k lo w v : Nat) : (d.setRf k lo w v).ptp = d.ptp := rfl
@[simp] theorem Dev.setRf_swapDue (d : Dev) (k lo w v : Nat) : (d.setRf k lo w v).swapDue = d.swapDue := rfl
@[simp] theorem Dev.setRf_armDue (d : Dev) (k lo w v : Nat) : (d.setRf k lo w v).armDue = d.armDue := rfl
@[simp] theorem Dev.setRf_digestDue (d : Dev) (k lo w v : Nat) : (d.setRf k lo w v).digestDue = d.digestDue := rfl
@[simp] theorem Dev.setRf_patch (d : Dev) (k lo w v : Nat) : (d.setRf k lo w v).patch = d.patch := rfl
@[simp] theorem Dev.setRf_load (d : Dev) (k lo w v : Nat) : (d.setRf k lo w v).load = d.load := rfl
@[simp] theorem Dev.setRf_civFrac (d : Dev) (k lo w v : Nat) : (d.setRf k lo w v).civFrac = d.civFrac := rfl
@[simp] theorem Dev.setRf_board (d : Dev) (k lo w v : Nat) : (d.setRf k lo w v).board = d.board := rfl
@[simp] theorem Dev.setRf_boot (d : Dev) (k lo w v : Nat) : (d.setRf k lo w v).boot = d.boot := rfl
@[simp] theorem Dev.setRf_att (d : Dev) (k lo w v : Nat) : (d.setRf k lo w v).att = d.att := rfl
@[simp] theorem Dev.setRf_sv (d : Dev) (k lo w v : Nat) : (d.setRf k lo w v).sv = d.sv := rfl
@[simp] theorem Dev.setRf_drain (d : Dev) (k lo w v : Nat) : (d.setRf k lo w v).drain = d.drain := rfl
@[simp] theorem Dev.setRf_fill (d : Dev) (k lo w v : Nat) : (d.setRf k lo w v).fill = d.fill := rfl
@[simp] theorem Dev.setRf_pdNow (d : Dev) (k lo w v : Nat) : (d.setRf k lo w v).pdNow = d.pdNow := rfl
@[simp] theorem Dev.setRf_scrub (d : Dev) (k lo w v : Nat) : (d.setRf k lo w v).scrub = d.scrub := rfl
@[simp] theorem Dev.setRf_survey (d : Dev) (k lo w v : Nat) : (d.setRf k lo w v).survey = d.survey := rfl
@[simp] theorem Dev.setRf_free (d : Dev) (k lo w v : Nat) : (d.setRf k lo w v).free = d.free := rfl
@[simp] theorem Dev.setRf_out (d : Dev) (k lo w v : Nat) : (d.setRf k lo w v).out = d.out := rfl

/-! ### incRf changes `regs` alone -/

@[simp] theorem Dev.incRf_mer (d : Dev) (k lo w n : Nat) : (d.incRf k lo w n).mer = d.mer := rfl
@[simp] theorem Dev.incRf_mode (d : Dev) (k lo w n : Nat) : (d.incRf k lo w n).mode = d.mode := rfl
@[simp] theorem Dev.incRf_shadow (d : Dev) (k lo w n : Nat) : (d.incRf k lo w n).shadow = d.shadow := rfl
@[simp] theorem Dev.incRf_mem (d : Dev) (k lo w n : Nat) : (d.incRf k lo w n).mem = d.mem := rfl
@[simp] theorem Dev.incRf_pstore (d : Dev) (k lo w n : Nat) : (d.incRf k lo w n).pstore = d.pstore := rfl
@[simp] theorem Dev.incRf_keys (d : Dev) (k lo w n : Nat) : (d.incRf k lo w n).keys = d.keys := rfl
@[simp] theorem Dev.incRf_uncorr (d : Dev) (k lo w n : Nat) : (d.incRf k lo w n).uncorr = d.uncorr := rfl
@[simp] theorem Dev.incRf_corr (d : Dev) (k lo w n : Nat) : (d.incRf k lo w n).corr = d.corr := rfl
@[simp] theorem Dev.incRf_cores (d : Dev) (k lo w n : Nat) : (d.incRf k lo w n).cores = d.cores := rfl
@[simp] theorem Dev.incRf_qFrame (d : Dev) (k lo w n : Nat) : (d.incRf k lo w n).qFrame = d.qFrame := rfl
@[simp] theorem Dev.incRf_db (d : Dev) (k lo w n : Nat) : (d.incRf k lo w n).db = d.db := rfl
@[simp] theorem Dev.incRf_outUnits (d : Dev) (k lo w n : Nat) : (d.incRf k lo w n).outUnits = d.outUnits := rfl
@[simp] theorem Dev.incRf_pci (d : Dev) (k lo w n : Nat) : (d.incRf k lo w n).pci = d.pci := rfl
@[simp] theorem Dev.incRf_items (d : Dev) (k lo w n : Nat) : (d.incRf k lo w n).items = d.items := rfl
@[simp] theorem Dev.incRf_nextItem (d : Dev) (k lo w n : Nat) : (d.incRf k lo w n).nextItem = d.nextItem := rfl
@[simp] theorem Dev.incRf_qSeq (d : Dev) (k lo w n : Nat) : (d.incRf k lo w n).qSeq = d.qSeq := rfl
@[simp] theorem Dev.incRf_qArr (d : Dev) (k lo w n : Nat) : (d.incRf k lo w n).qArr = d.qArr := rfl
@[simp] theorem Dev.incRf_qOpen (d : Dev) (k lo w n : Nat) : (d.incRf k lo w n).qOpen = d.qOpen := rfl
@[simp] theorem Dev.incRf_migr (d : Dev) (k lo w n : Nat) : (d.incRf k lo w n).migr = d.migr := rfl
@[simp] theorem Dev.incRf_qStrike (d : Dev) (k lo w n : Nat) : (d.incRf k lo w n).qStrike = d.qStrike := rfl
@[simp] theorem Dev.incRf_hist (d : Dev) (k lo w n : Nat) : (d.incRf k lo w n).hist = d.hist := rfl
@[simp] theorem Dev.incRf_hseq (d : Dev) (k lo w n : Nat) : (d.incRf k lo w n).hseq = d.hseq := rfl
@[simp] theorem Dev.incRf_warm (d : Dev) (k lo w n : Nat) : (d.incRf k lo w n).warm = d.warm := rfl
@[simp] theorem Dev.incRf_tripped (d : Dev) (k lo w n : Nat) : (d.incRf k lo w n).tripped = d.tripped := rfl
@[simp] theorem Dev.incRf_uTarget (d : Dev) (k lo w n : Nat) : (d.incRf k lo w n).uTarget = d.uTarget := rfl
@[simp] theorem Dev.incRf_hotSince (d : Dev) (k lo w n : Nat) : (d.incRf k lo w n).hotSince = d.hotSince := rfl
@[simp] theorem Dev.incRf_coolSince (d : Dev) (k lo w n : Nat) : (d.incRf k lo w n).coolSince = d.coolSince := rfl
@[simp] theorem Dev.incRf_rzUsed (d : Dev) (k lo w n : Nat) : (d.incRf k lo w n).rzUsed = d.rzUsed := rfl
@[simp] theorem Dev.incRf_egress (d : Dev) (k lo w n : Nat) : (d.incRf k lo w n).egress = d.egress := rfl
@[simp] theorem Dev.incRf_cairn (d : Dev) (k lo w n : Nat) : (d.incRf k lo w n).cairn = d.cairn := rfl
@[simp] theorem Dev.incRf_dma (d : Dev) (k lo w n : Nat) : (d.incRf k lo w n).dma = d.dma := rfl
@[simp] theorem Dev.incRf_uk (d : Dev) (k lo w n : Nat) : (d.incRf k lo w n).uk = d.uk := rfl
@[simp] theorem Dev.incRf_mbox (d : Dev) (k lo w n : Nat) : (d.incRf k lo w n).mbox = d.mbox := rfl
@[simp] theorem Dev.incRf_linkFails (d : Dev) (k lo w n : Nat) : (d.incRf k lo w n).linkFails = d.linkFails := rfl
@[simp] theorem Dev.incRf_linkHeld (d : Dev) (k lo w n : Nat) : (d.incRf k lo w n).linkHeld = d.linkHeld := rfl
@[simp] theorem Dev.incRf_ptp (d : Dev) (k lo w n : Nat) : (d.incRf k lo w n).ptp = d.ptp := rfl
@[simp] theorem Dev.incRf_swapDue (d : Dev) (k lo w n : Nat) : (d.incRf k lo w n).swapDue = d.swapDue := rfl
@[simp] theorem Dev.incRf_armDue (d : Dev) (k lo w n : Nat) : (d.incRf k lo w n).armDue = d.armDue := rfl
@[simp] theorem Dev.incRf_digestDue (d : Dev) (k lo w n : Nat) : (d.incRf k lo w n).digestDue = d.digestDue := rfl
@[simp] theorem Dev.incRf_patch (d : Dev) (k lo w n : Nat) : (d.incRf k lo w n).patch = d.patch := rfl
@[simp] theorem Dev.incRf_load (d : Dev) (k lo w n : Nat) : (d.incRf k lo w n).load = d.load := rfl
@[simp] theorem Dev.incRf_civFrac (d : Dev) (k lo w n : Nat) : (d.incRf k lo w n).civFrac = d.civFrac := rfl
@[simp] theorem Dev.incRf_board (d : Dev) (k lo w n : Nat) : (d.incRf k lo w n).board = d.board := rfl
@[simp] theorem Dev.incRf_boot (d : Dev) (k lo w n : Nat) : (d.incRf k lo w n).boot = d.boot := rfl
@[simp] theorem Dev.incRf_att (d : Dev) (k lo w n : Nat) : (d.incRf k lo w n).att = d.att := rfl
@[simp] theorem Dev.incRf_sv (d : Dev) (k lo w n : Nat) : (d.incRf k lo w n).sv = d.sv := rfl
@[simp] theorem Dev.incRf_drain (d : Dev) (k lo w n : Nat) : (d.incRf k lo w n).drain = d.drain := rfl
@[simp] theorem Dev.incRf_fill (d : Dev) (k lo w n : Nat) : (d.incRf k lo w n).fill = d.fill := rfl
@[simp] theorem Dev.incRf_pdNow (d : Dev) (k lo w n : Nat) : (d.incRf k lo w n).pdNow = d.pdNow := rfl
@[simp] theorem Dev.incRf_scrub (d : Dev) (k lo w n : Nat) : (d.incRf k lo w n).scrub = d.scrub := rfl
@[simp] theorem Dev.incRf_survey (d : Dev) (k lo w n : Nat) : (d.incRf k lo w n).survey = d.survey := rfl
@[simp] theorem Dev.incRf_free (d : Dev) (k lo w n : Nat) : (d.incRf k lo w n).free = d.free := rfl
@[simp] theorem Dev.incRf_out (d : Dev) (k lo w n : Nat) : (d.incRf k lo w n).out = d.out := rfl

/-! ### setCore changes `cores` alone -/

@[simp] theorem Dev.setCore_mer (d : Dev) (c : Nat) (x : Core) : (d.setCore c x).mer = d.mer := rfl
@[simp] theorem Dev.setCore_mode (d : Dev) (c : Nat) (x : Core) : (d.setCore c x).mode = d.mode := rfl
@[simp] theorem Dev.setCore_regs (d : Dev) (c : Nat) (x : Core) : (d.setCore c x).regs = d.regs := rfl
@[simp] theorem Dev.setCore_shadow (d : Dev) (c : Nat) (x : Core) : (d.setCore c x).shadow = d.shadow := rfl
@[simp] theorem Dev.setCore_mem (d : Dev) (c : Nat) (x : Core) : (d.setCore c x).mem = d.mem := rfl
@[simp] theorem Dev.setCore_pstore (d : Dev) (c : Nat) (x : Core) : (d.setCore c x).pstore = d.pstore := rfl
@[simp] theorem Dev.setCore_keys (d : Dev) (c : Nat) (x : Core) : (d.setCore c x).keys = d.keys := rfl
@[simp] theorem Dev.setCore_uncorr (d : Dev) (c : Nat) (x : Core) : (d.setCore c x).uncorr = d.uncorr := rfl
@[simp] theorem Dev.setCore_corr (d : Dev) (c : Nat) (x : Core) : (d.setCore c x).corr = d.corr := rfl
@[simp] theorem Dev.setCore_qFrame (d : Dev) (c : Nat) (x : Core) : (d.setCore c x).qFrame = d.qFrame := rfl
@[simp] theorem Dev.setCore_db (d : Dev) (c : Nat) (x : Core) : (d.setCore c x).db = d.db := rfl
@[simp] theorem Dev.setCore_outUnits (d : Dev) (c : Nat) (x : Core) : (d.setCore c x).outUnits = d.outUnits := rfl
@[simp] theorem Dev.setCore_pci (d : Dev) (c : Nat) (x : Core) : (d.setCore c x).pci = d.pci := rfl
@[simp] theorem Dev.setCore_items (d : Dev) (c : Nat) (x : Core) : (d.setCore c x).items = d.items := rfl
@[simp] theorem Dev.setCore_nextItem (d : Dev) (c : Nat) (x : Core) : (d.setCore c x).nextItem = d.nextItem := rfl
@[simp] theorem Dev.setCore_qSeq (d : Dev) (c : Nat) (x : Core) : (d.setCore c x).qSeq = d.qSeq := rfl
@[simp] theorem Dev.setCore_qArr (d : Dev) (c : Nat) (x : Core) : (d.setCore c x).qArr = d.qArr := rfl
@[simp] theorem Dev.setCore_qOpen (d : Dev) (c : Nat) (x : Core) : (d.setCore c x).qOpen = d.qOpen := rfl
@[simp] theorem Dev.setCore_migr (d : Dev) (c : Nat) (x : Core) : (d.setCore c x).migr = d.migr := rfl
@[simp] theorem Dev.setCore_qStrike (d : Dev) (c : Nat) (x : Core) : (d.setCore c x).qStrike = d.qStrike := rfl
@[simp] theorem Dev.setCore_hist (d : Dev) (c : Nat) (x : Core) : (d.setCore c x).hist = d.hist := rfl
@[simp] theorem Dev.setCore_hseq (d : Dev) (c : Nat) (x : Core) : (d.setCore c x).hseq = d.hseq := rfl
@[simp] theorem Dev.setCore_warm (d : Dev) (c : Nat) (x : Core) : (d.setCore c x).warm = d.warm := rfl
@[simp] theorem Dev.setCore_tripped (d : Dev) (c : Nat) (x : Core) : (d.setCore c x).tripped = d.tripped := rfl
@[simp] theorem Dev.setCore_uTarget (d : Dev) (c : Nat) (x : Core) : (d.setCore c x).uTarget = d.uTarget := rfl
@[simp] theorem Dev.setCore_hotSince (d : Dev) (c : Nat) (x : Core) : (d.setCore c x).hotSince = d.hotSince := rfl
@[simp] theorem Dev.setCore_coolSince (d : Dev) (c : Nat) (x : Core) : (d.setCore c x).coolSince = d.coolSince := rfl
@[simp] theorem Dev.setCore_rzUsed (d : Dev) (c : Nat) (x : Core) : (d.setCore c x).rzUsed = d.rzUsed := rfl
@[simp] theorem Dev.setCore_egress (d : Dev) (c : Nat) (x : Core) : (d.setCore c x).egress = d.egress := rfl
@[simp] theorem Dev.setCore_cairn (d : Dev) (c : Nat) (x : Core) : (d.setCore c x).cairn = d.cairn := rfl
@[simp] theorem Dev.setCore_dma (d : Dev) (c : Nat) (x : Core) : (d.setCore c x).dma = d.dma := rfl
@[simp] theorem Dev.setCore_uk (d : Dev) (c : Nat) (x : Core) : (d.setCore c x).uk = d.uk := rfl
@[simp] theorem Dev.setCore_mbox (d : Dev) (c : Nat) (x : Core) : (d.setCore c x).mbox = d.mbox := rfl
@[simp] theorem Dev.setCore_linkFails (d : Dev) (c : Nat) (x : Core) : (d.setCore c x).linkFails = d.linkFails := rfl
@[simp] theorem Dev.setCore_linkHeld (d : Dev) (c : Nat) (x : Core) : (d.setCore c x).linkHeld = d.linkHeld := rfl
@[simp] theorem Dev.setCore_ptp (d : Dev) (c : Nat) (x : Core) : (d.setCore c x).ptp = d.ptp := rfl
@[simp] theorem Dev.setCore_swapDue (d : Dev) (c : Nat) (x : Core) : (d.setCore c x).swapDue = d.swapDue := rfl
@[simp] theorem Dev.setCore_armDue (d : Dev) (c : Nat) (x : Core) : (d.setCore c x).armDue = d.armDue := rfl
@[simp] theorem Dev.setCore_digestDue (d : Dev) (c : Nat) (x : Core) : (d.setCore c x).digestDue = d.digestDue := rfl
@[simp] theorem Dev.setCore_patch (d : Dev) (c : Nat) (x : Core) : (d.setCore c x).patch = d.patch := rfl
@[simp] theorem Dev.setCore_load (d : Dev) (c : Nat) (x : Core) : (d.setCore c x).load = d.load := rfl
@[simp] theorem Dev.setCore_civFrac (d : Dev) (c : Nat) (x : Core) : (d.setCore c x).civFrac = d.civFrac := rfl
@[simp] theorem Dev.setCore_board (d : Dev) (c : Nat) (x : Core) : (d.setCore c x).board = d.board := rfl
@[simp] theorem Dev.setCore_boot (d : Dev) (c : Nat) (x : Core) : (d.setCore c x).boot = d.boot := rfl
@[simp] theorem Dev.setCore_att (d : Dev) (c : Nat) (x : Core) : (d.setCore c x).att = d.att := rfl
@[simp] theorem Dev.setCore_sv (d : Dev) (c : Nat) (x : Core) : (d.setCore c x).sv = d.sv := rfl
@[simp] theorem Dev.setCore_drain (d : Dev) (c : Nat) (x : Core) : (d.setCore c x).drain = d.drain := rfl
@[simp] theorem Dev.setCore_fill (d : Dev) (c : Nat) (x : Core) : (d.setCore c x).fill = d.fill := rfl
@[simp] theorem Dev.setCore_pdNow (d : Dev) (c : Nat) (x : Core) : (d.setCore c x).pdNow = d.pdNow := rfl
@[simp] theorem Dev.setCore_scrub (d : Dev) (c : Nat) (x : Core) : (d.setCore c x).scrub = d.scrub := rfl
@[simp] theorem Dev.setCore_survey (d : Dev) (c : Nat) (x : Core) : (d.setCore c x).survey = d.survey := rfl
@[simp] theorem Dev.setCore_free (d : Dev) (c : Nat) (x : Core) : (d.setCore c x).free = d.free := rfl
@[simp] theorem Dev.setCore_out (d : Dev) (c : Nat) (x : Core) : (d.setCore c x).out = d.out := rfl

/-! ### modCore changes `cores` alone -/

@[simp] theorem Dev.modCore_mer (d : Dev) (c : Nat) (f : Core → Core) : (d.modCore c f).mer = d.mer := rfl
@[simp] theorem Dev.modCore_mode (d : Dev) (c : Nat) (f : Core → Core) : (d.modCore c f).mode = d.mode := rfl
@[simp] theorem Dev.modCore_regs (d : Dev) (c : Nat) (f : Core → Core) : (d.modCore c f).regs = d.regs := rfl
@[simp] theorem Dev.modCore_shadow (d : Dev) (c : Nat) (f : Core → Core) : (d.modCore c f).shadow = d.shadow := rfl
@[simp] theorem Dev.modCore_mem (d : Dev) (c : Nat) (f : Core → Core) : (d.modCore c f).mem = d.mem := rfl
@[simp] theorem Dev.modCore_pstore (d : Dev) (c : Nat) (f : Core → Core) : (d.modCore c f).pstore = d.pstore := rfl
@[simp] theorem Dev.modCore_keys (d : Dev) (c : Nat) (f : Core → Core) : (d.modCore c f).keys = d.keys := rfl
@[simp] theorem Dev.modCore_uncorr (d : Dev) (c : Nat) (f : Core → Core) : (d.modCore c f).uncorr = d.uncorr := rfl
@[simp] theorem Dev.modCore_corr (d : Dev) (c : Nat) (f : Core → Core) : (d.modCore c f).corr = d.corr := rfl
@[simp] theorem Dev.modCore_qFrame (d : Dev) (c : Nat) (f : Core → Core) : (d.modCore c f).qFrame = d.qFrame := rfl
@[simp] theorem Dev.modCore_db (d : Dev) (c : Nat) (f : Core → Core) : (d.modCore c f).db = d.db := rfl
@[simp] theorem Dev.modCore_outUnits (d : Dev) (c : Nat) (f : Core → Core) : (d.modCore c f).outUnits = d.outUnits := rfl
@[simp] theorem Dev.modCore_pci (d : Dev) (c : Nat) (f : Core → Core) : (d.modCore c f).pci = d.pci := rfl
@[simp] theorem Dev.modCore_items (d : Dev) (c : Nat) (f : Core → Core) : (d.modCore c f).items = d.items := rfl
@[simp] theorem Dev.modCore_nextItem (d : Dev) (c : Nat) (f : Core → Core) : (d.modCore c f).nextItem = d.nextItem := rfl
@[simp] theorem Dev.modCore_qSeq (d : Dev) (c : Nat) (f : Core → Core) : (d.modCore c f).qSeq = d.qSeq := rfl
@[simp] theorem Dev.modCore_qArr (d : Dev) (c : Nat) (f : Core → Core) : (d.modCore c f).qArr = d.qArr := rfl
@[simp] theorem Dev.modCore_qOpen (d : Dev) (c : Nat) (f : Core → Core) : (d.modCore c f).qOpen = d.qOpen := rfl
@[simp] theorem Dev.modCore_migr (d : Dev) (c : Nat) (f : Core → Core) : (d.modCore c f).migr = d.migr := rfl
@[simp] theorem Dev.modCore_qStrike (d : Dev) (c : Nat) (f : Core → Core) : (d.modCore c f).qStrike = d.qStrike := rfl
@[simp] theorem Dev.modCore_hist (d : Dev) (c : Nat) (f : Core → Core) : (d.modCore c f).hist = d.hist := rfl
@[simp] theorem Dev.modCore_hseq (d : Dev) (c : Nat) (f : Core → Core) : (d.modCore c f).hseq = d.hseq := rfl
@[simp] theorem Dev.modCore_warm (d : Dev) (c : Nat) (f : Core → Core) : (d.modCore c f).warm = d.warm := rfl
@[simp] theorem Dev.modCore_tripped (d : Dev) (c : Nat) (f : Core → Core) : (d.modCore c f).tripped = d.tripped := rfl
@[simp] theorem Dev.modCore_uTarget (d : Dev) (c : Nat) (f : Core → Core) : (d.modCore c f).uTarget = d.uTarget := rfl
@[simp] theorem Dev.modCore_hotSince (d : Dev) (c : Nat) (f : Core → Core) : (d.modCore c f).hotSince = d.hotSince := rfl
@[simp] theorem Dev.modCore_coolSince (d : Dev) (c : Nat) (f : Core → Core) : (d.modCore c f).coolSince = d.coolSince := rfl
@[simp] theorem Dev.modCore_rzUsed (d : Dev) (c : Nat) (f : Core → Core) : (d.modCore c f).rzUsed = d.rzUsed := rfl
@[simp] theorem Dev.modCore_egress (d : Dev) (c : Nat) (f : Core → Core) : (d.modCore c f).egress = d.egress := rfl
@[simp] theorem Dev.modCore_cairn (d : Dev) (c : Nat) (f : Core → Core) : (d.modCore c f).cairn = d.cairn := rfl
@[simp] theorem Dev.modCore_dma (d : Dev) (c : Nat) (f : Core → Core) : (d.modCore c f).dma = d.dma := rfl
@[simp] theorem Dev.modCore_uk (d : Dev) (c : Nat) (f : Core → Core) : (d.modCore c f).uk = d.uk := rfl
@[simp] theorem Dev.modCore_mbox (d : Dev) (c : Nat) (f : Core → Core) : (d.modCore c f).mbox = d.mbox := rfl
@[simp] theorem Dev.modCore_linkFails (d : Dev) (c : Nat) (f : Core → Core) : (d.modCore c f).linkFails = d.linkFails := rfl
@[simp] theorem Dev.modCore_linkHeld (d : Dev) (c : Nat) (f : Core → Core) : (d.modCore c f).linkHeld = d.linkHeld := rfl
@[simp] theorem Dev.modCore_ptp (d : Dev) (c : Nat) (f : Core → Core) : (d.modCore c f).ptp = d.ptp := rfl
@[simp] theorem Dev.modCore_swapDue (d : Dev) (c : Nat) (f : Core → Core) : (d.modCore c f).swapDue = d.swapDue := rfl
@[simp] theorem Dev.modCore_armDue (d : Dev) (c : Nat) (f : Core → Core) : (d.modCore c f).armDue = d.armDue := rfl
@[simp] theorem Dev.modCore_digestDue (d : Dev) (c : Nat) (f : Core → Core) : (d.modCore c f).digestDue = d.digestDue := rfl
@[simp] theorem Dev.modCore_patch (d : Dev) (c : Nat) (f : Core → Core) : (d.modCore c f).patch = d.patch := rfl
@[simp] theorem Dev.modCore_load (d : Dev) (c : Nat) (f : Core → Core) : (d.modCore c f).load = d.load := rfl
@[simp] theorem Dev.modCore_civFrac (d : Dev) (c : Nat) (f : Core → Core) : (d.modCore c f).civFrac = d.civFrac := rfl
@[simp] theorem Dev.modCore_board (d : Dev) (c : Nat) (f : Core → Core) : (d.modCore c f).board = d.board := rfl
@[simp] theorem Dev.modCore_boot (d : Dev) (c : Nat) (f : Core → Core) : (d.modCore c f).boot = d.boot := rfl
@[simp] theorem Dev.modCore_att (d : Dev) (c : Nat) (f : Core → Core) : (d.modCore c f).att = d.att := rfl
@[simp] theorem Dev.modCore_sv (d : Dev) (c : Nat) (f : Core → Core) : (d.modCore c f).sv = d.sv := rfl
@[simp] theorem Dev.modCore_drain (d : Dev) (c : Nat) (f : Core → Core) : (d.modCore c f).drain = d.drain := rfl
@[simp] theorem Dev.modCore_fill (d : Dev) (c : Nat) (f : Core → Core) : (d.modCore c f).fill = d.fill := rfl
@[simp] theorem Dev.modCore_pdNow (d : Dev) (c : Nat) (f : Core → Core) : (d.modCore c f).pdNow = d.pdNow := rfl
@[simp] theorem Dev.modCore_scrub (d : Dev) (c : Nat) (f : Core → Core) : (d.modCore c f).scrub = d.scrub := rfl
@[simp] theorem Dev.modCore_survey (d : Dev) (c : Nat) (f : Core → Core) : (d.modCore c f).survey = d.survey := rfl
@[simp] theorem Dev.modCore_free (d : Dev) (c : Nat) (f : Core → Core) : (d.modCore c f).free = d.free := rfl
@[simp] theorem Dev.modCore_out (d : Dev) (c : Nat) (f : Core → Core) : (d.modCore c f).out = d.out := rfl

/-! ### emit changes `out` alone -/

@[simp] theorem Dev.emit_mer (d : Dev) (o : Out) : (d.emit o).mer = d.mer := rfl
@[simp] theorem Dev.emit_mode (d : Dev) (o : Out) : (d.emit o).mode = d.mode := rfl
@[simp] theorem Dev.emit_regs (d : Dev) (o : Out) : (d.emit o).regs = d.regs := rfl
@[simp] theorem Dev.emit_shadow (d : Dev) (o : Out) : (d.emit o).shadow = d.shadow := rfl
@[simp] theorem Dev.emit_mem (d : Dev) (o : Out) : (d.emit o).mem = d.mem := rfl
@[simp] theorem Dev.emit_pstore (d : Dev) (o : Out) : (d.emit o).pstore = d.pstore := rfl
@[simp] theorem Dev.emit_keys (d : Dev) (o : Out) : (d.emit o).keys = d.keys := rfl
@[simp] theorem Dev.emit_uncorr (d : Dev) (o : Out) : (d.emit o).uncorr = d.uncorr := rfl
@[simp] theorem Dev.emit_corr (d : Dev) (o : Out) : (d.emit o).corr = d.corr := rfl
@[simp] theorem Dev.emit_cores (d : Dev) (o : Out) : (d.emit o).cores = d.cores := rfl
@[simp] theorem Dev.emit_qFrame (d : Dev) (o : Out) : (d.emit o).qFrame = d.qFrame := rfl
@[simp] theorem Dev.emit_db (d : Dev) (o : Out) : (d.emit o).db = d.db := rfl
@[simp] theorem Dev.emit_outUnits (d : Dev) (o : Out) : (d.emit o).outUnits = d.outUnits := rfl
@[simp] theorem Dev.emit_pci (d : Dev) (o : Out) : (d.emit o).pci = d.pci := rfl
@[simp] theorem Dev.emit_items (d : Dev) (o : Out) : (d.emit o).items = d.items := rfl
@[simp] theorem Dev.emit_nextItem (d : Dev) (o : Out) : (d.emit o).nextItem = d.nextItem := rfl
@[simp] theorem Dev.emit_qSeq (d : Dev) (o : Out) : (d.emit o).qSeq = d.qSeq := rfl
@[simp] theorem Dev.emit_qArr (d : Dev) (o : Out) : (d.emit o).qArr = d.qArr := rfl
@[simp] theorem Dev.emit_qOpen (d : Dev) (o : Out) : (d.emit o).qOpen = d.qOpen := rfl
@[simp] theorem Dev.emit_migr (d : Dev) (o : Out) : (d.emit o).migr = d.migr := rfl
@[simp] theorem Dev.emit_qStrike (d : Dev) (o : Out) : (d.emit o).qStrike = d.qStrike := rfl
@[simp] theorem Dev.emit_hist (d : Dev) (o : Out) : (d.emit o).hist = d.hist := rfl
@[simp] theorem Dev.emit_hseq (d : Dev) (o : Out) : (d.emit o).hseq = d.hseq := rfl
@[simp] theorem Dev.emit_warm (d : Dev) (o : Out) : (d.emit o).warm = d.warm := rfl
@[simp] theorem Dev.emit_tripped (d : Dev) (o : Out) : (d.emit o).tripped = d.tripped := rfl
@[simp] theorem Dev.emit_uTarget (d : Dev) (o : Out) : (d.emit o).uTarget = d.uTarget := rfl
@[simp] theorem Dev.emit_hotSince (d : Dev) (o : Out) : (d.emit o).hotSince = d.hotSince := rfl
@[simp] theorem Dev.emit_coolSince (d : Dev) (o : Out) : (d.emit o).coolSince = d.coolSince := rfl
@[simp] theorem Dev.emit_rzUsed (d : Dev) (o : Out) : (d.emit o).rzUsed = d.rzUsed := rfl
@[simp] theorem Dev.emit_egress (d : Dev) (o : Out) : (d.emit o).egress = d.egress := rfl
@[simp] theorem Dev.emit_cairn (d : Dev) (o : Out) : (d.emit o).cairn = d.cairn := rfl
@[simp] theorem Dev.emit_dma (d : Dev) (o : Out) : (d.emit o).dma = d.dma := rfl
@[simp] theorem Dev.emit_uk (d : Dev) (o : Out) : (d.emit o).uk = d.uk := rfl
@[simp] theorem Dev.emit_mbox (d : Dev) (o : Out) : (d.emit o).mbox = d.mbox := rfl
@[simp] theorem Dev.emit_linkFails (d : Dev) (o : Out) : (d.emit o).linkFails = d.linkFails := rfl
@[simp] theorem Dev.emit_linkHeld (d : Dev) (o : Out) : (d.emit o).linkHeld = d.linkHeld := rfl
@[simp] theorem Dev.emit_ptp (d : Dev) (o : Out) : (d.emit o).ptp = d.ptp := rfl
@[simp] theorem Dev.emit_swapDue (d : Dev) (o : Out) : (d.emit o).swapDue = d.swapDue := rfl
@[simp] theorem Dev.emit_armDue (d : Dev) (o : Out) : (d.emit o).armDue = d.armDue := rfl
@[simp] theorem Dev.emit_digestDue (d : Dev) (o : Out) : (d.emit o).digestDue = d.digestDue := rfl
@[simp] theorem Dev.emit_patch (d : Dev) (o : Out) : (d.emit o).patch = d.patch := rfl
@[simp] theorem Dev.emit_load (d : Dev) (o : Out) : (d.emit o).load = d.load := rfl
@[simp] theorem Dev.emit_civFrac (d : Dev) (o : Out) : (d.emit o).civFrac = d.civFrac := rfl
@[simp] theorem Dev.emit_board (d : Dev) (o : Out) : (d.emit o).board = d.board := rfl
@[simp] theorem Dev.emit_boot (d : Dev) (o : Out) : (d.emit o).boot = d.boot := rfl
@[simp] theorem Dev.emit_att (d : Dev) (o : Out) : (d.emit o).att = d.att := rfl
@[simp] theorem Dev.emit_sv (d : Dev) (o : Out) : (d.emit o).sv = d.sv := rfl
@[simp] theorem Dev.emit_drain (d : Dev) (o : Out) : (d.emit o).drain = d.drain := rfl
@[simp] theorem Dev.emit_fill (d : Dev) (o : Out) : (d.emit o).fill = d.fill := rfl
@[simp] theorem Dev.emit_pdNow (d : Dev) (o : Out) : (d.emit o).pdNow = d.pdNow := rfl
@[simp] theorem Dev.emit_scrub (d : Dev) (o : Out) : (d.emit o).scrub = d.scrub := rfl
@[simp] theorem Dev.emit_survey (d : Dev) (o : Out) : (d.emit o).survey = d.survey := rfl
@[simp] theorem Dev.emit_free (d : Dev) (o : Out) : (d.emit o).free = d.free := rfl

/-! ### setItem changes `items` alone -/

@[simp] theorem Dev.setItem_mer (d : Dev) (n : Nat) (x : Item) : (d.setItem n x).mer = d.mer := rfl
@[simp] theorem Dev.setItem_mode (d : Dev) (n : Nat) (x : Item) : (d.setItem n x).mode = d.mode := rfl
@[simp] theorem Dev.setItem_regs (d : Dev) (n : Nat) (x : Item) : (d.setItem n x).regs = d.regs := rfl
@[simp] theorem Dev.setItem_shadow (d : Dev) (n : Nat) (x : Item) : (d.setItem n x).shadow = d.shadow := rfl
@[simp] theorem Dev.setItem_mem (d : Dev) (n : Nat) (x : Item) : (d.setItem n x).mem = d.mem := rfl
@[simp] theorem Dev.setItem_pstore (d : Dev) (n : Nat) (x : Item) : (d.setItem n x).pstore = d.pstore := rfl
@[simp] theorem Dev.setItem_keys (d : Dev) (n : Nat) (x : Item) : (d.setItem n x).keys = d.keys := rfl
@[simp] theorem Dev.setItem_uncorr (d : Dev) (n : Nat) (x : Item) : (d.setItem n x).uncorr = d.uncorr := rfl
@[simp] theorem Dev.setItem_corr (d : Dev) (n : Nat) (x : Item) : (d.setItem n x).corr = d.corr := rfl
@[simp] theorem Dev.setItem_cores (d : Dev) (n : Nat) (x : Item) : (d.setItem n x).cores = d.cores := rfl
@[simp] theorem Dev.setItem_qFrame (d : Dev) (n : Nat) (x : Item) : (d.setItem n x).qFrame = d.qFrame := rfl
@[simp] theorem Dev.setItem_db (d : Dev) (n : Nat) (x : Item) : (d.setItem n x).db = d.db := rfl
@[simp] theorem Dev.setItem_outUnits (d : Dev) (n : Nat) (x : Item) : (d.setItem n x).outUnits = d.outUnits := rfl
@[simp] theorem Dev.setItem_pci (d : Dev) (n : Nat) (x : Item) : (d.setItem n x).pci = d.pci := rfl
@[simp] theorem Dev.setItem_nextItem (d : Dev) (n : Nat) (x : Item) : (d.setItem n x).nextItem = d.nextItem := rfl
@[simp] theorem Dev.setItem_qSeq (d : Dev) (n : Nat) (x : Item) : (d.setItem n x).qSeq = d.qSeq := rfl
@[simp] theorem Dev.setItem_qArr (d : Dev) (n : Nat) (x : Item) : (d.setItem n x).qArr = d.qArr := rfl
@[simp] theorem Dev.setItem_qOpen (d : Dev) (n : Nat) (x : Item) : (d.setItem n x).qOpen = d.qOpen := rfl
@[simp] theorem Dev.setItem_migr (d : Dev) (n : Nat) (x : Item) : (d.setItem n x).migr = d.migr := rfl
@[simp] theorem Dev.setItem_qStrike (d : Dev) (n : Nat) (x : Item) : (d.setItem n x).qStrike = d.qStrike := rfl
@[simp] theorem Dev.setItem_hist (d : Dev) (n : Nat) (x : Item) : (d.setItem n x).hist = d.hist := rfl
@[simp] theorem Dev.setItem_hseq (d : Dev) (n : Nat) (x : Item) : (d.setItem n x).hseq = d.hseq := rfl
@[simp] theorem Dev.setItem_warm (d : Dev) (n : Nat) (x : Item) : (d.setItem n x).warm = d.warm := rfl
@[simp] theorem Dev.setItem_tripped (d : Dev) (n : Nat) (x : Item) : (d.setItem n x).tripped = d.tripped := rfl
@[simp] theorem Dev.setItem_uTarget (d : Dev) (n : Nat) (x : Item) : (d.setItem n x).uTarget = d.uTarget := rfl
@[simp] theorem Dev.setItem_hotSince (d : Dev) (n : Nat) (x : Item) : (d.setItem n x).hotSince = d.hotSince := rfl
@[simp] theorem Dev.setItem_coolSince (d : Dev) (n : Nat) (x : Item) : (d.setItem n x).coolSince = d.coolSince := rfl
@[simp] theorem Dev.setItem_rzUsed (d : Dev) (n : Nat) (x : Item) : (d.setItem n x).rzUsed = d.rzUsed := rfl
@[simp] theorem Dev.setItem_egress (d : Dev) (n : Nat) (x : Item) : (d.setItem n x).egress = d.egress := rfl
@[simp] theorem Dev.setItem_cairn (d : Dev) (n : Nat) (x : Item) : (d.setItem n x).cairn = d.cairn := rfl
@[simp] theorem Dev.setItem_dma (d : Dev) (n : Nat) (x : Item) : (d.setItem n x).dma = d.dma := rfl
@[simp] theorem Dev.setItem_uk (d : Dev) (n : Nat) (x : Item) : (d.setItem n x).uk = d.uk := rfl
@[simp] theorem Dev.setItem_mbox (d : Dev) (n : Nat) (x : Item) : (d.setItem n x).mbox = d.mbox := rfl
@[simp] theorem Dev.setItem_linkFails (d : Dev) (n : Nat) (x : Item) : (d.setItem n x).linkFails = d.linkFails := rfl
@[simp] theorem Dev.setItem_linkHeld (d : Dev) (n : Nat) (x : Item) : (d.setItem n x).linkHeld = d.linkHeld := rfl
@[simp] theorem Dev.setItem_ptp (d : Dev) (n : Nat) (x : Item) : (d.setItem n x).ptp = d.ptp := rfl
@[simp] theorem Dev.setItem_swapDue (d : Dev) (n : Nat) (x : Item) : (d.setItem n x).swapDue = d.swapDue := rfl
@[simp] theorem Dev.setItem_armDue (d : Dev) (n : Nat) (x : Item) : (d.setItem n x).armDue = d.armDue := rfl
@[simp] theorem Dev.setItem_digestDue (d : Dev) (n : Nat) (x : Item) : (d.setItem n x).digestDue = d.digestDue := rfl
@[simp] theorem Dev.setItem_patch (d : Dev) (n : Nat) (x : Item) : (d.setItem n x).patch = d.patch := rfl
@[simp] theorem Dev.setItem_load (d : Dev) (n : Nat) (x : Item) : (d.setItem n x).load = d.load := rfl
@[simp] theorem Dev.setItem_civFrac (d : Dev) (n : Nat) (x : Item) : (d.setItem n x).civFrac = d.civFrac := rfl
@[simp] theorem Dev.setItem_board (d : Dev) (n : Nat) (x : Item) : (d.setItem n x).board = d.board := rfl
@[simp] theorem Dev.setItem_boot (d : Dev) (n : Nat) (x : Item) : (d.setItem n x).boot = d.boot := rfl
@[simp] theorem Dev.setItem_att (d : Dev) (n : Nat) (x : Item) : (d.setItem n x).att = d.att := rfl
@[simp] theorem Dev.setItem_sv (d : Dev) (n : Nat) (x : Item) : (d.setItem n x).sv = d.sv := rfl
@[simp] theorem Dev.setItem_drain (d : Dev) (n : Nat) (x : Item) : (d.setItem n x).drain = d.drain := rfl
@[simp] theorem Dev.setItem_fill (d : Dev) (n : Nat) (x : Item) : (d.setItem n x).fill = d.fill := rfl
@[simp] theorem Dev.setItem_pdNow (d : Dev) (n : Nat) (x : Item) : (d.setItem n x).pdNow = d.pdNow := rfl
@[simp] theorem Dev.setItem_scrub (d : Dev) (n : Nat) (x : Item) : (d.setItem n x).scrub = d.scrub := rfl
@[simp] theorem Dev.setItem_survey (d : Dev) (n : Nat) (x : Item) : (d.setItem n x).survey = d.survey := rfl
@[simp] theorem Dev.setItem_free (d : Dev) (n : Nat) (x : Item) : (d.setItem n x).free = d.free := rfl
@[simp] theorem Dev.setItem_out (d : Dev) (n : Nat) (x : Item) : (d.setItem n x).out = d.out := rfl

/-! ### setLink changes `uk` alone -/

@[simp] theorem Dev.setLink_mer (d : Dev) (w : Bool) (l : Link) : (d.setLink w l).mer = d.mer := rfl
@[simp] theorem Dev.setLink_mode (d : Dev) (w : Bool) (l : Link) : (d.setLink w l).mode = d.mode := rfl
@[simp] theorem Dev.setLink_regs (d : Dev) (w : Bool) (l : Link) : (d.setLink w l).regs = d.regs := rfl
@[simp] theorem Dev.setLink_shadow (d : Dev) (w : Bool) (l : Link) : (d.setLink w l).shadow = d.shadow := rfl
@[simp] theorem Dev.setLink_mem (d : Dev) (w : Bool) (l : Link) : (d.setLink w l).mem = d.mem := rfl
@[simp] theorem Dev.setLink_pstore (d : Dev) (w : Bool) (l : Link) : (d.setLink w l).pstore = d.pstore := rfl
@[simp] theorem Dev.setLink_keys (d : Dev) (w : Bool) (l : Link) : (d.setLink w l).keys = d.keys := rfl
@[simp] theorem Dev.setLink_uncorr (d : Dev) (w : Bool) (l : Link) : (d.setLink w l).uncorr = d.uncorr := rfl
@[simp] theorem Dev.setLink_corr (d : Dev) (w : Bool) (l : Link) : (d.setLink w l).corr = d.corr := rfl
@[simp] theorem Dev.setLink_cores (d : Dev) (w : Bool) (l : Link) : (d.setLink w l).cores = d.cores := rfl
@[simp] theorem Dev.setLink_qFrame (d : Dev) (w : Bool) (l : Link) : (d.setLink w l).qFrame = d.qFrame := rfl
@[simp] theorem Dev.setLink_db (d : Dev) (w : Bool) (l : Link) : (d.setLink w l).db = d.db := rfl
@[simp] theorem Dev.setLink_outUnits (d : Dev) (w : Bool) (l : Link) : (d.setLink w l).outUnits = d.outUnits := rfl
@[simp] theorem Dev.setLink_pci (d : Dev) (w : Bool) (l : Link) : (d.setLink w l).pci = d.pci := rfl
@[simp] theorem Dev.setLink_items (d : Dev) (w : Bool) (l : Link) : (d.setLink w l).items = d.items := rfl
@[simp] theorem Dev.setLink_nextItem (d : Dev) (w : Bool) (l : Link) : (d.setLink w l).nextItem = d.nextItem := rfl
@[simp] theorem Dev.setLink_qSeq (d : Dev) (w : Bool) (l : Link) : (d.setLink w l).qSeq = d.qSeq := rfl
@[simp] theorem Dev.setLink_qArr (d : Dev) (w : Bool) (l : Link) : (d.setLink w l).qArr = d.qArr := rfl
@[simp] theorem Dev.setLink_qOpen (d : Dev) (w : Bool) (l : Link) : (d.setLink w l).qOpen = d.qOpen := rfl
@[simp] theorem Dev.setLink_migr (d : Dev) (w : Bool) (l : Link) : (d.setLink w l).migr = d.migr := rfl
@[simp] theorem Dev.setLink_qStrike (d : Dev) (w : Bool) (l : Link) : (d.setLink w l).qStrike = d.qStrike := rfl
@[simp] theorem Dev.setLink_hist (d : Dev) (w : Bool) (l : Link) : (d.setLink w l).hist = d.hist := rfl
@[simp] theorem Dev.setLink_hseq (d : Dev) (w : Bool) (l : Link) : (d.setLink w l).hseq = d.hseq := rfl
@[simp] theorem Dev.setLink_warm (d : Dev) (w : Bool) (l : Link) : (d.setLink w l).warm = d.warm := rfl
@[simp] theorem Dev.setLink_tripped (d : Dev) (w : Bool) (l : Link) : (d.setLink w l).tripped = d.tripped := rfl
@[simp] theorem Dev.setLink_uTarget (d : Dev) (w : Bool) (l : Link) : (d.setLink w l).uTarget = d.uTarget := rfl
@[simp] theorem Dev.setLink_hotSince (d : Dev) (w : Bool) (l : Link) : (d.setLink w l).hotSince = d.hotSince := rfl
@[simp] theorem Dev.setLink_coolSince (d : Dev) (w : Bool) (l : Link) : (d.setLink w l).coolSince = d.coolSince := rfl
@[simp] theorem Dev.setLink_rzUsed (d : Dev) (w : Bool) (l : Link) : (d.setLink w l).rzUsed = d.rzUsed := rfl
@[simp] theorem Dev.setLink_egress (d : Dev) (w : Bool) (l : Link) : (d.setLink w l).egress = d.egress := rfl
@[simp] theorem Dev.setLink_cairn (d : Dev) (w : Bool) (l : Link) : (d.setLink w l).cairn = d.cairn := rfl
@[simp] theorem Dev.setLink_dma (d : Dev) (w : Bool) (l : Link) : (d.setLink w l).dma = d.dma := rfl
@[simp] theorem Dev.setLink_mbox (d : Dev) (w : Bool) (l : Link) : (d.setLink w l).mbox = d.mbox := rfl
@[simp] theorem Dev.setLink_linkFails (d : Dev) (w : Bool) (l : Link) : (d.setLink w l).linkFails = d.linkFails := rfl
@[simp] theorem Dev.setLink_linkHeld (d : Dev) (w : Bool) (l : Link) : (d.setLink w l).linkHeld = d.linkHeld := rfl
@[simp] theorem Dev.setLink_ptp (d : Dev) (w : Bool) (l : Link) : (d.setLink w l).ptp = d.ptp := rfl
@[simp] theorem Dev.setLink_swapDue (d : Dev) (w : Bool) (l : Link) : (d.setLink w l).swapDue = d.swapDue := rfl
@[simp] theorem Dev.setLink_armDue (d : Dev) (w : Bool) (l : Link) : (d.setLink w l).armDue = d.armDue := rfl
@[simp] theorem Dev.setLink_digestDue (d : Dev) (w : Bool) (l : Link) : (d.setLink w l).digestDue = d.digestDue := rfl
@[simp] theorem Dev.setLink_patch (d : Dev) (w : Bool) (l : Link) : (d.setLink w l).patch = d.patch := rfl
@[simp] theorem Dev.setLink_load (d : Dev) (w : Bool) (l : Link) : (d.setLink w l).load = d.load := rfl
@[simp] theorem Dev.setLink_civFrac (d : Dev) (w : Bool) (l : Link) : (d.setLink w l).civFrac = d.civFrac := rfl
@[simp] theorem Dev.setLink_board (d : Dev) (w : Bool) (l : Link) : (d.setLink w l).board = d.board := rfl
@[simp] theorem Dev.setLink_boot (d : Dev) (w : Bool) (l : Link) : (d.setLink w l).boot = d.boot := rfl
@[simp] theorem Dev.setLink_att (d : Dev) (w : Bool) (l : Link) : (d.setLink w l).att = d.att := rfl
@[simp] theorem Dev.setLink_sv (d : Dev) (w : Bool) (l : Link) : (d.setLink w l).sv = d.sv := rfl
@[simp] theorem Dev.setLink_drain (d : Dev) (w : Bool) (l : Link) : (d.setLink w l).drain = d.drain := rfl
@[simp] theorem Dev.setLink_fill (d : Dev) (w : Bool) (l : Link) : (d.setLink w l).fill = d.fill := rfl
@[simp] theorem Dev.setLink_pdNow (d : Dev) (w : Bool) (l : Link) : (d.setLink w l).pdNow = d.pdNow := rfl
@[simp] theorem Dev.setLink_scrub (d : Dev) (w : Bool) (l : Link) : (d.setLink w l).scrub = d.scrub := rfl
@[simp] theorem Dev.setLink_survey (d : Dev) (w : Bool) (l : Link) : (d.setLink w l).survey = d.survey := rfl
@[simp] theorem Dev.setLink_free (d : Dev) (w : Bool) (l : Link) : (d.setLink w l).free = d.free := rfl
@[simp] theorem Dev.setLink_out (d : Dev) (w : Bool) (l : Link) : (d.setLink w l).out = d.out := rfl

/-! ### setMbx changes `mbox` alone -/

@[simp] theorem Dev.setMbx_mer (d : Dev) (m : Nat) (x : Mbx) : (d.setMbx m x).mer = d.mer := rfl
@[simp] theorem Dev.setMbx_mode (d : Dev) (m : Nat) (x : Mbx) : (d.setMbx m x).mode = d.mode := rfl
@[simp] theorem Dev.setMbx_regs (d : Dev) (m : Nat) (x : Mbx) : (d.setMbx m x).regs = d.regs := rfl
@[simp] theorem Dev.setMbx_shadow (d : Dev) (m : Nat) (x : Mbx) : (d.setMbx m x).shadow = d.shadow := rfl
@[simp] theorem Dev.setMbx_mem (d : Dev) (m : Nat) (x : Mbx) : (d.setMbx m x).mem = d.mem := rfl
@[simp] theorem Dev.setMbx_pstore (d : Dev) (m : Nat) (x : Mbx) : (d.setMbx m x).pstore = d.pstore := rfl
@[simp] theorem Dev.setMbx_keys (d : Dev) (m : Nat) (x : Mbx) : (d.setMbx m x).keys = d.keys := rfl
@[simp] theorem Dev.setMbx_uncorr (d : Dev) (m : Nat) (x : Mbx) : (d.setMbx m x).uncorr = d.uncorr := rfl
@[simp] theorem Dev.setMbx_corr (d : Dev) (m : Nat) (x : Mbx) : (d.setMbx m x).corr = d.corr := rfl
@[simp] theorem Dev.setMbx_cores (d : Dev) (m : Nat) (x : Mbx) : (d.setMbx m x).cores = d.cores := rfl
@[simp] theorem Dev.setMbx_qFrame (d : Dev) (m : Nat) (x : Mbx) : (d.setMbx m x).qFrame = d.qFrame := rfl
@[simp] theorem Dev.setMbx_db (d : Dev) (m : Nat) (x : Mbx) : (d.setMbx m x).db = d.db := rfl
@[simp] theorem Dev.setMbx_outUnits (d : Dev) (m : Nat) (x : Mbx) : (d.setMbx m x).outUnits = d.outUnits := rfl
@[simp] theorem Dev.setMbx_pci (d : Dev) (m : Nat) (x : Mbx) : (d.setMbx m x).pci = d.pci := rfl
@[simp] theorem Dev.setMbx_items (d : Dev) (m : Nat) (x : Mbx) : (d.setMbx m x).items = d.items := rfl
@[simp] theorem Dev.setMbx_nextItem (d : Dev) (m : Nat) (x : Mbx) : (d.setMbx m x).nextItem = d.nextItem := rfl
@[simp] theorem Dev.setMbx_qSeq (d : Dev) (m : Nat) (x : Mbx) : (d.setMbx m x).qSeq = d.qSeq := rfl
@[simp] theorem Dev.setMbx_qArr (d : Dev) (m : Nat) (x : Mbx) : (d.setMbx m x).qArr = d.qArr := rfl
@[simp] theorem Dev.setMbx_qOpen (d : Dev) (m : Nat) (x : Mbx) : (d.setMbx m x).qOpen = d.qOpen := rfl
@[simp] theorem Dev.setMbx_migr (d : Dev) (m : Nat) (x : Mbx) : (d.setMbx m x).migr = d.migr := rfl
@[simp] theorem Dev.setMbx_qStrike (d : Dev) (m : Nat) (x : Mbx) : (d.setMbx m x).qStrike = d.qStrike := rfl
@[simp] theorem Dev.setMbx_hist (d : Dev) (m : Nat) (x : Mbx) : (d.setMbx m x).hist = d.hist := rfl
@[simp] theorem Dev.setMbx_hseq (d : Dev) (m : Nat) (x : Mbx) : (d.setMbx m x).hseq = d.hseq := rfl
@[simp] theorem Dev.setMbx_warm (d : Dev) (m : Nat) (x : Mbx) : (d.setMbx m x).warm = d.warm := rfl
@[simp] theorem Dev.setMbx_tripped (d : Dev) (m : Nat) (x : Mbx) : (d.setMbx m x).tripped = d.tripped := rfl
@[simp] theorem Dev.setMbx_uTarget (d : Dev) (m : Nat) (x : Mbx) : (d.setMbx m x).uTarget = d.uTarget := rfl
@[simp] theorem Dev.setMbx_hotSince (d : Dev) (m : Nat) (x : Mbx) : (d.setMbx m x).hotSince = d.hotSince := rfl
@[simp] theorem Dev.setMbx_coolSince (d : Dev) (m : Nat) (x : Mbx) : (d.setMbx m x).coolSince = d.coolSince := rfl
@[simp] theorem Dev.setMbx_rzUsed (d : Dev) (m : Nat) (x : Mbx) : (d.setMbx m x).rzUsed = d.rzUsed := rfl
@[simp] theorem Dev.setMbx_egress (d : Dev) (m : Nat) (x : Mbx) : (d.setMbx m x).egress = d.egress := rfl
@[simp] theorem Dev.setMbx_cairn (d : Dev) (m : Nat) (x : Mbx) : (d.setMbx m x).cairn = d.cairn := rfl
@[simp] theorem Dev.setMbx_dma (d : Dev) (m : Nat) (x : Mbx) : (d.setMbx m x).dma = d.dma := rfl
@[simp] theorem Dev.setMbx_uk (d : Dev) (m : Nat) (x : Mbx) : (d.setMbx m x).uk = d.uk := rfl
@[simp] theorem Dev.setMbx_linkFails (d : Dev) (m : Nat) (x : Mbx) : (d.setMbx m x).linkFails = d.linkFails := rfl
@[simp] theorem Dev.setMbx_linkHeld (d : Dev) (m : Nat) (x : Mbx) : (d.setMbx m x).linkHeld = d.linkHeld := rfl
@[simp] theorem Dev.setMbx_ptp (d : Dev) (m : Nat) (x : Mbx) : (d.setMbx m x).ptp = d.ptp := rfl
@[simp] theorem Dev.setMbx_swapDue (d : Dev) (m : Nat) (x : Mbx) : (d.setMbx m x).swapDue = d.swapDue := rfl
@[simp] theorem Dev.setMbx_armDue (d : Dev) (m : Nat) (x : Mbx) : (d.setMbx m x).armDue = d.armDue := rfl
@[simp] theorem Dev.setMbx_digestDue (d : Dev) (m : Nat) (x : Mbx) : (d.setMbx m x).digestDue = d.digestDue := rfl
@[simp] theorem Dev.setMbx_patch (d : Dev) (m : Nat) (x : Mbx) : (d.setMbx m x).patch = d.patch := rfl
@[simp] theorem Dev.setMbx_load (d : Dev) (m : Nat) (x : Mbx) : (d.setMbx m x).load = d.load := rfl
@[simp] theorem Dev.setMbx_civFrac (d : Dev) (m : Nat) (x : Mbx) : (d.setMbx m x).civFrac = d.civFrac := rfl
@[simp] theorem Dev.setMbx_board (d : Dev) (m : Nat) (x : Mbx) : (d.setMbx m x).board = d.board := rfl
@[simp] theorem Dev.setMbx_boot (d : Dev) (m : Nat) (x : Mbx) : (d.setMbx m x).boot = d.boot := rfl
@[simp] theorem Dev.setMbx_att (d : Dev) (m : Nat) (x : Mbx) : (d.setMbx m x).att = d.att := rfl
@[simp] theorem Dev.setMbx_sv (d : Dev) (m : Nat) (x : Mbx) : (d.setMbx m x).sv = d.sv := rfl
@[simp] theorem Dev.setMbx_drain (d : Dev) (m : Nat) (x : Mbx) : (d.setMbx m x).drain = d.drain := rfl
@[simp] theorem Dev.setMbx_fill (d : Dev) (m : Nat) (x : Mbx) : (d.setMbx m x).fill = d.fill := rfl
@[simp] theorem Dev.setMbx_pdNow (d : Dev) (m : Nat) (x : Mbx) : (d.setMbx m x).pdNow = d.pdNow := rfl
@[simp] theorem Dev.setMbx_scrub (d : Dev) (m : Nat) (x : Mbx) : (d.setMbx m x).scrub = d.scrub := rfl
@[simp] theorem Dev.setMbx_survey (d : Dev) (m : Nat) (x : Mbx) : (d.setMbx m x).survey = d.survey := rfl
@[simp] theorem Dev.setMbx_free (d : Dev) (m : Nat) (x : Mbx) : (d.setMbx m x).free = d.free := rfl
@[simp] theorem Dev.setMbx_out (d : Dev) (m : Nat) (x : Mbx) : (d.setMbx m x).out = d.out := rfl

/-! ### setChain changes `cairn` alone -/

@[simp] theorem Dev.setChain_mer (d : Dev) (c : Nat) (x : Chain) : (d.setChain c x).mer = d.mer := rfl
@[simp] theorem Dev.setChain_mode (d : Dev) (c : Nat) (x : Chain) : (d.setChain c x).mode = d.mode := rfl
@[simp] theorem Dev.setChain_regs (d : Dev) (c : Nat) (x : Chain) : (d.setChain c x).regs = d.regs := rfl
@[simp] theorem Dev.setChain_shadow (d : Dev) (c : Nat) (x : Chain) : (d.setChain c x).shadow = d.shadow := rfl
@[simp] theorem Dev.setChain_mem (d : Dev) (c : Nat) (x : Chain) : (d.setChain c x).mem = d.mem := rfl
@[simp] theorem Dev.setChain_pstore (d : Dev) (c : Nat) (x : Chain) : (d.setChain c x).pstore = d.pstore := rfl
@[simp] theorem Dev.setChain_keys (d : Dev) (c : Nat) (x : Chain) : (d.setChain c x).keys = d.keys := rfl
@[simp] theorem Dev.setChain_uncorr (d : Dev) (c : Nat) (x : Chain) : (d.setChain c x).uncorr = d.uncorr := rfl
@[simp] theorem Dev.setChain_corr (d : Dev) (c : Nat) (x : Chain) : (d.setChain c x).corr = d.corr := rfl
@[simp] theorem Dev.setChain_cores (d : Dev) (c : Nat) (x : Chain) : (d.setChain c x).cores = d.cores := rfl
@[simp] theorem Dev.setChain_qFrame (d : Dev) (c : Nat) (x : Chain) : (d.setChain c x).qFrame = d.qFrame := rfl
@[simp] theorem Dev.setChain_db (d : Dev) (c : Nat) (x : Chain) : (d.setChain c x).db = d.db := rfl
@[simp] theorem Dev.setChain_outUnits (d : Dev) (c : Nat) (x : Chain) : (d.setChain c x).outUnits = d.outUnits := rfl
@[simp] theorem Dev.setChain_pci (d : Dev) (c : Nat) (x : Chain) : (d.setChain c x).pci = d.pci := rfl
@[simp] theorem Dev.setChain_items (d : Dev) (c : Nat) (x : Chain) : (d.setChain c x).items = d.items := rfl
@[simp] theorem Dev.setChain_nextItem (d : Dev) (c : Nat) (x : Chain) : (d.setChain c x).nextItem = d.nextItem := rfl
@[simp] theorem Dev.setChain_qSeq (d : Dev) (c : Nat) (x : Chain) : (d.setChain c x).qSeq = d.qSeq := rfl
@[simp] theorem Dev.setChain_qArr (d : Dev) (c : Nat) (x : Chain) : (d.setChain c x).qArr = d.qArr := rfl
@[simp] theorem Dev.setChain_qOpen (d : Dev) (c : Nat) (x : Chain) : (d.setChain c x).qOpen = d.qOpen := rfl
@[simp] theorem Dev.setChain_migr (d : Dev) (c : Nat) (x : Chain) : (d.setChain c x).migr = d.migr := rfl
@[simp] theorem Dev.setChain_qStrike (d : Dev) (c : Nat) (x : Chain) : (d.setChain c x).qStrike = d.qStrike := rfl
@[simp] theorem Dev.setChain_hist (d : Dev) (c : Nat) (x : Chain) : (d.setChain c x).hist = d.hist := rfl
@[simp] theorem Dev.setChain_hseq (d : Dev) (c : Nat) (x : Chain) : (d.setChain c x).hseq = d.hseq := rfl
@[simp] theorem Dev.setChain_warm (d : Dev) (c : Nat) (x : Chain) : (d.setChain c x).warm = d.warm := rfl
@[simp] theorem Dev.setChain_tripped (d : Dev) (c : Nat) (x : Chain) : (d.setChain c x).tripped = d.tripped := rfl
@[simp] theorem Dev.setChain_uTarget (d : Dev) (c : Nat) (x : Chain) : (d.setChain c x).uTarget = d.uTarget := rfl
@[simp] theorem Dev.setChain_hotSince (d : Dev) (c : Nat) (x : Chain) : (d.setChain c x).hotSince = d.hotSince := rfl
@[simp] theorem Dev.setChain_coolSince (d : Dev) (c : Nat) (x : Chain) : (d.setChain c x).coolSince = d.coolSince := rfl
@[simp] theorem Dev.setChain_rzUsed (d : Dev) (c : Nat) (x : Chain) : (d.setChain c x).rzUsed = d.rzUsed := rfl
@[simp] theorem Dev.setChain_egress (d : Dev) (c : Nat) (x : Chain) : (d.setChain c x).egress = d.egress := rfl
@[simp] theorem Dev.setChain_dma (d : Dev) (c : Nat) (x : Chain) : (d.setChain c x).dma = d.dma := rfl
@[simp] theorem Dev.setChain_uk (d : Dev) (c : Nat) (x : Chain) : (d.setChain c x).uk = d.uk := rfl
@[simp] theorem Dev.setChain_mbox (d : Dev) (c : Nat) (x : Chain) : (d.setChain c x).mbox = d.mbox := rfl
@[simp] theorem Dev.setChain_linkFails (d : Dev) (c : Nat) (x : Chain) : (d.setChain c x).linkFails = d.linkFails := rfl
@[simp] theorem Dev.setChain_linkHeld (d : Dev) (c : Nat) (x : Chain) : (d.setChain c x).linkHeld = d.linkHeld := rfl
@[simp] theorem Dev.setChain_ptp (d : Dev) (c : Nat) (x : Chain) : (d.setChain c x).ptp = d.ptp := rfl
@[simp] theorem Dev.setChain_swapDue (d : Dev) (c : Nat) (x : Chain) : (d.setChain c x).swapDue = d.swapDue := rfl
@[simp] theorem Dev.setChain_armDue (d : Dev) (c : Nat) (x : Chain) : (d.setChain c x).armDue = d.armDue := rfl
@[simp] theorem Dev.setChain_digestDue (d : Dev) (c : Nat) (x : Chain) : (d.setChain c x).digestDue = d.digestDue := rfl
@[simp] theorem Dev.setChain_patch (d : Dev) (c : Nat) (x : Chain) : (d.setChain c x).patch = d.patch := rfl
@[simp] theorem Dev.setChain_load (d : Dev) (c : Nat) (x : Chain) : (d.setChain c x).load = d.load := rfl
@[simp] theorem Dev.setChain_civFrac (d : Dev) (c : Nat) (x : Chain) : (d.setChain c x).civFrac = d.civFrac := rfl
@[simp] theorem Dev.setChain_board (d : Dev) (c : Nat) (x : Chain) : (d.setChain c x).board = d.board := rfl
@[simp] theorem Dev.setChain_boot (d : Dev) (c : Nat) (x : Chain) : (d.setChain c x).boot = d.boot := rfl
@[simp] theorem Dev.setChain_att (d : Dev) (c : Nat) (x : Chain) : (d.setChain c x).att = d.att := rfl
@[simp] theorem Dev.setChain_sv (d : Dev) (c : Nat) (x : Chain) : (d.setChain c x).sv = d.sv := rfl
@[simp] theorem Dev.setChain_drain (d : Dev) (c : Nat) (x : Chain) : (d.setChain c x).drain = d.drain := rfl
@[simp] theorem Dev.setChain_fill (d : Dev) (c : Nat) (x : Chain) : (d.setChain c x).fill = d.fill := rfl
@[simp] theorem Dev.setChain_pdNow (d : Dev) (c : Nat) (x : Chain) : (d.setChain c x).pdNow = d.pdNow := rfl
@[simp] theorem Dev.setChain_scrub (d : Dev) (c : Nat) (x : Chain) : (d.setChain c x).scrub = d.scrub := rfl
@[simp] theorem Dev.setChain_survey (d : Dev) (c : Nat) (x : Chain) : (d.setChain c x).survey = d.survey := rfl
@[simp] theorem Dev.setChain_free (d : Dev) (c : Nat) (x : Chain) : (d.setChain c x).free = d.free := rfl
@[simp] theorem Dev.setChain_out (d : Dev) (c : Nat) (x : Chain) : (d.setChain c x).out = d.out := rfl

/-! ### setPword changes `pstore` alone -/

@[simp] theorem Dev.setPword_mer (d : Dev) (c w v : Nat) : (d.setPword c w v).mer = d.mer := rfl
@[simp] theorem Dev.setPword_mode (d : Dev) (c w v : Nat) : (d.setPword c w v).mode = d.mode := rfl
@[simp] theorem Dev.setPword_regs (d : Dev) (c w v : Nat) : (d.setPword c w v).regs = d.regs := rfl
@[simp] theorem Dev.setPword_shadow (d : Dev) (c w v : Nat) : (d.setPword c w v).shadow = d.shadow := rfl
@[simp] theorem Dev.setPword_mem (d : Dev) (c w v : Nat) : (d.setPword c w v).mem = d.mem := rfl
@[simp] theorem Dev.setPword_keys (d : Dev) (c w v : Nat) : (d.setPword c w v).keys = d.keys := rfl
@[simp] theorem Dev.setPword_uncorr (d : Dev) (c w v : Nat) : (d.setPword c w v).uncorr = d.uncorr := rfl
@[simp] theorem Dev.setPword_corr (d : Dev) (c w v : Nat) : (d.setPword c w v).corr = d.corr := rfl
@[simp] theorem Dev.setPword_cores (d : Dev) (c w v : Nat) : (d.setPword c w v).cores = d.cores := rfl
@[simp] theorem Dev.setPword_qFrame (d : Dev) (c w v : Nat) : (d.setPword c w v).qFrame = d.qFrame := rfl
@[simp] theorem Dev.setPword_db (d : Dev) (c w v : Nat) : (d.setPword c w v).db = d.db := rfl
@[simp] theorem Dev.setPword_outUnits (d : Dev) (c w v : Nat) : (d.setPword c w v).outUnits = d.outUnits := rfl
@[simp] theorem Dev.setPword_pci (d : Dev) (c w v : Nat) : (d.setPword c w v).pci = d.pci := rfl
@[simp] theorem Dev.setPword_items (d : Dev) (c w v : Nat) : (d.setPword c w v).items = d.items := rfl
@[simp] theorem Dev.setPword_nextItem (d : Dev) (c w v : Nat) : (d.setPword c w v).nextItem = d.nextItem := rfl
@[simp] theorem Dev.setPword_qSeq (d : Dev) (c w v : Nat) : (d.setPword c w v).qSeq = d.qSeq := rfl
@[simp] theorem Dev.setPword_qArr (d : Dev) (c w v : Nat) : (d.setPword c w v).qArr = d.qArr := rfl
@[simp] theorem Dev.setPword_qOpen (d : Dev) (c w v : Nat) : (d.setPword c w v).qOpen = d.qOpen := rfl
@[simp] theorem Dev.setPword_migr (d : Dev) (c w v : Nat) : (d.setPword c w v).migr = d.migr := rfl
@[simp] theorem Dev.setPword_qStrike (d : Dev) (c w v : Nat) : (d.setPword c w v).qStrike = d.qStrike := rfl
@[simp] theorem Dev.setPword_hist (d : Dev) (c w v : Nat) : (d.setPword c w v).hist = d.hist := rfl
@[simp] theorem Dev.setPword_hseq (d : Dev) (c w v : Nat) : (d.setPword c w v).hseq = d.hseq := rfl
@[simp] theorem Dev.setPword_warm (d : Dev) (c w v : Nat) : (d.setPword c w v).warm = d.warm := rfl
@[simp] theorem Dev.setPword_tripped (d : Dev) (c w v : Nat) : (d.setPword c w v).tripped = d.tripped := rfl
@[simp] theorem Dev.setPword_uTarget (d : Dev) (c w v : Nat) : (d.setPword c w v).uTarget = d.uTarget := rfl
@[simp] theorem Dev.setPword_hotSince (d : Dev) (c w v : Nat) : (d.setPword c w v).hotSince = d.hotSince := rfl
@[simp] theorem Dev.setPword_coolSince (d : Dev) (c w v : Nat) : (d.setPword c w v).coolSince = d.coolSince := rfl
@[simp] theorem Dev.setPword_rzUsed (d : Dev) (c w v : Nat) : (d.setPword c w v).rzUsed = d.rzUsed := rfl
@[simp] theorem Dev.setPword_egress (d : Dev) (c w v : Nat) : (d.setPword c w v).egress = d.egress := rfl
@[simp] theorem Dev.setPword_cairn (d : Dev) (c w v : Nat) : (d.setPword c w v).cairn = d.cairn := rfl
@[simp] theorem Dev.setPword_dma (d : Dev) (c w v : Nat) : (d.setPword c w v).dma = d.dma := rfl
@[simp] theorem Dev.setPword_uk (d : Dev) (c w v : Nat) : (d.setPword c w v).uk = d.uk := rfl
@[simp] theorem Dev.setPword_mbox (d : Dev) (c w v : Nat) : (d.setPword c w v).mbox = d.mbox := rfl
@[simp] theorem Dev.setPword_linkFails (d : Dev) (c w v : Nat) : (d.setPword c w v).linkFails = d.linkFails := rfl
@[simp] theorem Dev.setPword_linkHeld (d : Dev) (c w v : Nat) : (d.setPword c w v).linkHeld = d.linkHeld := rfl
@[simp] theorem Dev.setPword_ptp (d : Dev) (c w v : Nat) : (d.setPword c w v).ptp = d.ptp := rfl
@[simp] theorem Dev.setPword_swapDue (d : Dev) (c w v : Nat) : (d.setPword c w v).swapDue = d.swapDue := rfl
@[simp] theorem Dev.setPword_armDue (d : Dev) (c w v : Nat) : (d.setPword c w v).armDue = d.armDue := rfl
@[simp] theorem Dev.setPword_digestDue (d : Dev) (c w v : Nat) : (d.setPword c w v).digestDue = d.digestDue := rfl
@[simp] theorem Dev.setPword_patch (d : Dev) (c w v : Nat) : (d.setPword c w v).patch = d.patch := rfl
@[simp] theorem Dev.setPword_load (d : Dev) (c w v : Nat) : (d.setPword c w v).load = d.load := rfl
@[simp] theorem Dev.setPword_civFrac (d : Dev) (c w v : Nat) : (d.setPword c w v).civFrac = d.civFrac := rfl
@[simp] theorem Dev.setPword_board (d : Dev) (c w v : Nat) : (d.setPword c w v).board = d.board := rfl
@[simp] theorem Dev.setPword_boot (d : Dev) (c w v : Nat) : (d.setPword c w v).boot = d.boot := rfl
@[simp] theorem Dev.setPword_att (d : Dev) (c w v : Nat) : (d.setPword c w v).att = d.att := rfl
@[simp] theorem Dev.setPword_sv (d : Dev) (c w v : Nat) : (d.setPword c w v).sv = d.sv := rfl
@[simp] theorem Dev.setPword_drain (d : Dev) (c w v : Nat) : (d.setPword c w v).drain = d.drain := rfl
@[simp] theorem Dev.setPword_fill (d : Dev) (c w v : Nat) : (d.setPword c w v).fill = d.fill := rfl
@[simp] theorem Dev.setPword_pdNow (d : Dev) (c w v : Nat) : (d.setPword c w v).pdNow = d.pdNow := rfl
@[simp] theorem Dev.setPword_scrub (d : Dev) (c w v : Nat) : (d.setPword c w v).scrub = d.scrub := rfl
@[simp] theorem Dev.setPword_survey (d : Dev) (c w v : Nat) : (d.setPword c w v).survey = d.survey := rfl
@[simp] theorem Dev.setPword_free (d : Dev) (c w v : Nat) : (d.setPword c w v).free = d.free := rfl
@[simp] theorem Dev.setPword_out (d : Dev) (c w v : Nat) : (d.setPword c w v).out = d.out := rfl

/-! ### markKey changes `keys` alone -/

@[simp] theorem Dev.markKey_mer (d : Dev) (a : Nat) (acc : Acc) : (d.markKey a acc).mer = d.mer := rfl
@[simp] theorem Dev.markKey_mode (d : Dev) (a : Nat) (acc : Acc) : (d.markKey a acc).mode = d.mode := rfl
@[simp] theorem Dev.markKey_regs (d : Dev) (a : Nat) (acc : Acc) : (d.markKey a acc).regs = d.regs := rfl
@[simp] theorem Dev.markKey_shadow (d : Dev) (a : Nat) (acc : Acc) : (d.markKey a acc).shadow = d.shadow := rfl
@[simp] theorem Dev.markKey_mem (d : Dev) (a : Nat) (acc : Acc) : (d.markKey a acc).mem = d.mem := rfl
@[simp] theorem Dev.markKey_pstore (d : Dev) (a : Nat) (acc : Acc) : (d.markKey a acc).pstore = d.pstore := rfl
@[simp] theorem Dev.markKey_uncorr (d : Dev) (a : Nat) (acc : Acc) : (d.markKey a acc).uncorr = d.uncorr := rfl
@[simp] theorem Dev.markKey_corr (d : Dev) (a : Nat) (acc : Acc) : (d.markKey a acc).corr = d.corr := rfl
@[simp] theorem Dev.markKey_cores (d : Dev) (a : Nat) (acc : Acc) : (d.markKey a acc).cores = d.cores := rfl
@[simp] theorem Dev.markKey_qFrame (d : Dev) (a : Nat) (acc : Acc) : (d.markKey a acc).qFrame = d.qFrame := rfl
@[simp] theorem Dev.markKey_db (d : Dev) (a : Nat) (acc : Acc) : (d.markKey a acc).db = d.db := rfl
@[simp] theorem Dev.markKey_outUnits (d : Dev) (a : Nat) (acc : Acc) : (d.markKey a acc).outUnits = d.outUnits := rfl
@[simp] theorem Dev.markKey_pci (d : Dev) (a : Nat) (acc : Acc) : (d.markKey a acc).pci = d.pci := rfl
@[simp] theorem Dev.markKey_items (d : Dev) (a : Nat) (acc : Acc) : (d.markKey a acc).items = d.items := rfl
@[simp] theorem Dev.markKey_nextItem (d : Dev) (a : Nat) (acc : Acc) : (d.markKey a acc).nextItem = d.nextItem := rfl
@[simp] theorem Dev.markKey_qSeq (d : Dev) (a : Nat) (acc : Acc) : (d.markKey a acc).qSeq = d.qSeq := rfl
@[simp] theorem Dev.markKey_qArr (d : Dev) (a : Nat) (acc : Acc) : (d.markKey a acc).qArr = d.qArr := rfl
@[simp] theorem Dev.markKey_qOpen (d : Dev) (a : Nat) (acc : Acc) : (d.markKey a acc).qOpen = d.qOpen := rfl
@[simp] theorem Dev.markKey_migr (d : Dev) (a : Nat) (acc : Acc) : (d.markKey a acc).migr = d.migr := rfl
@[simp] theorem Dev.markKey_qStrike (d : Dev) (a : Nat) (acc : Acc) : (d.markKey a acc).qStrike = d.qStrike := rfl
@[simp] theorem Dev.markKey_hist (d : Dev) (a : Nat) (acc : Acc) : (d.markKey a acc).hist = d.hist := rfl
@[simp] theorem Dev.markKey_hseq (d : Dev) (a : Nat) (acc : Acc) : (d.markKey a acc).hseq = d.hseq := rfl
@[simp] theorem Dev.markKey_warm (d : Dev) (a : Nat) (acc : Acc) : (d.markKey a acc).warm = d.warm := rfl
@[simp] theorem Dev.markKey_tripped (d : Dev) (a : Nat) (acc : Acc) : (d.markKey a acc).tripped = d.tripped := rfl
@[simp] theorem Dev.markKey_uTarget (d : Dev) (a : Nat) (acc : Acc) : (d.markKey a acc).uTarget = d.uTarget := rfl
@[simp] theorem Dev.markKey_hotSince (d : Dev) (a : Nat) (acc : Acc) : (d.markKey a acc).hotSince = d.hotSince := rfl
@[simp] theorem Dev.markKey_coolSince (d : Dev) (a : Nat) (acc : Acc) : (d.markKey a acc).coolSince = d.coolSince := rfl
@[simp] theorem Dev.markKey_rzUsed (d : Dev) (a : Nat) (acc : Acc) : (d.markKey a acc).rzUsed = d.rzUsed := rfl
@[simp] theorem Dev.markKey_egress (d : Dev) (a : Nat) (acc : Acc) : (d.markKey a acc).egress = d.egress := rfl
@[simp] theorem Dev.markKey_cairn (d : Dev) (a : Nat) (acc : Acc) : (d.markKey a acc).cairn = d.cairn := rfl
@[simp] theorem Dev.markKey_dma (d : Dev) (a : Nat) (acc : Acc) : (d.markKey a acc).dma = d.dma := rfl
@[simp] theorem Dev.markKey_uk (d : Dev) (a : Nat) (acc : Acc) : (d.markKey a acc).uk = d.uk := rfl
@[simp] theorem Dev.markKey_mbox (d : Dev) (a : Nat) (acc : Acc) : (d.markKey a acc).mbox = d.mbox := rfl
@[simp] theorem Dev.markKey_linkFails (d : Dev) (a : Nat) (acc : Acc) : (d.markKey a acc).linkFails = d.linkFails := rfl
@[simp] theorem Dev.markKey_linkHeld (d : Dev) (a : Nat) (acc : Acc) : (d.markKey a acc).linkHeld = d.linkHeld := rfl
@[simp] theorem Dev.markKey_ptp (d : Dev) (a : Nat) (acc : Acc) : (d.markKey a acc).ptp = d.ptp := rfl
@[simp] theorem Dev.markKey_swapDue (d : Dev) (a : Nat) (acc : Acc) : (d.markKey a acc).swapDue = d.swapDue := rfl
@[simp] theorem Dev.markKey_armDue (d : Dev) (a : Nat) (acc : Acc) : (d.markKey a acc).armDue = d.armDue := rfl
@[simp] theorem Dev.markKey_digestDue (d : Dev) (a : Nat) (acc : Acc) : (d.markKey a acc).digestDue = d.digestDue := rfl
@[simp] theorem Dev.markKey_patch (d : Dev) (a : Nat) (acc : Acc) : (d.markKey a acc).patch = d.patch := rfl
@[simp] theorem Dev.markKey_load (d : Dev) (a : Nat) (acc : Acc) : (d.markKey a acc).load = d.load := rfl
@[simp] theorem Dev.markKey_civFrac (d : Dev) (a : Nat) (acc : Acc) : (d.markKey a acc).civFrac = d.civFrac := rfl
@[simp] theorem Dev.markKey_board (d : Dev) (a : Nat) (acc : Acc) : (d.markKey a acc).board = d.board := rfl
@[simp] theorem Dev.markKey_boot (d : Dev) (a : Nat) (acc : Acc) : (d.markKey a acc).boot = d.boot := rfl
@[simp] theorem Dev.markKey_att (d : Dev) (a : Nat) (acc : Acc) : (d.markKey a acc).att = d.att := rfl
@[simp] theorem Dev.markKey_sv (d : Dev) (a : Nat) (acc : Acc) : (d.markKey a acc).sv = d.sv := rfl
@[simp] theorem Dev.markKey_drain (d : Dev) (a : Nat) (acc : Acc) : (d.markKey a acc).drain = d.drain := rfl
@[simp] theorem Dev.markKey_fill (d : Dev) (a : Nat) (acc : Acc) : (d.markKey a acc).fill = d.fill := rfl
@[simp] theorem Dev.markKey_pdNow (d : Dev) (a : Nat) (acc : Acc) : (d.markKey a acc).pdNow = d.pdNow := rfl
@[simp] theorem Dev.markKey_scrub (d : Dev) (a : Nat) (acc : Acc) : (d.markKey a acc).scrub = d.scrub := rfl
@[simp] theorem Dev.markKey_survey (d : Dev) (a : Nat) (acc : Acc) : (d.markKey a acc).survey = d.survey := rfl
@[simp] theorem Dev.markKey_free (d : Dev) (a : Nat) (acc : Acc) : (d.markKey a acc).free = d.free := rfl
@[simp] theorem Dev.markKey_out (d : Dev) (a : Nat) (acc : Acc) : (d.markKey a acc).out = d.out := rfl

/-! ### setKey changes `keys` alone -/

@[simp] theorem Dev.setKey_mer (d : Dev) (fr : Nat) (v : Byte) : (d.setKey fr v).mer = d.mer := rfl
@[simp] theorem Dev.setKey_mode (d : Dev) (fr : Nat) (v : Byte) : (d.setKey fr v).mode = d.mode := rfl
@[simp] theorem Dev.setKey_regs (d : Dev) (fr : Nat) (v : Byte) : (d.setKey fr v).regs = d.regs := rfl
@[simp] theorem Dev.setKey_shadow (d : Dev) (fr : Nat) (v : Byte) : (d.setKey fr v).shadow = d.shadow := rfl
@[simp] theorem Dev.setKey_mem (d : Dev) (fr : Nat) (v : Byte) : (d.setKey fr v).mem = d.mem := rfl
@[simp] theorem Dev.setKey_pstore (d : Dev) (fr : Nat) (v : Byte) : (d.setKey fr v).pstore = d.pstore := rfl
@[simp] theorem Dev.setKey_uncorr (d : Dev) (fr : Nat) (v : Byte) : (d.setKey fr v).uncorr = d.uncorr := rfl
@[simp] theorem Dev.setKey_corr (d : Dev) (fr : Nat) (v : Byte) : (d.setKey fr v).corr = d.corr := rfl
@[simp] theorem Dev.setKey_cores (d : Dev) (fr : Nat) (v : Byte) : (d.setKey fr v).cores = d.cores := rfl
@[simp] theorem Dev.setKey_qFrame (d : Dev) (fr : Nat) (v : Byte) : (d.setKey fr v).qFrame = d.qFrame := rfl
@[simp] theorem Dev.setKey_db (d : Dev) (fr : Nat) (v : Byte) : (d.setKey fr v).db = d.db := rfl
@[simp] theorem Dev.setKey_outUnits (d : Dev) (fr : Nat) (v : Byte) : (d.setKey fr v).outUnits = d.outUnits := rfl
@[simp] theorem Dev.setKey_pci (d : Dev) (fr : Nat) (v : Byte) : (d.setKey fr v).pci = d.pci := rfl
@[simp] theorem Dev.setKey_items (d : Dev) (fr : Nat) (v : Byte) : (d.setKey fr v).items = d.items := rfl
@[simp] theorem Dev.setKey_nextItem (d : Dev) (fr : Nat) (v : Byte) : (d.setKey fr v).nextItem = d.nextItem := rfl
@[simp] theorem Dev.setKey_qSeq (d : Dev) (fr : Nat) (v : Byte) : (d.setKey fr v).qSeq = d.qSeq := rfl
@[simp] theorem Dev.setKey_qArr (d : Dev) (fr : Nat) (v : Byte) : (d.setKey fr v).qArr = d.qArr := rfl
@[simp] theorem Dev.setKey_qOpen (d : Dev) (fr : Nat) (v : Byte) : (d.setKey fr v).qOpen = d.qOpen := rfl
@[simp] theorem Dev.setKey_migr (d : Dev) (fr : Nat) (v : Byte) : (d.setKey fr v).migr = d.migr := rfl
@[simp] theorem Dev.setKey_qStrike (d : Dev) (fr : Nat) (v : Byte) : (d.setKey fr v).qStrike = d.qStrike := rfl
@[simp] theorem Dev.setKey_hist (d : Dev) (fr : Nat) (v : Byte) : (d.setKey fr v).hist = d.hist := rfl
@[simp] theorem Dev.setKey_hseq (d : Dev) (fr : Nat) (v : Byte) : (d.setKey fr v).hseq = d.hseq := rfl
@[simp] theorem Dev.setKey_warm (d : Dev) (fr : Nat) (v : Byte) : (d.setKey fr v).warm = d.warm := rfl
@[simp] theorem Dev.setKey_tripped (d : Dev) (fr : Nat) (v : Byte) : (d.setKey fr v).tripped = d.tripped := rfl
@[simp] theorem Dev.setKey_uTarget (d : Dev) (fr : Nat) (v : Byte) : (d.setKey fr v).uTarget = d.uTarget := rfl
@[simp] theorem Dev.setKey_hotSince (d : Dev) (fr : Nat) (v : Byte) : (d.setKey fr v).hotSince = d.hotSince := rfl
@[simp] theorem Dev.setKey_coolSince (d : Dev) (fr : Nat) (v : Byte) : (d.setKey fr v).coolSince = d.coolSince := rfl
@[simp] theorem Dev.setKey_rzUsed (d : Dev) (fr : Nat) (v : Byte) : (d.setKey fr v).rzUsed = d.rzUsed := rfl
@[simp] theorem Dev.setKey_egress (d : Dev) (fr : Nat) (v : Byte) : (d.setKey fr v).egress = d.egress := rfl
@[simp] theorem Dev.setKey_cairn (d : Dev) (fr : Nat) (v : Byte) : (d.setKey fr v).cairn = d.cairn := rfl
@[simp] theorem Dev.setKey_dma (d : Dev) (fr : Nat) (v : Byte) : (d.setKey fr v).dma = d.dma := rfl
@[simp] theorem Dev.setKey_uk (d : Dev) (fr : Nat) (v : Byte) : (d.setKey fr v).uk = d.uk := rfl
@[simp] theorem Dev.setKey_mbox (d : Dev) (fr : Nat) (v : Byte) : (d.setKey fr v).mbox = d.mbox := rfl
@[simp] theorem Dev.setKey_linkFails (d : Dev) (fr : Nat) (v : Byte) : (d.setKey fr v).linkFails = d.linkFails := rfl
@[simp] theorem Dev.setKey_linkHeld (d : Dev) (fr : Nat) (v : Byte) : (d.setKey fr v).linkHeld = d.linkHeld := rfl
@[simp] theorem Dev.setKey_ptp (d : Dev) (fr : Nat) (v : Byte) : (d.setKey fr v).ptp = d.ptp := rfl
@[simp] theorem Dev.setKey_swapDue (d : Dev) (fr : Nat) (v : Byte) : (d.setKey fr v).swapDue = d.swapDue := rfl
@[simp] theorem Dev.setKey_armDue (d : Dev) (fr : Nat) (v : Byte) : (d.setKey fr v).armDue = d.armDue := rfl
@[simp] theorem Dev.setKey_digestDue (d : Dev) (fr : Nat) (v : Byte) : (d.setKey fr v).digestDue = d.digestDue := rfl
@[simp] theorem Dev.setKey_patch (d : Dev) (fr : Nat) (v : Byte) : (d.setKey fr v).patch = d.patch := rfl
@[simp] theorem Dev.setKey_load (d : Dev) (fr : Nat) (v : Byte) : (d.setKey fr v).load = d.load := rfl
@[simp] theorem Dev.setKey_civFrac (d : Dev) (fr : Nat) (v : Byte) : (d.setKey fr v).civFrac = d.civFrac := rfl
@[simp] theorem Dev.setKey_board (d : Dev) (fr : Nat) (v : Byte) : (d.setKey fr v).board = d.board := rfl
@[simp] theorem Dev.setKey_boot (d : Dev) (fr : Nat) (v : Byte) : (d.setKey fr v).boot = d.boot := rfl
@[simp] theorem Dev.setKey_att (d : Dev) (fr : Nat) (v : Byte) : (d.setKey fr v).att = d.att := rfl
@[simp] theorem Dev.setKey_sv (d : Dev) (fr : Nat) (v : Byte) : (d.setKey fr v).sv = d.sv := rfl
@[simp] theorem Dev.setKey_drain (d : Dev) (fr : Nat) (v : Byte) : (d.setKey fr v).drain = d.drain := rfl
@[simp] theorem Dev.setKey_fill (d : Dev) (fr : Nat) (v : Byte) : (d.setKey fr v).fill = d.fill := rfl
@[simp] theorem Dev.setKey_pdNow (d : Dev) (fr : Nat) (v : Byte) : (d.setKey fr v).pdNow = d.pdNow := rfl
@[simp] theorem Dev.setKey_scrub (d : Dev) (fr : Nat) (v : Byte) : (d.setKey fr v).scrub = d.scrub := rfl
@[simp] theorem Dev.setKey_survey (d : Dev) (fr : Nat) (v : Byte) : (d.setKey fr v).survey = d.survey := rfl
@[simp] theorem Dev.setKey_free (d : Dev) (fr : Nat) (v : Byte) : (d.setKey fr v).free = d.free := rfl
@[simp] theorem Dev.setKey_out (d : Dev) (fr : Nat) (v : Byte) : (d.setKey fr v).out = d.out := rfl

/-! ### Registers -/

/-- A register reads as it was last written; every other reads as before. -/
@[simp] theorem Dev.reg_setReg (d : Dev) (k j : Nat) (v : W32) : (d.setReg k v).reg j = if j = k then v else d.reg j := by
  unfold Dev.reg Dev.setReg
  rw [SMap.find?_put]
  split <;> rfl

theorem Dev.reg_setRf (d : Dev) (k lo w v j : Nat) :
    (d.setRf k lo w v).reg j = if j = k then setFld (d.reg k) lo w v else d.reg j := Dev.reg_setReg ..

/-- A write of a core changes no register. -/
@[simp] theorem Dev.reg_setCore (d : Dev) (c k : Nat) (x : Core) : (d.setCore c x).reg k = d.reg k := rfl
@[simp] theorem Dev.reg_modCore (d : Dev) (c k : Nat) (f : Core → Core) : (d.modCore c f).reg k = d.reg k := rfl
@[simp] theorem Dev.reg_emit (d : Dev) (o : Out) (k : Nat) : (d.emit o).reg k = d.reg k := rfl
@[simp] theorem Dev.reg_setItem (d : Dev) (n k : Nat) (x : Item) : (d.setItem n x).reg k = d.reg k := rfl

/-! ### Cores and banks -/

@[simp] theorem Dev.core_setCore (d : Dev) (c e : Nat) (x : Core) : (d.setCore c x).core e = if e = c then x else d.core e := by
  unfold Dev.core Dev.setCore
  exact SMap.get_put ..

@[simp] theorem Dev.setCore_setCore (d : Dev) (c : Nat) (x y : Core) : (d.setCore c x).setCore c y = d.setCore c y := by
  unfold Dev.setCore
  simp

@[simp] theorem Dev.core_modCore (d : Dev) (c e : Nat) (f : Core → Core) :
    (d.modCore c f).core e = if e = c then f (d.core c) else d.core e := Dev.core_setCore ..

@[simp] theorem Dev.modCore_modCore (d : Dev) (c : Nat) (f g : Core → Core) :
    (d.modCore c f).modCore c g = d.modCore c (fun x => g (f x)) := by
  unfold Dev.modCore
  simp

@[simp] theorem Dev.core_setReg (d : Dev) (k c : Nat) (v : W32) : (d.setReg k v).core c = d.core c := rfl
@[simp] theorem Dev.core_setRf (d : Dev) (k lo w v c : Nat) : (d.setRf k lo w v).core c = d.core c := rfl
@[simp] theorem Dev.core_emit (d : Dev) (o : Out) (c : Nat) : (d.emit o).core c = d.core c := rfl

@[simp] theorem Core.bank_setBank (x : Core) (b e : Nat) (y : Bank) : (x.setBank b y).bank e = if e = b then y else x.bank e := by
  unfold Core.bank Core.setBank
  exact SMap.get_put ..

@[simp] theorem Core.setBank_setBank (x : Core) (b : Nat) (y z : Bank) : (x.setBank b y).setBank b z = x.setBank b z := by
  unfold Core.setBank
  simp

@[simp] theorem Core.setBank_cur (x : Core) (b : Nat) (y : Bank) : (x.setBank b y).cur = x.cur := rfl
@[simp] theorem Core.modCb_cur (x : Core) (f : Bank → Bank) : (x.modCb f).cur = x.cur := rfl

@[simp] theorem Core.cb_modCb (x : Core) (f : Bank → Bank) : (x.modCb f).cb = f x.cb := by
  unfold Core.modCb Core.cb
  simp

@[simp] theorem Core.modCb_modCb (x : Core) (f g : Bank → Bank) : (x.modCb f).modCb g = x.modCb (fun b => g (f b)) := by
  simp [Core.modCb, Core.cb, Core.setBank, Core.bank]

/-- A register of a bank after one is written. -/
@[simp] theorem Bank.rd_wr (b : Bank) (n m : Nat) (v : W64) : (b.wr n v).rd m = if m = n then v else b.rd m := by
  unfold Bank.rd Bank.wr
  exact SMap.get_put ..

@[simp] theorem Bank.rd_ctlDirty (b : Bank) (n : Nat) : b.ctlDirty.rd n = b.rd n := rfl

@[simp] theorem Core.g_setG (x : Core) (n m : Nat) (v : W64) : (x.setG n v).g m = if m = n then v else x.g m := by
  simp [Core.g, Core.setG]

/-! ### The program store -/

@[simp] theorem Dev.pword_setPword (d : Dev) (c w v w' : Nat) :
    (d.setPword c w v).pword c w' = if w' % 65536 = w % 65536 then withCheck v else d.pword c w' := by
  unfold Dev.pword Dev.setPword
  rw [SMap.get_put]
  by_cases e : w' % 65536 = w % 65536
  · simp [e]
  · rw [if_neg e, if_neg (by omega)]

/-! ### Links and the host's function -/

@[simp] theorem Dev.setLink_link (d : Dev) (w : Bool) (l : Link) : (d.setLink w l).link w = l := by
  cases w <;> rfl

@[simp] theorem Dev.setLink_other (d : Dev) (w : Bool) (l : Link) : (d.setLink w l).link (!w) = d.link (!w) := by
  cases w <;> rfl

/-- A direction that is cut stands as a link that is down, and the other as it stood. -/
theorem Dev.cutDir_link (d : Dev) (w : Bool) (g : Option Nat) :
    (d.cutDir w g).link w = Link.down ∧ (d.cutDir w g).link (!w) = d.link (!w) := by
  unfold Dev.cutDir
  cases g <;> cases w <;> dsimp only <;> split <;> exact ⟨rfl, rfl⟩

/-- What a write of the configuration space leaves alone: the link, the power state, and the MSI-X table with its masks and pending bits. -/
theorem Pci.configWrite_keeps (p : Pci) (o : Nat) (m v : W32) :
    let q := p.configWrite o m v
    q.up = p.up ∧ q.d3 = p.d3 ∧ q.speed = p.speed ∧ q.width = p.width ∧ q.table = p.table ∧ q.unmasked = p.unmasked ∧ q.pend = p.pend := by
  unfold Pci.configWrite
  dsimp only
  repeat' split
  all_goals exact ⟨rfl, rfl, rfl, rfl, rfl, rfl, rfl⟩

end Sys2Proof.Machine
end

