-- ==== Sys2Proof/Laws/Core.lean ====
section
/-!
SUPPORT. What the shared operations of a core do: the boundary before an instruction, its retirement, a trap entry, the register bus.
-/
namespace Sys2Proof.Machine

/-! ### The boundary -/

/-- At an instruction that a core stands at, what `beginInstr` runs. -/
theorem beginInstr_at {d : Dev} {c : Nat} {i : Dec} (h : d.standsAt c i) (points : Nat) (go : Dec → Dev → Dev) :
    beginInstr c i.op points go d =
      settleWatch c (d.core c) (settleGrace c (go i (d.modCore c (fun x => { x with stored := false, spent := 0, unbilled := 0, paid := false })))) := by
  obtain ⟨h1, h2, h3, h4⟩ := h
  simp [beginInstr, h1, h2, h3, h4]

/-- An instruction that completes retires. -/
theorem runInstr_ok {d z : Dev} {c : Nat} {i : Dec} {sem : Nat → Dec → X Ret} {r : Ret} (h : d.standsAt c i)
    (hs : (sem c i).run (d.begun c) = .ok r z) : runInstr c i.op sem d = settleWatch c (d.core c) (settleGrace c (retire c i.n r z)) := by
  unfold runInstr
  rw [beginInstr_at h]
  simp only [Dev.begun] at hs
  rw [hs]

/-- An instruction that stops ends as its stop says. -/
theorem runInstr_error {d z : Dev} {c : Nat} {i : Dec} {sem : Nat → Dec → X Ret} {e : Stop} (h : d.standsAt c i)
    (hs : (sem c i).run (d.begun c) = .error e z) : runInstr c i.op sem d = settleWatch c (d.core c) (settleGrace c (endStop c z e)) := by
  unfold runInstr
  rw [beginInstr_at h]
  simp only [Dev.begun] at hs
  rw [hs]

/-- A core that does not run carries out nothing. -/
theorem beginInstr_idle {d : Dev} {c : Nat} {o : Op} {points : Nat} {go : Dec → Dev → Dev} (h : d.executes c = false) :
    beginInstr c o points go d = d := by
  simp [beginInstr, h]

/-! ### Retirement (07 R167, 05 R139) -/

@[simp] theorem Core.ctl_cur (x : Core) (f : Bank → Bank) : (x.ctl f).cur = x.cur := rfl
@[simp] theorem Core.cb_ctl (x : Core) (f : Bank → Bank) : (x.ctl f).cb = (f x.cb).ctlDirty := by simp [Core.ctl]
@[simp] theorem Core.setG_cur (x : Core) (n : Nat) (v : W64) : (x.setG n v).cur = x.cur := rfl
@[simp] theorem Core.cb_setG (x : Core) (n : Nat) (v : W64) : (x.setG n v).cb = x.cb.wr n v := by simp [Core.setG]

theorem Core.bank_ctl (x : Core) (f : Bank → Bank) (b : Nat) (h : b ≠ x.cur) : (x.ctl f).bank b = x.bank b := by
  simp [Core.ctl, Core.modCb, h]

theorem Core.bank_setG (x : Core) (n b : Nat) (v : W64) (h : b ≠ x.cur) : (x.setG n v).bank b = x.bank b := by
  simp [Core.setG, Core.modCb, h]

/-- What retirement does to the core, before its cycles are counted: the pending load, the PC, the new load under way. -/
def retireCore (x : Core) (n : Nat) (r : Ret) (ws : List PWord) : Core :=
  let y := x.makeLoad.microIdle.ctl (fun b => { b with pc := BitVec.ofNat 16 (r.pc.getD (b.pc.toNat + n)) })
  { y with ldPend := r.ld, flight := none, latch := some ws }

/-- Retirement of an instruction that stores no program word is a change of its core alone. -/
theorem retire_eq (c n : Nat) (r : Ret) (d : Dev) (h : r.pword = none) :
    ∃ ws, retire c n r d = d.modCore c (fun x => (retireCore x n r ws).account) := by
  let d1 := d.modCore c (fun x =>
    let y := x.makeLoad.microIdle.ctl (fun b => { b with pc := BitVec.ofNat 16 (r.pc.getD (b.pc.toNat + n)) })
    { y with ldPend := r.ld, flight := none })
  refine ⟨storeWords d1 c (d1.core c).cb.pc.toNat, ?_⟩
  have e : retire c n r d = (d1.modCore c (fun x => { x with latch := some (storeWords d1 c x.cb.pc.toNat) })).modCore c Core.account := by
    simp only [retire, h]; rfl
  rw [e]
  have e1 : d1.modCore c (fun x => { x with latch := some (storeWords d1 c x.cb.pc.toNat) }) =
      d1.modCore c (fun x => { x with latch := some (storeWords d1 c (d1.core c).cb.pc.toNat) }) := rfl
  rw [e1, Dev.modCore_modCore, Dev.modCore_modCore]
  rfl

theorem Core.account_cb (x : Core) : x.account.cb = x.cb := rfl
theorem Core.account_cur (x : Core) : x.account.cur = x.cur := rfl
theorem Core.account_bank (x : Core) (b : Nat) : x.account.bank b = x.bank b := rfl
theorem Core.account_ldPend (x : Core) : x.account.ldPend = x.ldPend := rfl
theorem Core.account_others (x : Core) : x.account.others = x.others := rfl

theorem Core.makeLoad_cur (x : Core) : x.makeLoad.cur = x.cur := by unfold Core.makeLoad; split <;> rfl
theorem Core.makeLoad_pc (x : Core) : x.makeLoad.cb.pc = x.cb.pc := by
  unfold Core.makeLoad; split
  · rfl
  · show (Core.setG x _ _).cb.pc = _; simp [Bank.wr]

theorem Core.makeLoad_cbOthers (x : Core) : x.makeLoad.cb.others = x.cb.others := by
  unfold Core.makeLoad; split
  · rfl
  · show (Core.setG x _ _).cb.others = _; simp [Bank.wr, Bank.others]

theorem Core.makeLoad_g (x : Core) (n : Nat) : x.makeLoad.g n = pick n x.ldPend (x.g n) := by
  unfold Core.makeLoad pick; split
  · rename_i h; simp [h]
  · rename_i h; rw [h]; exact Core.g_setG ..

theorem Core.makeLoad_bank (x : Core) (b : Nat) (h : b ≠ x.cur) : x.makeLoad.bank b = x.bank b := by
  unfold Core.makeLoad; split
  · rfl
  · exact Core.bank_setG _ _ _ _ h

theorem Core.makeLoad_others (x : Core) : x.makeLoad.others = x.others := by unfold Core.makeLoad; split <;> rfl

/-- Retirement, in the words of `Retired`. -/
theorem retire_retired (c n : Nat) (r : Ret) (d : Dev) (h : r.pword = none) :
    Retired c d (retire c n r d) (fun m => pick m (d.core c).ldPend ((d.core c).g m))
      (BitVec.ofNat 16 (r.pc.getD ((d.core c).cb.pc.toNat + n))) r.ld (d.core c).cb := by
  obtain ⟨ws, e⟩ := retire_eq c n r d h
  rw [e]
  have hc : (d.modCore c (fun x => (retireCore x n r ws).account)).core c = (retireCore (d.core c) n r ws).account := by simp
  have hb : (retireCore (d.core c) n r ws).cb =
      Bank.ctlDirty { (d.core c).makeLoad.cb with pc := BitVec.ofNat 16 (r.pc.getD ((d.core c).makeLoad.cb.pc.toNat + n)) } :=
    Core.cb_ctl (d.core c).makeLoad.microIdle (fun b => { b with pc := BitVec.ofNat 16 (r.pc.getD (b.pc.toNat + n)) })
  constructor
  · rw [hc]; rfl
  · intro m
    rw [hc]
    show (retireCore (d.core c) n r ws).cb.rd m = _
    rw [hb]
    exact Core.makeLoad_g ..
  · rw [hc, Core.account_cb, hb, Core.makeLoad_pc]; rfl
  · rw [hc]; rfl
  · rw [hc, Core.account_cb, hb]; exact Core.makeLoad_cbOthers ..
  · rw [hc]; exact Core.makeLoad_cur ..
  · intro b hne
    rw [hc, Core.account_bank]
    have e1 : (retireCore (d.core c) n r ws).bank b = (d.core c).makeLoad.bank b :=
      Core.bank_ctl (d.core c).makeLoad.microIdle (fun b => { b with pc := BitVec.ofNat 16 (r.pc.getD (b.pc.toNat + n)) }) b
        (by rw [show (d.core c).makeLoad.microIdle.cur = (d.core c).makeLoad.cur from rfl, Core.makeLoad_cur]; exact hne)
    rw [e1]; exact Core.makeLoad_bank _ _ hne
  · rw [hc]; exact Core.makeLoad_others ..

theorem Retired.rebase {c : Nat} {d z w : Dev} {regs : Nat → W64} {pc : BitVec 16} {ld : Option (Nat × W64)} {b : Bank}
    (h : Retired c z w regs pc ld b) (hz : z = d.setCore c (z.core c)) (h1 : (z.core c).cur = (d.core c).cur)
    (h2 : ∀ k, k ≠ (d.core c).cur → (z.core c).bank k = (d.core c).bank k) (h3 : (z.core c).others = (d.core c).others) :
    Retired c d w regs pc ld b where
  dev := by rw [h.dev, hz]; simp
  regs := h.regs
  pc := h.pc
  ld := h.ld
  bank := h.bank
  cur := h.cur.trans h1
  banks k hk := (h.banks k (h1 ▸ hk)).trans (h2 k hk)
  core := h.core.trans h3

/-- The cycles of a run that no microwords have paid for. -/
theorem Core.cycles_unpaid {x : Core} (h : x.paid = false) : x.cycles = x.spent := by simp [Core.cycles, h]

/-- What microwords have paid for takes no cycle. -/
theorem Core.cycles_paid {x : Core} (h : x.paid = true) : x.cycles = 0 := by simp [Core.cycles, h]

/-- A core whose work microwords have not paid for is left alone. -/
theorem Core.unpaid_self {x : Core} (h : x.paid = false) : x.unpaid = x := by simp [Core.unpaid, h]

@[simp] theorem Core.unpaid_paid (x : Core) : x.unpaid.paid = false := by
  unfold Core.unpaid
  cases h : x.paid <;> simp [h]

/-- The cycles of a run are counted at its retirement. -/
theorem retire_cc (c n : Nat) (r : Ret) (d : Dev) (h : r.pword = none) :
    ((retire c n r d).core c).cc = (d.core c).cc + (d.core c).cycles := by
  obtain ⟨ws, e⟩ := retire_eq c n r d h
  rw [e]; simp only [Dev.core_modCore, if_true]
  show (retireCore (d.core c) n r ws).cc + (retireCore (d.core c) n r ws).cycles = _
  unfold Core.cycles retireCore Core.makeLoad Core.microIdle Core.ctl Core.setG Core.modCb Core.setBank
  dsimp only
  cases (d.core c).ldPend <;> rfl

theorem Dev.begun_eq (d : Dev) (c : Nat) : d.begun c = d.modCore c (fun x => { x with stored := false, spent := 1, unbilled := 0, paid := false }) := by
  simp [Dev.begun, decodeCycle]

theorem nextPc_eq (x : Core) (i : Dec) : BitVec.ofNat 16 (x.cb.pc.toNat + i.n) = nextPc x i := by
  unfold nextPc; apply BitVec.eq_of_toNat_eq; simp

/-- The command of an instruction whose meaning completes. -/
theorem onDev_runInstr (s : State) {c : CoreId} {i : Dec} {o : Op} {sem : Nat → Dec → X Ret} {r : Ret} {z : Dev}
    (h : s.dev.standsAt c i) (ho : i.op = o) (hs : (sem c i).run (s.dev.begun c) = .ok r z) :
    onDev (runInstr c.val o sem) s = ranTo s c (retire c i.n r z) := by
  subst ho
  unfold onDev ranTo
  rw [runInstr_ok h hs]

/-- A change of a core that leaves alone all but general registers and what `Core.others` leaves out. -/
structure Calm (f : Core → Core) : Prop where
  cur : ∀ x, (f x).cur = x.cur
  bank : ∀ x b, b ≠ x.cur → (f x).bank b = x.bank b
  cb : ∀ x, (f x).cb.others = x.cb.others
  pc : ∀ x, (f x).cb.pc = x.cb.pc
  others : ∀ x, (f x).others = x.others
  ldPend : ∀ x, (f x).ldPend = x.ldPend

theorem Calm.id : Calm (fun x => x) := ⟨fun _ => rfl, fun _ _ _ => rfl, fun _ => rfl, fun _ => rfl, fun _ => rfl, fun _ => rfl⟩

theorem Calm.comp {f g : Core → Core} (hf : Calm f) (hg : Calm g) : Calm (fun x => g (f x)) where
  cur x := (hg.cur _).trans (hf.cur _)
  bank x b h := (hg.bank _ _ (by rw [hf.cur]; exact h)).trans (hf.bank _ _ h)
  cb x := (hg.cb _).trans (hf.cb _)
  pc x := (hg.pc _).trans (hf.pc _)
  others x := (hg.others _).trans (hf.others _)
  ldPend x := (hg.ldPend _).trans (hf.ldPend _)

theorem Calm.setG (n : Nat) (v : W64) : Calm (fun x => x.setG n v) where
  cur _ := rfl
  bank _ _ h := Core.bank_setG _ _ _ _ h
  cb x := by rw [Core.cb_setG]; rfl
  pc x := by rw [Core.cb_setG]; rfl
  others _ := rfl
  ldPend _ := rfl

theorem Calm.tick (n : Nat) : Calm (fun x => { x with spent := x.spent + n }) :=
  ⟨fun _ => rfl, fun _ _ _ => rfl, fun _ => rfl, fun _ => rfl, fun _ => rfl, fun _ => rfl⟩

theorem Calm.begin : Calm (fun x => { x with stored := false, spent := 1, unbilled := 0, paid := false }) :=
  ⟨fun _ => rfl, fun _ _ _ => rfl, fun _ => rfl, fun _ => rfl, fun _ => rfl, fun _ => rfl⟩

theorem Core.applyStep_some (x : Core) (n : Nat) (v : W64) :
    ∃ p, x.applyStep (some (n, v)) = { x.setG n v with prefetch := p } := by
  unfold Core.applyStep
  dsimp only
  split
  · exact ⟨_, rfl⟩
  · exact ⟨(x.setG n v).prefetch, rfl⟩

theorem Calm.applyStep (st : Option (Nat × W64)) : Calm (fun x => x.applyStep st) := by
  cases st with
  | none => exact Calm.id
  | some e =>
    obtain ⟨n, v⟩ := e
    have h := Calm.setG n v
    constructor <;> intro x <;> (obtain ⟨p, e⟩ := Core.applyStep_some x n v)
    · rw [e]; rfl
    · intro b hb; rw [e]; exact h.bank x b hb
    · rw [e]; exact h.cb x
    · rw [e]; exact h.pc x
    · rw [e]; rfl
    · rw [e]; rfl

theorem Core.applyStep_g (x : Core) (st : Option (Nat × W64)) (n : Nat) : (x.applyStep st).g n = pick n st (x.g n) := by
  cases st with
  | none => rfl
  | some e =>
    obtain ⟨m, v⟩ := e
    obtain ⟨p, e⟩ := Core.applyStep_some x m v
    rw [e]
    exact Core.g_setG ..

/-- Retirement after a calm change of the core. -/
theorem retire_calm {f : Core → Core} (hf : Calm f) (c n : Nat) (r : Ret) (z : Dev) (h : r.pword = none) :
    Retired c z (retire c n r (z.modCore c f)) (fun m => pick m (z.core c).ldPend ((f (z.core c)).g m))
      (BitVec.ofNat 16 (r.pc.getD ((z.core c).cb.pc.toNat + n))) r.ld (z.core c).cb := by
  have R := retire_retired c n r (z.modCore c f) h
  have hc : (z.modCore c f).core c = f (z.core c) := by simp
  rw [hc] at R
  have R' := Retired.rebase (d := z) R (by simp [Dev.modCore]) (by rw [hc]; exact hf.cur _) (by rw [hc]; exact hf.bank _) (by rw [hc]; exact hf.others _)
  refine ⟨R'.dev, ?_, ?_, R'.ld, R'.bank.trans (hf.cb _), R'.cur, R'.banks, R'.core⟩
  · intro m; rw [R'.regs, hf.ldPend]
  · rw [R'.pc, hf.pc]

/-- The same, told from the device before a calm change made first. -/
theorem Retired.calm {f : Core → Core} (hf : Calm f) {c : Nat} {d w : Dev} {regs : Nat → W64} {pc : BitVec 16} {ld : Option (Nat × W64)}
    {b : Bank} (h : Retired c (d.modCore c f) w regs pc ld b) : Retired c d w regs pc ld b :=
  h.rebase (by simp [Dev.modCore]) (by simp [hf.cur]) (by intro k hk; simp [hf.bank _ _ hk]) (by simp [hf.others])

/-! ### The sequencer's data and the continuation -/

@[simp] theorem Core.landDue_cb (x : Core) (n : Nat) : (x.landDue n).cb = x.cb := rfl
@[simp] theorem Core.landDue_spent (x : Core) (n : Nat) : (x.landDue n).spent = x.spent := rfl
@[simp] theorem Core.microCycle_cb (x : Core) : x.microCycle.cb = x.cb := rfl
@[simp] theorem Core.microCycle_spent (x : Core) : x.microCycle.spent = x.spent + 1 := rfl

/-- A RESUME that a decimal fault finds set is cleared with CONT[0], and one that is 0 leaves both (03 R90). -/
theorem Core.endResume_resume (x : Core) : x.endResume.csw.resume = false ∧ (x.csw.resume = false → x.endResume = x) := by
  unfold Core.endResume
  cases h : x.csw.resume
  · exact ⟨h, fun _ => rfl⟩
  · refine ⟨?_, nofun⟩
    simp [Core.clearResume, Core.ctl, Core.csw, Bank.ctlDirty]

end Sys2Proof.Machine
end

