-- ==== Sys2Proof/Laws/Micro.lean ====
section
/-!
SUPPORT. Laws of the match-register images (07 R172): parity stands in bits 1:0, and making it changes nothing above.
-/
namespace Sys2Proof.Machine

/-- What bits 1:0 of an image hold does not matter above them. -/
theorem setFld_high (m : W32) (v i : Nat) (h : 2 ≤ i) : (setFld m 0 2 v).getLsbD i = m.getLsbD i := by
  by_cases hi : i < 32
  · have z : ∀ k < 4, ∀ j < 32, 2 ≤ j → (BitVec.ofNat 32 k).getLsbD j = false := by decide
    simp only [setFld, BitVec.getLsbD_or, BitVec.getLsbD_and, BitVec.getLsbD_not, hi, decide_true, Bool.true_and, Nat.pow_zero, Nat.mul_one]
    rw [z _ (by decide) i hi h, z _ (by omega) i hi h]
    simp
  · rw [BitVec.getLsbD_of_ge _ _ (by omega), BitVec.getLsbD_of_ge _ _ (by omega)]

/-- What an image keeps above its parity. -/
theorem matchImage_fld (m : W32) (lo w : Nat) (h : 2 ≤ lo) : fld (matchImage m) lo w = fld m lo w := by
  have hk : (matchImage m).toNat / 2 ^ lo = m.toNat / 2 ^ lo := by
    refine Nat.eq_of_testBit_eq fun j => ?_
    simp only [Nat.testBit_div_two_pow, BitVec.testBit_toNat]
    exact setFld_high m _ _ (by omega)
  rw [fld, hk, fld]

/-- Images that agree above bits 1:0 and take the same parity are one. -/
theorem setFld_same (a b : W32) (v : Nat) (h : ∀ i, 2 ≤ i → a.getLsbD i = b.getLsbD i) : setFld a 0 2 v = setFld b 0 2 v := by
  simp only [setFld]
  congr 1
  apply BitVec.eq_of_getLsbD_eq
  intro i hi
  by_cases h2 : 2 ≤ i
  · simp [h i h2]
  · have : i = 0 ∨ i = 1 := by omega
    rcases this with rfl | rfl <;> simp

/-- A match-register image made has its parity. -/
theorem matchRight_image (m : W32) : matchRight (matchImage m) = true := by
  have k := setFld_same (matchImage m) m 0 (fun i h => setFld_high m _ i h)
  have e : matchImage (matchImage m) = matchImage m := by
    rw [matchImage, k]
    exact setFld_same _ _ _ (fun i h => setFld_high m _ i h)
  simp [matchRight, e]

end Sys2Proof.Machine
end

