-- ==== Sys2Proof/Laws/Reads.lean ====
section
/-!
SUPPORT. What a core's operand reads leave alone: `Reads` for translation, checks and loads.
-/
namespace Sys2Proof.Machine

/-! ### The monad -/

theorem X.bind_ok {α β : Type} {m : X α} {f : α → X β} {d z : Dev} {b : β} (h : (m >>= f).run d = .ok b z) :
    ∃ a y, m.run d = .ok a y ∧ (f a).run y = .ok b z := by
  simp only [EStateM.run, bind, EStateM.bind] at h ⊢
  split at h
  · rename_i a y e; exact ⟨a, y, e, h⟩
  · cases h

theorem X.bind_run {α β : Type} {m : X α} {f : α → X β} {d y : Dev} {a : α} (h : m.run d = .ok a y) :
    (m >>= f).run d = (f a).run y := by
  simp only [EStateM.run, bind, EStateM.bind] at h ⊢
  rw [h]

theorem X.pure_run {α : Type} (a : α) (d : Dev) : (pure a : X α).run d = .ok a d := rfl
theorem X.core_run (c : Nat) (d : Dev) : (core c).run d = .ok (d.core c) d := rfl
theorem X.onCore_run (c : Nat) (f : Core → Core) (d : Dev) : (onCore c f).run d = .ok () (d.modCore c f) := rfl
theorem X.tick_run (c n : Nat) (d : Dev) : (tick c n).run d = .ok () (d.ticked c n) := rfl
theorem X.modify_run (f : Dev → Dev) (d : Dev) : (modify f : X Unit).run d = .ok () (f d) := rfl

/-! ### Reads -/

theorem Reads.refl (c : Nat) (d : Dev) : Reads c d d := ⟨rfl, rfl, fun _ _ => rfl, fun _ _ => rfl, fun _ => .inl rfl⟩

theorem Reads.trans {c : Nat} {d y z : Dev} (h : Reads c d y) (g : Reads c y z) : Reads c d z where
  dev := by rw [g.dev, h.dev]
  core := by rw [g.core, h.core]
  cores e he := (g.cores e he).trans (h.cores e he)
  regs k hk := (g.regs k hk).trans (h.regs k hk)
  bytes a := by
    rcases h.bytes a with e | ⟨m, e⟩ <;> rcases g.bytes a with e' | ⟨m', e'⟩
    · exact .inl (e'.trans e)
    · exact .inr ⟨m', by rw [e', e]⟩
    · exact .inr ⟨m, by rw [e', e]⟩
    · exact .inr ⟨m, by rw [e', e, BitVec.or_assoc]; rfl⟩

/-- A command of the monad that, where it completes, only reads. -/
def OnlyReads {α : Type} (c : Nat) (m : X α) : Prop := ∀ d a z, m.run d = .ok a z → Reads c d z

theorem OnlyReads.bind {α β : Type} {c : Nat} {m : X α} {f : α → X β} (h : OnlyReads c m) (g : ∀ a, OnlyReads c (f a)) :
    OnlyReads c (m >>= f) := by
  intro d b z e
  obtain ⟨a, y, e1, e2⟩ := X.bind_ok e
  exact (h _ _ _ e1).trans (g _ _ _ _ e2)

theorem OnlyReads.pure {α : Type} (c : Nat) (a : α) : OnlyReads c (Pure.pure a : X α) := by
  intro d b z e; cases e; exact Reads.refl ..

theorem OnlyReads.raise {α : Type} (c code acc sub detail : Nat) (t : W64) : OnlyReads c (raise code acc sub detail t : X α) := by
  intro d b z e; cases e

theorem OnlyReads.ite {α : Type} {c : Nat} {p : Prop} [Decidable p] {m n : X α} (h : OnlyReads c m) (g : OnlyReads c n) :
    OnlyReads c (if p then m else n) := by split <;> assumption

theorem OnlyReads.core (c : Nat) : OnlyReads c (core c) := by
  intro d b z e; cases e; exact Reads.refl ..

theorem Dev.byte_modCore (d : Dev) (c a : Nat) (f : Core → Core) : (d.modCore c f).byte a = d.byte a := rfl

theorem OnlyReads.onCore (c : Nat) (f : Core → Core)
    (h : ∀ x, f x = { x with br := (f x).br, brRank := (f x).brRank, prefetch := (f x).prefetch, spent := (f x).spent }) :
    OnlyReads c (onCore c f) := by
  intro d b z e
  rw [X.onCore_run] at e
  cases e
  refine ⟨rfl, ?_, ?_, fun k _ => ?_, fun _ => .inl rfl⟩
  · simp only [Dev.core_modCore, if_true]; exact h _
  · intro e he; simp [he]
  · simp

theorem OnlyReads.tick (c n : Nat) : OnlyReads c (tick c n) := OnlyReads.onCore c _ (fun _ => rfl)

theorem OnlyReads.modify (c : Nat) (f : Dev → Dev) (h : ∀ d, Reads c d (f d)) : OnlyReads c (modify f : X Unit) := by
  intro d b z e; rw [X.modify_run] at e; cases e; exact h d

theorem OnlyReads.get {α : Type} (c : Nat) {f : Dev → X α} (h : ∀ d a z, (f d).run d = .ok a z → Reads c d z) :
    OnlyReads c (MonadState.get >>= f) := fun d a z e => h d a z e

/-- A key byte marked. -/
theorem Reads.markKey (c : Nat) (d : Dev) (a : Nat) (m : Acc) : Reads c d (d.markKey a m) :=
  ⟨rfl, rfl, fun _ _ => rfl, fun _ _ => rfl, fun _ => .inl rfl⟩

/-- A register of an ECC page written. -/
theorem Reads.setReg (c : Nat) (d : Dev) (k : Nat) (v : W32) (h : ∃ t : Tier, ∃ e, t.eccPage = some e ∧ e ≤ k ∧ k < e + 16) :
    Reads c d (d.setReg k v) := by
  refine ⟨rfl, rfl, fun _ _ => rfl, fun j hj => ?_, fun _ => .inl rfl⟩
  obtain ⟨t, e, he, h1, h2⟩ := h
  have : j ≠ k := fun ej => hj t e he (ej ▸ ⟨h1, h2⟩)
  simp [this]

/-- A corrected word counted. -/
theorem Reads.eccCorr (c : Nat) (d : Dev) (t : Tier) : Reads c d (d.eccCorr t) := by
  unfold Dev.eccCorr
  split
  · exact Reads.refl ..
  · rename_i k hk
    exact Reads.setReg _ _ _ _ ⟨t, k, hk, by omega, by omega⟩

/-- An uncorrectable word counted and captured. -/
theorem Reads.eccUncorr (c : Nat) (d : Dev) (t : Tier) (kind m w : Nat) : Reads c d (d.eccUncorr t kind m w) := by
  unfold Dev.eccUncorr
  split
  · exact Reads.refl ..
  · rename_i k hk
    have h1 : Reads c d (d.incRf k 16 16 1) := Reads.setReg _ _ _ _ ⟨t, k, hk, by omega, by omega⟩
    unfold Dev.eccCapture
    split
    · exact h1
    · exact ((h1.trans (Reads.setReg _ _ _ _ ⟨t, k, hk, by omega, by omega⟩)).trans
        (Reads.setReg _ _ _ _ ⟨t, k, hk, by omega, by omega⟩)).trans (Reads.setReg _ _ _ _ ⟨t, k, hk, by omega, by omega⟩)

theorem Reads.foldCorr (c : Nat) (t : Tier) (l : List Nat) : ∀ d : Dev, Reads c d (l.foldl (fun x _ => x.eccCorr t) d) := by
  induction l with
  | nil => exact Reads.refl c
  | cons a l ih => intro d; exact (Reads.eccCorr c d t).trans (ih _)

theorem OnlyReads.mergedRead (c : Nat) (t : Tier) (a n : Nat) : OnlyReads c (mergedRead c t a n) := by
  unfold Machine.mergedRead
  refine (OnlyReads.core c).bind fun x => ?_
  refine OnlyReads.get c ?_
  intro d b z e
  simp only [Dev.eccRead] at e
  split at e
  · cases e
  · rename_i d1 h
    cases e
    rw [← (Prod.mk.inj h).1]
    exact Reads.foldCorr ..

/-- A merge of one byte keeps the stores' bytes. -/
theorem Reads.eccMergeWord (c : Nat) (t : Tier) (m a : Nat) (d : Dev) (w : Nat) : Reads c d (Dev.eccMergeWord t m a 1 d w) := by
  unfold Dev.eccMergeWord
  split
  · omega
  · split
    · exact Reads.eccUncorr ..
    · split
      · refine (Reads.eccCorr c d t).trans ⟨rfl, rfl, fun _ _ => rfl, fun _ _ => rfl, fun _ => .inl rfl⟩
      · exact Reads.refl ..

theorem Reads.eccMerge (c : Nat) (t : Tier) (m a : Nat) (d : Dev) : Reads c d (d.eccMerge t m a 1) := by
  unfold Dev.eccMerge
  generalize wordsOf a 1 = l
  induction l generalizing d with
  | nil => exact Reads.refl ..
  | cons w l ih => exact (Reads.eccMergeWord c t m a d w).trans (ih _)

theorem Dev.byte_of_eq {d z : Dev} (h1 : z.mem = d.mem) (h2 : z.pstore = d.pstore) (a : Nat) : z.byte a = d.byte a := by
  unfold Dev.byte; rw [h1, h2]

theorem Reads.pstore {c : Nat} {d z : Dev} (h : Reads c d z) : z.pstore = d.pstore := by rw [h.dev]

/-- The A bit of a descriptor set. -/
theorem Reads.orByte (c : Nat) (t : Tier) (m a : Nat) (d : Dev) (h : a % 16 = 7) (hl : a < 0x70_0000_0000) :
    Reads c d (d.orByte t m a 2) := by
  have hm := Reads.eccMerge c t m a d
  refine hm.trans ?_
  have hb : ∀ b, (d.eccMerge t m a 1).byte b = d.byte b := Dev.byte_of_eq (Dev.eccMerge_mem ..) hm.pstore
  have e : d.orByte t m a 2 = { d.eccMerge t m a 1 with mem := memPut (d.eccMerge t m a 1).mem a (d.byte a ||| 2) } := by
    show (d.eccMerge t m a 1).setByte a (d.byte a ||| 2) = _
    unfold Dev.setByte; rw [if_neg (by omega)]
  rw [e]
  refine ⟨rfl, rfl, fun _ _ => rfl, fun _ _ => rfl, fun b => ?_⟩
  rw [← hb a]
  by_cases hba : b = a
  · subst hba
    exact .inr ⟨h, by simp only [Dev.byte]; rw [if_neg (by omega), if_neg (by omega), memGet_memPut, if_pos rfl]⟩
  · left
    simp only [Dev.byte]
    split
    · rfl
    · rw [memGet_memPut, if_neg hba]

/-! ### Walks, translation, checks, loads -/

theorem walkTable_mod (d : Dev) (c : Nat) : walkTable d c % 16 = 0 := by
  unfold walkTable frondBase Tier.base
  dsimp only
  split <;> omega

theorem pickDesc_addr {c s v da : Nat} {bs : List Byte} {a : Nat} {d0 d1 : W64} (h : pickDesc c s v (sectorDescs da bs) = .ok (a, d0, d1)) :
    ∃ i < 4, a = da + 16 * i := by
  unfold pickDesc at h
  dsimp only at h
  split at h
  · cases h
  · split at h
    · cases h
    · split at h
      · cases h
      · rename_i e hf
        split at h
        · have he : e = (a, d0, d1) := by injection h
          have hm := List.mem_of_find?_eq_some hf
          have hm := (List.mem_filter.1 hm).1
          unfold sectorDescs at hm
          obtain ⟨i, hi, hie⟩ := List.mem_map.1 hm
          exact ⟨i, List.mem_range.1 hi, by rw [he] at hie; exact (congrArg Prod.fst hie).symm⟩
        · cases h

/-- A walk that fills a register only reads. -/
theorem walk_filled {c v : Nat} {rec : Bool} {d z : Dev} {n : Nat} {r : BlockReg} (hc : c < 256) (h : (walk c v rec).run d = .ok (.filled n r) z) :
    Reads c d z := by
  unfold walk at h
  obtain ⟨d0, y, e0, h⟩ := X.bind_ok h
  cases e0
  dsimp only at h
  split at h
  · cases h
  rename_i hr
  split at h
  · split at h
    · obtain ⟨_, _, _, h⟩ := X.bind_ok h
      cases h
    · cases h
  · rename_i d1 hk
    obtain ⟨_, y1, e1, h⟩ := X.bind_ok h
    obtain ⟨bs, y2, e2, h⟩ := X.bind_ok h
    have hd1 : d1 = d := by
      unfold Dev.checkPart at hk
      split at hk
      · cases hk
      · split at hk
        · cases hk
        · injection hk with h1 _; exact h1.symm
    subst hd1
    have r1 : Reads c d1 y1 := by cases e1; exact Reads.markKey ..
    have r2 := r1.trans (OnlyReads.mergedRead _ _ _ _ _ _ _ e2)
    split at h
    · cases h
    · rename_i a dd0 w1 hp
      obtain ⟨_, y3, e3, h⟩ := X.bind_ok h
      obtain ⟨x, y4, e4, h⟩ := X.bind_ok h
      obtain ⟨_, y5, e5, h⟩ := X.bind_ok h
      cases h
      cases e4
      have r3 : Reads c y2 y3 := by
        rw [X.modify_run] at e3; cases e3
        refine Reads.trans (Reads.orByte _ _ _ _ _ ?_ ?_) (Reads.markKey ..)
        · obtain ⟨i, _, ha⟩ := pickDesc_addr hp
          have := walkTable_mod d1 c
          omega
        · obtain ⟨i, hi, ha⟩ := pickDesc_addr hp
          simp only [Tier.base, Tier.size, frondOf] at hr
          simp at hr
          omega
      exact (r2.trans r3).trans (OnlyReads.onCore c _ (fun _ => rfl) _ _ _ e5)

theorem OnlyReads.abandonTest (c : Nat) : OnlyReads c (abandonTest c) := by
  unfold Machine.abandonTest
  refine (OnlyReads.core c).bind fun x => ?_
  intro d a z e
  split at e <;> dsimp only at e <;>
  · split at e
    · cases e
    · cases e; exact Reads.refl ..

theorem timedWalk_filled {c v : Nat} {d z : Dev} {n : Nat} {r : BlockReg} (hc : c < 256)
    (h : (timedWalk c v).run d = .ok (.filled n r) z) : Reads c d z := by
  unfold timedWalk at h
  obtain ⟨_, y1, e1, h⟩ := X.bind_ok h
  obtain ⟨x, y2, e2, h⟩ := X.bind_ok h
  cases e2
  dsimp only at h
  split at h
  · obtain ⟨_, _, _, h⟩ := X.bind_ok h
    obtain ⟨_, _, e3, _⟩ := X.bind_ok h
    cases e3
  obtain ⟨_, y3, e3, h⟩ := X.bind_ok h
  obtain ⟨w, y4, e4, h⟩ := X.bind_ok h
  obtain ⟨_, y5, e5, h⟩ := X.bind_ok h
  cases h
  exact (((OnlyReads.abandonTest c _ _ _ e1).trans (OnlyReads.onCore c _ (fun _ => rfl) _ _ _ e3)).trans
    (walk_filled hc e4)).trans (OnlyReads.abandonTest c _ _ _ e5)

theorem OnlyReads.xlatPart (c : Nat) (a : Acc) (va n : Nat) (s : Bool) (hc : c < 256) : OnlyReads c (xlatPart c a va n s) := by
  intro d p z h
  unfold Machine.xlatPart at h
  obtain ⟨x, y1, e1, h⟩ := X.bind_ok h
  cases e1
  split at h
  · obtain ⟨_, y2, e2, h⟩ := X.bind_ok h
    have r2 := OnlyReads.onCore c _ (fun _ => rfl) _ _ _ e2
    obtain ⟨_, _, e3, h⟩ := X.bind_ok h
    cases e3
    dsimp only at h
    split at h
    · obtain ⟨_, _, e3, _⟩ := X.bind_ok h; cases e3
    · cases h; exact r2
  · obtain ⟨w, y2, e2, h⟩ := X.bind_ok h
    split at h
    · have r2 := timedWalk_filled hc e2
      obtain ⟨_, _, e3, h⟩ := X.bind_ok h
      cases e3
      dsimp only at h
      split at h
      · obtain ⟨_, _, e3, _⟩ := X.bind_ok h; cases e3
      · cases h; exact r2
    · obtain ⟨_, _, e3, _⟩ := X.bind_ok h; cases e3

theorem checkPart_ok {d d1 : Dev} {r : Req} {k : Bool} {t : Tier} {a : Nat} {m : Acc} (h : d.checkPart r k t a m = (d1, none)) :
    d1 = d := by
  unfold Dev.checkPart at h
  split at h
  · cases h
  · split at h
    · cases h
    · injection h with h1 _; exact h1.symm

theorem OnlyReads.protPart (c : Nat) (a : Acc) (p : Part) : OnlyReads c (protPart c a p) := by
  intro d b z h
  unfold Machine.protPart at h
  obtain ⟨x, y1, e1, h⟩ := X.bind_ok h
  cases e1
  obtain ⟨d0, y, e0, h⟩ := X.bind_ok h
  cases e0
  split at h
  · rename_i hk
    cases h
    rw [checkPart_ok hk]; exact Reads.refl ..
  · obtain ⟨_, _, _, h⟩ := X.bind_ok h; cases h

theorem OnlyReads.readPart (c : Nat) (p : Part) : OnlyReads c (readPart c p) :=
  (OnlyReads.modify c _ (fun _ => Reads.markKey ..)).bind fun _ => OnlyReads.mergedRead _ _ _ _

theorem OnlyReads.loadParts (c near far : Nat) (hc : c < 256) : ∀ l, OnlyReads c (loadParts c near far l)
  | [] => OnlyReads.pure _ _
  | (va, n, s) :: t =>
    (OnlyReads.xlatPart c .read va n s hc).bind fun p => (OnlyReads.protPart c .read p).bind fun _ =>
      (OnlyReads.tick c _).bind fun _ => (OnlyReads.readPart c p).bind fun _ => (OnlyReads.loadParts c near far hc t).bind fun _ => OnlyReads.pure _ _

theorem OnlyReads.load (c va n : Nat) (hc : c < 256) : OnlyReads c (load c va n) := OnlyReads.loadParts c 1 8 hc _

theorem OnlyReads.srcBin (c : Nat) (s : Spec) (len : Nat) (hc : c < 256) : OnlyReads c (srcBin c s len) := by
  unfold Machine.srcBin
  split
  · exact (OnlyReads.tick c 1).bind fun _ => OnlyReads.pure _ _
  · exact (OnlyReads.core c).bind fun _ => (OnlyReads.load c _ len hc).bind fun _ => OnlyReads.pure _ _

theorem OnlyReads.srcDec (c : Nat) (s : Spec) (len : Nat) (hc : c < 256) : OnlyReads c (srcDec c s len) := by
  unfold Machine.srcDec
  split
  · exact (OnlyReads.tick c 1).bind fun _ => OnlyReads.pure _ _
  · exact (OnlyReads.core c).bind fun _ => OnlyReads.load c _ len hc

theorem OnlyReads.xlatAll (c : Nat) (a : Acc) (hc : c < 256) : ∀ l, OnlyReads c (xlatAll c a l)
  | [] => OnlyReads.pure _ _
  | (va, n, s) :: t => (OnlyReads.xlatPart c a va n s hc).bind fun _ => (OnlyReads.xlatAll c a hc t).bind fun _ => OnlyReads.pure _ _

theorem OnlyReads.protRead (c : Nat) : ∀ l, OnlyReads c (protRead c l)
  | [] => OnlyReads.pure _ _
  | p :: t => (OnlyReads.protPart c .read p).bind fun _ => (OnlyReads.tick c _).bind fun _ => (OnlyReads.readPart c p).bind fun _ =>
      (OnlyReads.protRead c t).bind fun _ => OnlyReads.pure _ _

theorem OnlyReads.loadAll (c va n : Nat) (l : Bool) (hc : c < 256) : OnlyReads c (loadAll c va n l) := by
  unfold Machine.loadAll
  refine (OnlyReads.xlatAll c .read hc _).bind fun ps => ?_
  dsimp only
  split
  · intro d a z h; obtain ⟨_, _, e, _⟩ := X.bind_ok h; cases e
  · exact OnlyReads.protRead c _

theorem OnlyReads.accSrc (c : Nat) (s : Spec) (len : Nat) (l : Bool) (hc : c < 256) : OnlyReads c (accSrc c s len l) := by
  unfold Machine.accSrc
  split
  · exact (OnlyReads.tick c 1).bind fun _ => OnlyReads.pure _ _
  · exact (OnlyReads.core c).bind fun _ => (OnlyReads.loadAll c _ len l hc).bind fun _ => OnlyReads.pure _ _

end Sys2Proof.Machine
end

