-- ==== Sys2Proof/Laws/RegBus.lean ====
section
/-!
SUPPORT. What a register write does on the bus: where it reaches its register, and every way it can be turned away (11 R289 to R298).
-/
namespace Sys2Proof.Machine

/-- Where the slot grants an access, the checks leave the device as it is and name the page, present and in a domain that is on. -/
theorem Dev.access_writable (d : Dev) (m : RegMaster) (page off : Nat) (h : d.writable m page off = true) :
    ∃ r i rd idx, pageOf page = some (r, i) ∧ regDefAt r.type off = some (rd, idx) ∧ readOnly r.type i rd idx = false ∧
      (d.locked r.type page idx rd = false ∨ rd.off = 0x28) ∧ d.reaches m true = true ∧ d.access m page off true = (d, .ok (r, i)) := by
  unfold Dev.writable at h
  simp only [Bool.and_eq_true] at h
  obtain ⟨⟨h1, h2⟩, h3⟩ := h
  cases hp : pageOf page with
  | none => simp [hp] at h3
  | some ri =>
    obtain ⟨r, i⟩ := ri
    simp only [hp, Bool.and_eq_true] at h3
    obtain ⟨h4, h5⟩ := h3
    cases hr : regDefAt r.type off with
    | none => simp [hr] at h5
    | some di =>
      obtain ⟨rd, idx⟩ := di
      simp only [hr, Bool.and_eq_true, Bool.or_eq_true, Bool.not_eq_true', beq_iff_eq] at h5
      refine ⟨r, i, rd, idx, rfl, hr, h5.1, h5.2, h1, ?_⟩
      have hgo : (match pageOf page with
          | none => (d.logErr 0 .unmapped true (masterId m) page off, Except.error false)
          | some (r, i) =>
            match pageThallus r.type i with
            | some t => if d.thOn t then (d, .ok (r, i)) else (d.logErr 0 .domainOff true (masterId m) page off, .error false)
            | none => (d, .ok (r, i)) : Dev × Except Bool (PageRow × Nat)) = (d, .ok (r, i)) := by
        simp only [hp]
        cases ht : pageThallus r.type i with
        | none => rfl
        | some t => simp only [ht] at h4 ⊢; simp [h4]
      unfold Dev.access
      cases m with
      | crozier => exact hgo
      | host | debug | peer p =>
        simp at h2
        simp only [Dev.slotCheck, if_true, h2]
        exact hgo

/-- A write that reaches its register is made there, by the register's own rule or field by field. -/
theorem Dev.busWrite_writable (fz : Fuses) (d : Dev) (m : RegMaster) (page off : Nat) (v : W32) (h : d.writable m page off = true) :
    ∃ r i rd idx, pageOf page = some (r, i) ∧ regDefAt r.type off = some (rd, idx) ∧
      d.busWrite fz m page off 0xF v =
        (match d.special fz m r.type i page rd idx v with
          | some d1 => d1
          | none => (d.writeFields page (page * 4096 + off) (d.badBits r.type i rd.off idx v (d.reg (page * 4096 + off))) rd v).after d r.type i page
              rd.off v, true) := by
  obtain ⟨r, i, rd, idx, hp, hr, h1, h2, h3, h4⟩ := Dev.access_writable d m page off h
  refine ⟨r, i, rd, idx, hp, hr, ?_⟩
  have hl : ¬((d.locked r.type page idx rd && decide (rd.off ≠ 0x28)) = true) := by
    rcases h2 with h2 | h2 <;> simp [h2]
  simp only [Dev.busWrite, h3, h4, hr, Dev.writeReg, h1, if_neg hl]
  cases d.special fz m r.type i page rd idx v <;> simp

/-- The same, the register named. -/
theorem Dev.busWrite_at (fz : Fuses) (d : Dev) (m : RegMaster) (page off : Nat) (v : W32) (r : PageRow) (i : Nat) (rd : RegDef) (idx : Nat)
    (h : d.writable m page off = true) (hp : pageOf page = some (r, i)) (hr : regDefAt r.type off = some (rd, idx)) :
    (d.busWrite fz m page off 0xF v).1 =
      (match d.special fz m r.type i page rd idx v with
        | some d1 => d1
        | none => (d.writeFields page (page * 4096 + off) (d.badBits r.type i rd.off idx v (d.reg (page * 4096 + off))) rd v).after d r.type i page
            rd.off v) := by
  obtain ⟨r', i', rd', idx', hp', hr', e⟩ := Dev.busWrite_writable fz d m page off v h
  rw [hp] at hp'; cases hp'
  rw [hr] at hr'; cases hr'
  rw [e]

/-- A master whose way is not open changes nothing. -/
theorem Dev.busWrite_unreached (fz : Fuses) (d : Dev) (m : RegMaster) (page off : Nat) (be : BitVec 4) (v : W32)
    (h : d.reaches m true = false) : d.busWrite fz m page off be v = (d, true) := by simp [Dev.busWrite, h]

end Sys2Proof.Machine
end

