-- ==== Sys2Proof/Laws/Writes.lean ====
section
/-!
SUPPORT. What a core's stores leave alone: `Writes` for checked parts and whole stores.
-/
namespace Sys2Proof.Machine

theorem Writes.refl (c : Nat) (d : Dev) : Writes c d d := ⟨rfl, rfl, fun _ _ => rfl, fun _ _ => rfl⟩

theorem Writes.trans {c : Nat} {d y z : Dev} (h : Writes c d y) (g : Writes c y z) : Writes c d z where
  dev := by rw [g.dev, h.dev]
  core := by rw [g.core, h.core]
  cores e he := (g.cores e he).trans (h.cores e he)
  regs k hk := (g.regs k hk).trans (h.regs k hk)

theorem Reads.writes {c : Nat} {d z : Dev} (h : Reads c d z) : Writes c d z where
  dev := by rw [h.dev]
  core := by rw [h.core]
  cores := h.cores
  regs := h.regs

/-- A command of the monad that, where it completes, changes what a store changes. -/
def OnlyWrites {α : Type} (c : Nat) (m : X α) : Prop := ∀ d a z, m.run d = .ok a z → Writes c d z

theorem OnlyReads.writes {α : Type} {c : Nat} {m : X α} (h : OnlyReads c m) : OnlyWrites c m := fun d a z e => (h d a z e).writes

theorem OnlyWrites.bind {α β : Type} {c : Nat} {m : X α} {f : α → X β} (h : OnlyWrites c m) (g : ∀ a, OnlyWrites c (f a)) :
    OnlyWrites c (m >>= f) := by
  intro d b z e
  obtain ⟨a, y, e1, e2⟩ := X.bind_ok e
  exact (h _ _ _ e1).trans (g _ _ _ _ e2)

theorem OnlyWrites.pure {α : Type} (c : Nat) (a : α) : OnlyWrites c (Pure.pure a : X α) := (OnlyReads.pure c a).writes

theorem OnlyWrites.modify (c : Nat) (f : Dev → Dev) (h : ∀ d, Writes c d (f d)) : OnlyWrites c (modify f : X Unit) := by
  intro d b z e; rw [X.modify_run] at e; cases e; exact h d

/-- A change of the core that stores may make. -/
theorem Writes.modCore (c : Nat) (d : Dev) (f : Core → Core)
    (h : ∀ x, f x = { x with br := (f x).br, brRank := (f x).brRank, prefetch := (f x).prefetch, spent := (f x).spent
                             wbuf := (f x).wbuf, stored := (f x).stored }) : Writes c d (d.modCore c f) := by
  refine ⟨rfl, ?_, ?_, fun k _ => ?_⟩
  · simp only [Dev.core_modCore, if_true]; exact h _
  · intro e he; simp [he]
  · simp

theorem Writes.eccMergeWord (c : Nat) (t : Tier) (m a n : Nat) (d : Dev) (w : Nat) : Writes c d (Dev.eccMergeWord t m a n d w) := by
  unfold Dev.eccMergeWord
  split
  · exact ⟨rfl, rfl, fun _ _ => rfl, fun _ _ => rfl⟩
  · split
    · exact (Reads.eccUncorr ..).writes
    · split
      · refine (Reads.eccCorr c d t).writes.trans ⟨rfl, rfl, fun _ _ => rfl, fun _ _ => rfl⟩
      · exact Writes.refl ..

theorem Writes.eccMerge (c : Nat) (t : Tier) (m a n : Nat) (d : Dev) : Writes c d (d.eccMerge t m a n) := by
  unfold Dev.eccMerge
  generalize wordsOf a n = l
  induction l generalizing d with
  | nil => exact Writes.refl ..
  | cons w l ih => exact (Writes.eccMergeWord c t m a n d w).trans (ih _)

theorem Writes.setByte (c : Nat) (d : Dev) (a : Nat) (v : Byte) : Writes c d (d.setByte a v) := by
  unfold Dev.setByte
  split
  · exact ⟨rfl, rfl, fun _ _ => rfl, fun _ _ => rfl⟩
  · exact ⟨rfl, rfl, fun _ _ => rfl, fun _ _ => rfl⟩

theorem Writes.setBytes (c : Nat) : ∀ (bs : List Byte) (d : Dev) (a : Nat), Writes c d (d.setBytes a bs)
  | [], d, _ => Writes.refl c d
  | v :: t, d, a => (Writes.setByte c d a v).trans (Writes.setBytes c t (d.setByte a v) (a + 1))

theorem Writes.store (c : Nat) (d : Dev) (t : Tier) (m a : Nat) (bs : List Byte) : Writes c d (d.store t m a bs) :=
  (Writes.eccMerge c t m a bs.length d).trans (Writes.setBytes ..)

theorem Writes.drainOne (c : Nat) (d : Dev) : Writes c d (drainOne c d) := by
  unfold Machine.drainOne
  split
  · exact Writes.refl ..
  · exact (Writes.store ..).trans (Writes.modCore c _ _ (fun _ => rfl))

theorem Writes.pushEntry (c a : Nat) (bs : List Byte) (d : Dev) : Writes c d (pushEntry c a bs d) := by
  unfold Machine.pushEntry
  refine Writes.trans ?_ (Writes.modCore c _ _ (fun _ => rfl))
  split
  · exact Writes.refl ..
  · exact Writes.drainOne ..

theorem Writes.pushChunks (c : Nat) : ∀ (n a : Nat) (bs : List Byte) (d : Dev), Writes c d (pushChunks c n a bs d)
  | 0, _, _, d => Writes.refl c d
  | n + 1, a, bs, d => by
    unfold Machine.pushChunks
    split
    · exact Writes.refl ..
    · exact (Writes.pushEntry ..).trans (Writes.pushChunks c n ..)

theorem OnlyWrites.setDirty (c : Nat) (p : Part) : OnlyWrites c (setDirty c p) := by
  unfold Machine.setDirty
  intro d a z h
  split at h
  · obtain ⟨_, y, e1, h⟩ := X.bind_ok h
    have w1 : Writes c d y := by
      split at e1
      · rw [X.modify_run] at e1; cases e1
        exact (Writes.store ..).trans (Reads.markKey ..).writes
      · cases e1; exact Writes.refl ..
    refine w1.trans ?_
    rw [X.onCore_run] at h; cases h
    refine Writes.modCore c _ _ (fun x => ?_)
    dsimp only
    split <;> rfl
  · cases h; exact Writes.refl ..

theorem OnlyWrites.writePart (c : Nat) (p : Part) (bs : List Byte) : OnlyWrites c (writePart c p bs) := by
  unfold Machine.writePart
  refine (OnlyWrites.modify c _ fun d => ?_).bind fun _ => OnlyWrites.setDirty c p
  dsimp only
  refine Writes.trans ?_ (Writes.modCore c _ _ (fun _ => rfl))
  split
  · exact (Reads.markKey ..).writes.trans (Writes.pushChunks ..)
  · exact (Reads.markKey ..).writes.trans (Writes.store ..)

theorem OnlyWrites.storeParts (c near far : Nat) (hc : c < 256) : ∀ l bs, OnlyWrites c (storeParts c near far l bs)
  | [], _ => OnlyWrites.pure _ _
  | (va, n, s) :: t, _ =>
    (OnlyReads.xlatPart c .write va n s hc).writes.bind fun p => (OnlyReads.protPart c .write p).writes.bind fun _ =>
      (OnlyReads.tick c _).writes.bind fun _ => (OnlyWrites.writePart c p _).bind fun _ => OnlyWrites.storeParts c near far hc t _

theorem OnlyWrites.store (c va : Nat) (bs : List Byte) (hc : c < 256) : OnlyWrites c (store c va bs) := OnlyWrites.storeParts c 1 8 hc _ bs

end Sys2Proof.Machine
end

