-- ==== Sys2Proof/Laws/Runs.lean ====
section
/-!
SUPPORT. From a meaning that completes to the command's next state: what an instruction leaves, in the words of `Retired`.
-/
namespace Sys2Proof.Machine

theorem X.applySteps_run (c : Nat) (l : List (Option (Nat × W64))) (d : Dev) :
    (applySteps c l).run d = .ok () (d.modCore c (fun x => l.foldl Core.applyStep x)) := rfl

theorem X.setG_run (c n : Nat) (v : W64) (d : Dev) : (setG c n v).run d = .ok () (d.modCore c (fun x => x.setG n v)) := rfl

/-! ### The decode cycle changes no register -/

@[simp] theorem Dev.begun_g (d : Dev) (c : Nat) : ((d.begun c).core c).g = (d.core c).g := by rw [Dev.begun_eq]; simp; rfl
@[simp] theorem Dev.begun_idx (d : Dev) (c : Nat) : ((d.begun c).core c).idx = (d.core c).idx := by rw [Dev.begun_eq]; simp; rfl
@[simp] theorem Dev.begun_cb (d : Dev) (c : Nat) : ((d.begun c).core c).cb = (d.core c).cb := by rw [Dev.begun_eq]; simp; rfl
@[simp] theorem Dev.begun_csw (d : Dev) (c : Nat) : ((d.begun c).core c).csw = (d.core c).csw := by rw [Dev.begun_eq]; simp; rfl

@[simp] theorem stepOf_begun (d : Dev) (c : Nat) (s : Spec) (n : Nat) : stepOf ((d.begun c).core c) s n = stepOf (d.core c) s n := by
  unfold stepOf; rw [Dev.begun_idx]

@[simp] theorem eaOf_begun (d : Dev) (c : Nat) (s : Spec) (n : Nat) : eaOf ((d.begun c).core c) s n = eaOf (d.core c) s n := by
  unfold eaOf; rw [Dev.begun_idx]

@[simp] theorem rmAddr_begun (d : Dev) (c : Nat) (i : Dec) : rmAddr ((d.begun c).core c) i = rmAddr (d.core c) i := by
  unfold rmAddr; rw [Dev.begun_idx]

/-- What the accesses of an instruction leave of its core. -/
structure SameRegs (x y : Core) : Prop where
  g : y.g = x.g
  ld : y.ldPend = x.ldPend
  cb : y.cb = x.cb
  cc : y.cc = x.cc
  cur : y.cur = x.cur
  csw : y.csw = x.csw

theorem Writes.same {d z : Dev} {c : Nat} (h : Writes c (d.begun c) z) : SameRegs (d.core c) (z.core c) := by
  have e := h.core
  have hb : (d.begun c).core c = { d.core c with stored := false, spent := 1, unbilled := 0, paid := false } := by rw [Dev.begun_eq]; simp
  rw [hb] at e
  constructor <;> rw [e] <;> rfl

theorem aluTake_ok {c : Nat} {d : Dev} {v : W64} {ov : Bool} (h : (d.core c).csw.bovt = false ∨ ov = false) :
    (aluTake c (some (v, ov))).run d = .ok v d := by
  unfold aluTake
  rcases h with h | h
  · cases ov <;> simp [bind, EStateM.bind, EStateM.run, core, get, getThe, MonadStateOf.get, EStateM.get, pure, EStateM.pure, h]
  · subst h; simp [bind, EStateM.bind, EStateM.run, core, get, getThe, MonadStateOf.get, EStateM.get, pure, EStateM.pure]

/-- An instruction whose accesses leave the device `z` and which then changes its core calmly by `f`: its command's next state. -/
theorem runInstr_calm {s : State} {c : CoreId} {i : Dec} {o : Op} {sem : Nat → Dec → X Ret} {r : Ret} {z : Dev} {f : Core → Core}
    (h : s.dev.standsAt c i) (ho : i.op = o) (hz : Writes c (s.dev.begun c) z) (hf : Calm f)
    (hs : (sem c i).run (s.dev.begun c) = .ok r (z.modCore c f)) (hp : r.pword = none) :
    ∃ w, onDev (runInstr c.val o sem) s = ranTo s c w ∧ (w.core c).cc = (f (z.core c)).cc + (f (z.core c)).cycles ∧
      Retired c z w (fun m => pick m (s.dev.core c).ldPend ((f (z.core c)).g m))
       (BitVec.ofNat 16 (r.pc.getD ((s.dev.core c).cb.pc.toNat + i.n))) r.ld (s.dev.core c).cb := by
  have S := hz.same
  have R := retire_calm hf c i.n r z hp
  rw [S.ld, S.cb] at R
  refine ⟨_, onDev_runInstr s h ho hs, ?_, R⟩
  rw [retire_cc _ _ _ _ hp]; simp

theorem Retired.of_eq {c : Nat} {d w : Dev} {r r' : Nat → W64} {pc pc' : BitVec 16} {ld : Option (Nat × W64)} {b : Bank}
    (h : Retired c d w r pc ld b) (hr : r = r') (hp : pc = pc') : Retired c d w r' pc' ld b := hr ▸ hp ▸ h

theorem Core.applyStep_cycles (x : Core) (st : Option (Nat × W64)) : (x.applyStep st).cc = x.cc ∧ (x.applyStep st).cycles = x.cycles := by
  cases st with
  | none => exact ⟨rfl, rfl⟩
  | some e => obtain ⟨p, e'⟩ := Core.applyStep_some x e.1 e.2; rw [e']; exact ⟨rfl, rfl⟩

/-! ### What a journal's fault takes with it, and where a queue may be placed -/

theorem Item.loseChain_jlost (x : Item) (c : Nat) :
    (x.loseChain c).jlost = (x.jlost || (x.jen && x.chain == c && x.phase != .commit)) := by
  unfold Item.loseChain; split <;> simp_all

@[simp] theorem Item.loseChain_phase (x : Item) (c : Nat) : (x.loseChain c).phase = x.phase := by unfold Item.loseChain; split <;> rfl

theorem Dev.homeOpen_unfenced {d : Dev} {home : W32} (h : home &&& ~~~(d.reg frFence) ≠ 0) : d.homeOpen home &&& d.reg frFence = 0 := by
  simp only [Dev.homeOpen, if_neg h]; rw [BitVec.and_assoc]; simp

theorem Dev.homeOpen_sub (d : Dev) (home : W32) : d.homeOpen home &&& ~~~home = 0 := by
  unfold Dev.homeOpen; split
  · simp
  · rw [BitVec.and_comm, ← BitVec.and_assoc]; simp

end Sys2Proof.Machine
end

