-- ==== Sys2Proof/WellFormed.lean ====
section
/-!
DEFINITION. Well-formed commands: operands within what the spec lets their sender send. `exec` has a meaning for every term all the same.
-/
namespace Sys2Proof

/-- Whether a command is well formed. -/
def Instr.wf : Instr → Bool
  -- a frame has at least a header of 14 bytes (12 R309)
  | .frameReceive _ frame _ => decide (14 ≤ frame.length)
  -- a page holds 4,096 bytes (11 R288)
  | .registerWrite _ _ off _ _ => decide (off < 4096)
  | .registerBusTimeout _ _ off _ _ => decide (off < 4096)
  -- 16 junction sensors (13 R348)
  | .thermalSensorRead temps => decide (temps.length = 16)
  -- a slot has 16 MiB (14 R372)
  | .crozierStart a b => decide (a.length ≤ 0x100_0000) && decide (b.length ≤ 0x100_0000)
  | .bootStageTimeout _ _ a b => decide (a.length ≤ 0x100_0000) && decide (b.length ≤ 0x100_0000)
  -- the flash has 256 MiB
  | .flashCopy bs => decide (bs.length ≤ 0x1000_0000)
  -- payloads of 12 Table 12.4
  | .hello _ bs => decide (bs.length = 38)
  | .beat _ _ bs => decide (bs.length = 10)
  | .topo _ _ bs => decide (bs.length = 3)
  | .healthFlit _ _ bs => decide (bs.length = 32)
  | .cack _ _ bs => decide (bs.length = 12)
  -- H(n - 1), header, trailer, and a padded text of at most 1,024 bytes (12 R322)
  | .cmsg _ _ bs => decide (160 ≤ bs.length) && decide (bs.length ≤ 1184)
  -- log entry 41
  | .rreq _ _ bs => decide (bs.length = 9)
  | .rrsp _ _ bs => decide (bs.length = 6)
  -- windows of 12 Table 12.5
  | .remoteWindowAccess off _ => decide (off < 0x80_0000)
  | .bar4Access off w n =>
    decide (off + (w.elim n List.length) ≤ 2 ^ 30) ||
      (w.isNone && n == 4 && decide (2 ^ 30 ≤ off) && (decide (off < 2 ^ 30 + 2 ^ 17) || (decide (2 ^ 31 ≤ off) && decide (off < 2 ^ 31 + 2 ^ 23)))) ||
      -- configuration space: a read of one word, or a write within one (log entry 73)
      (decide (3 * 2 ^ 30 ≤ off) && decide (off < 3 * 2 ^ 30 + 4096) && w.elim (n == 4) (fun bs => decide (off % 4 + bs.length ≤ 4)))
  | .mbxReqWrite _ off bs => decide (off.val + bs.length ≤ 256)
  -- 12 R328
  | .pcieLinkUp speed width _ => speed != 0 && (width == 1 || width == 4 || width == 8)
  -- nine banks, 50 registers (05 Table 5.4)
  | .dbgcore _ bank reg => decide (bank.toNat ≤ 8) && decide (reg.toNat < 50)
  | _ => true

end Sys2Proof
end

