-- ==== Sys2Proof/Tests/Slice0.lean ====
section
/-!
SUPPORT. The model's own tests: ill-formed commands that `Instr.wf` refuses, words of the spec's encodings that decode as the spec says, and
for each statement with hypotheses devices and operands that meet them, clause by clause (`witness_` with the statement's name).
-/
namespace Sys2Proof.Tests
open Sys2Proof Sys2Proof.Machine
-- one theorem at a time: the kernel evaluates each, and waiting threads cost memory
set_option Elab.async false

/-! ### What the tests are made of -/

/-- An operation of a core has an outcome of which `p` holds. -/
def got {α : Type} (r : EStateM.Result Stop Dev α) (p : α → Dev → Bool) : Bool :=
  match r with
  | .ok v z => p v z
  | .error _ _ => false

theorem got_some {α : Type} {r : EStateM.Result Stop Dev α} {p : α → Dev → Bool} (h : got r p = true) : ∃ v z, r = .ok v z ∧ p v z = true := by
  cases r with
  | ok v z => exact ⟨v, z, rfl, h⟩
  | error e z => simp [got] at h

theorem got_unit {r : EStateM.Result Stop Dev Unit} (h : got r (fun _ _ => true) = true) : ∃ z, r = .ok () z := by
  obtain ⟨v, z, h, -⟩ := got_some h
  exact ⟨z, h⟩

/-- Whether core c stands at an instruction (`Dev.standsAt`), as a test. -/
def isAt (d : Dev) (c : Nat) (i : Dec) : Bool :=
  d.executes c && decide (asyncDue d c = none) && (match decodeNext d c with
    | .ok j => decide (j = i)
    | .error _ => false) && d.romRuns c i.op

theorem stands {d : Dev} {c : Nat} {i : Dec} (h : isAt d c i = true) : d.standsAt c i := by
  unfold isAt at h
  simp only [Bool.and_eq_true, decide_eq_true_eq] at h
  refine ⟨h.1.1.1, h.1.1.2, ?_, h.2⟩
  cases hd : decodeNext d c with
  | ok j => simp [hd] at h; rw [h.1.2]
  | error e => simp [hd] at h

/-- A program from word 0 of core 0's program store, its check bits made. -/
def prog (ws : List Nat) : SMap PWord := ws.zipIdx.map (fun e => (e.2, withCheck e.1))

/-- Gates of memories opened to every access of every class over all their frames. -/
def gatesOpen (gs : List Nat) : SMap W32 := gs.flatMap (fun g => [(rk .gate g 0x100, 0x807F003F), (rk .gate g 0x108, 0x3FFFFF)])

/-- A block of 16 frames from virtual frame `vb` on, with every right, A and D set, at physical address `pa`. -/
def blockAt (vb pa : Nat) : BlockReg :=
  ⟨true, 0, BitVec.ofNat 64 (2 ^ 63 + vb * 2 ^ 36 + 15 * 2 ^ 16 + 0x3603), BitVec.ofNat 64 pa, none⟩

/-- A running core: virtual frames 0 to 15 in the working store of core 0, frames 16 to 31 in its frond store. -/
def core0 : Core := { Core.atReset with run := .running, pool := true, br := [(0, blockAt 0 (workBase 0)), (1, blockAt 16 (frondBase 0))] }

/-- A core with its current bank changed. -/
def bankBy (f : Bank → Bank) (x : Core) : Core := x.modCb f

/-- A core with CSW of its current bank changed. -/
def cswBy (f : CSW → CSW) : Core → Core := bankBy (fun b => { b with csw := f b.csw })

/-- A core in a mode: 1 REGISTER, 2 FORERUNNER. -/
def inMode (m : BitVec 2) : Core → Core := cswBy (fun w => { w with mode := m })

/-- A core with registers of its current bank set. -/
def withG (l : SMap W64) : Core → Core := bankBy (fun b => { b with g := l })

/-- The device in RUN with core 0 at a program, its stores' gates open. -/
def devAt (ws : List Nat) (f : Core → Core := id) : Dev :=
  { Dev.reset with mode := .run, pstore := prog ws, cores := [(0, f core0)], regs := gatesOpen [0, 1, 5, 37, 293] }

/-- The machine with a device. -/
def on (d : Dev) : State := { State.reset with dev := d }

/-! Words of the spec's forms (01 Table 1.3): A with an immediate, A with a near address, D, S, RR, RI, RM. -/

def wA (major minor v : Nat) : List Nat := [major * 512 + minor * 16, 6 * 2048 + v]
def wN (major minor a : Nat) : List Nat := [major * 512 + minor * 16, a]
def wD (minor spec len scale rnd : Nat) : List Nat := [4 * 512 + minor * 16, spec, (len - 1) * 512 + scale * 16 + rnd]
def wS (major minor sp1 sp2 last : Nat) : List Nat := [major * 512 + minor * 16, sp1, sp2, last]
def wRR (major minor gd ga gb : Nat) : List Nat := [major * 512 + gd * 16 + minor / 16, ga * 512 + gb * 16 + minor % 16]
def wRI (minor gd ga imm : Nat) : List Nat := [13 * 512 + gd * 16 + minor, ga * 512 + imm / 16384, imm % 16384]
def wRM (minor gd gb disp : Nat) : List Nat := [14 * 512 + gd * 16 + minor, gb * 512 + disp]

/-- An immediate of Form A. -/
abbrev immOf (v : Nat) : Spec := .imm (BitVec.ofNat 64 v) false (BitVec.ofNat 8 v)

/-! ### Well-formed commands -/

theorem test_wf_frame_short : (Instr.frameReceive 0 (zeros 13) true).wf = false := by decide
theorem test_wf_frame : (Instr.frameReceive 0 (zeros 14) true).wf = true := by decide
theorem test_wf_offset : (Instr.registerWrite .host 0 4096 15 0).wf = false ∧ (Instr.registerWrite .host 0 4092 15 0).wf = true := by decide
theorem test_wf_timeout : (Instr.registerBusTimeout .host 0 4096 none false).wf = false := by decide
theorem test_wf_sensors : (Instr.thermalSensorRead (zeros 15)).wf = false ∧ (Instr.thermalSensorRead (zeros 16)).wf = true := by decide
theorem test_wf_hello : (Instr.hello false (zeros 37)).wf = false ∧ (Instr.hello false (zeros 38)).wf = true := by decide
theorem test_wf_beat : (Instr.beat false 0 (zeros 9)).wf = false := by decide
theorem test_wf_topo : (Instr.topo false 0 (zeros 2)).wf = false := by decide
theorem test_wf_health : (Instr.healthFlit 0 0 (zeros 31)).wf = false := by decide
theorem test_wf_cack : (Instr.cack 0 0 (zeros 11)).wf = false := by decide
theorem test_wf_cmsg : (Instr.cmsg 0 0 (zeros 159)).wf = false ∧ (Instr.cmsg 0 0 (zeros 1185)).wf = false := by decide +kernel
theorem test_wf_rreq : (Instr.rreq 0 0 (zeros 8)).wf = false := by decide
theorem test_wf_rrsp : (Instr.rrsp 0 0 (zeros 7)).wf = false := by decide
theorem test_wf_remote : (Instr.remoteWindowAccess 0x80_0000 none).wf = false := by decide
theorem test_wf_bar4 : (Instr.bar4Access (2 ^ 30 - 3) none 4).wf = false ∧ (Instr.bar4Access (2 ^ 30 - 4) none 4).wf = true ∧
    (Instr.bar4Access (2 ^ 30 + 2 ^ 17) none 4).wf = false ∧ (Instr.bar4Access (2 ^ 30) (some [0, 0, 0, 0]) 4).wf = false := by decide
/-- The configuration space lies above BAR4's 2^30 bytes (log entry 73): words, read whole or written within one. -/
theorem test_wf_config : (Instr.bar4Access (3 * 2 ^ 30) none 4).wf = true ∧ (Instr.bar4Access (3 * 2 ^ 30 + 2) (some [0, 0, 0]) 0).wf = false ∧
    (Instr.bar4Access (3 * 2 ^ 30 + 4096) none 4).wf = false := by decide
theorem test_wf_mbx : (Instr.mbxReqWrite 0 255 [1, 2]).wf = false := by decide
theorem test_wf_link : (Instr.pcieLinkUp 0 1 0).wf = false ∧ (Instr.pcieLinkUp 1 2 0).wf = false := by decide
theorem test_wf_dbgcore : (Instr.dbgcore 0 9 0).wf = false ∧ (Instr.dbgcore 0 8 50).wf = false := by decide

/-! ### Decoding (01 Tables 1.3, 1.4, 1.6) -/

/-- The decode of words in a mode, or none. -/
def decoded (ws : List Nat) (mode : Nat) : Option Dec :=
  match decode (ws.map withCheck) mode true 0 with
  | .ok i => some i
  | .error _ => none

theorem test_decode_z : decoded [0b00000_000000101] 0 = some { op := .getw } := by decide
theorem test_decode_a : decoded [0b00001_00010_0000, 0b001_010_00000111] 0 = some { op := .add, n := 2, s1 := .x1 2 7 } := by decide
theorem test_decode_ext : decoded [0b00010_01000_0000, 0b111_00000000100, 0b00000000000001] 0 = some { op := .ldsp, n := 3, s1 := .ext 65537 } := by
  decide
theorem test_decode_d : decoded [0b00100_00010_0000, 0b011_00000000000, 0b00111_00010_0011] 0 =
    some { op := .dadd, n := 3, s1 := .x1post, len := 8, scale := 2, rnd := 3, tgt := 65504 } := by decide
theorem test_decode_s : decoded [0b00111_00000_0000, 0b000_00000000000, 0b000_00000100000, 0b0_0000000011111] 0 =
    some { op := .mvs, n := 4, s2 := .near 32, len := 32, len2 := 32 } := by decide
theorem test_decode_b : decoded [0b01001_010_00100_0, 0b11111111111110] 1 = some { op := .bcmp, n := 2, cond := 2, ga := 4, tgt := 65534 } := by decide
theorem test_decode_bl : decoded [0b01010_01_0000000, 0b000000000000_11, 0b11111111111111] 0 = some { op := .call, n := 3, tgt := 65535 } := by
  decide
theorem test_decode_rr : decoded [0b01011_00001_0001, 0b00010_00000_0100] 1 = some { op := .mov, n := 2, gd := 1, ga := 2 } := by decide
theorem test_decode_ri : decoded [0b01101_00111_0010, 0b00001_111111111, 0b11111111111111] 1 =
    some { op := .addi, n := 3, gd := 7, ga := 1, imm := 8388607 } := by decide
theorem test_decode_rm : decoded [0b01110_00101_0100, 0b00110_000001000] 1 = some { op := .ld32u, n := 2, gd := 5, gb := 6, imm := 8 } := by decide
theorem test_decode_float : decoded [0b01100_00001_0001, 0b00010_00011_0000] 1 = some { op := .faddD, n := 2, gd := 1, ga := 2, gb := 3 } := by decide
theorem test_decode_rejects : decoded [0b01011_00001_0000, 0b00010_00011_0000] 0 = none ∧ decoded [0b01111_000000000] 0 = none := by decide

/-! ### The cores -/

theorem witness_IntegerResult :
    (let d := devAt (wRR 11 5 1 2 3) (withG [(2, BitVec.intMin 64), (3, -1)] ∘ inMode 1)
     d.standsAt 0 { op := .rrDiv, n := 2, gd := 1, ga := 2, gb := 3 } ∧ (d.core 0).g 3 ≠ 0 ∧ (d.core 0).csw.bovt = false) ∧
    (devAt (wRR 11 5 1 2 3) (inMode 1)).standsAt 0 { op := .rrDiv, n := 2, gd := 1, ga := 2, gb := 3 } ∧
    ((devAt (wRR 11 5 1 2 3) (inMode 1)).core 0).g 3 = 0 ∧
    (let d := devAt (wRR 11 0 31 2 3) (withG [(2, BitVec.intMax 64), (3, 1)] ∘ inMode 1 ∘ cswBy (fun w => { w with bovt := true }))
     d.standsAt 0 { op := .rrAdd, n := 2, gd := 31, ga := 2, gb := 3 } ∧ (d.core 0).csw.bovt = true ∧
       BitVec.saddOverflow ((d.core 0).g 2) ((d.core 0).g 3) = true) :=
  ⟨⟨stands (by decide +kernel), by decide +kernel⟩, stands (by decide +kernel), by decide +kernel, stands (by decide +kernel), by decide +kernel⟩

theorem witness_ImmediateResult :
    (let d := devAt (wRI 2 1 2 0x7FFFFF) (withG [(2, 5)] ∘ inMode 1)
     d.standsAt 0 { op := .addi, n := 3, gd := 1, ga := 2, imm := 0x7FFFFF } ∧ (d.core 0).csw.bovt = false) ∧
    (devAt (wRI 1 31 0 0x7FFFFF) (inMode 1)).standsAt 0 { op := .ldhi, n := 3, gd := 31, ga := 0, imm := 0x7FFFFF } :=
  ⟨⟨stands (by decide +kernel), by decide +kernel⟩, stands (by decide +kernel)⟩

theorem witness_AccumulatorResult :
    (let d := devAt (wA 1 5 3) (withG [(4, BitVec.intMin 64)] ∘ cswBy (fun w => { w with bovt := true }))
     d.standsAt 0 { op := .div, n := 2, s1 := immOf 3 } ∧
       ∃ v z, (accSrc 0 (immOf 3) 8 true).run (d.begun 0) = .ok v z ∧
         decide (v ≠ 0 ∧ BitVec.sdivOverflow ((d.core 0).g 4) v = false) = true) ∧
    (let d := { devAt (wN 1 17 0x7FF) with mem := [(workBase 0 + 0x7FF, 0xFF)] }
     d.standsAt 0 { op := .ldb, n := 2, s1 := .near 0x7FF } ∧ ∃ v z, (accSrc 0 (.near 0x7FF) 1 false).run (d.begun 0) = .ok v z ∧ (v == 0xFF) = true) ∧
    (let d := devAt [8] (withG [(4, BitVec.intMax 64)] ∘ cswBy (fun w => { w with bovt := true }))
     d.standsAt 0 { op := .neg } ∧ (d.core 0).g 4 ≠ BitVec.intMin 64) :=
  ⟨⟨stands (by decide +kernel), got_some (by decide +kernel)⟩, ⟨stands (by decide +kernel), got_some (by decide +kernel)⟩,
    stands (by decide +kernel), by decide +kernel⟩

theorem witness_AddressAndIndex :
    (devAt (wN 1 19 0x7FF)).standsAt 0 { op := .lda, n := 2, s1 := .near 0x7FF } ∧
    (let d := devAt (wA 2 10 8) (withG [(7, 0xFFFF_FFFF)])
     d.standsAt 0 { op := .adsp, n := 2, s1 := immOf 8 } ∧ ∃ v z, (srcBin 0 (immOf 8) 8).run (d.begun 0) = .ok v z ∧ (v == 8) = true) :=
  ⟨stands (by decide +kernel), stands (by decide +kernel), got_some (by decide +kernel)⟩

theorem witness_LoadDelay :
    (let d := devAt (wA 2 0 1)
     d.standsAt 0 { op := .ldx1, n := 2, s1 := immOf 1 } ∧ ∃ v z, (srcBin 0 (immOf 1) 8).run (d.begun 0) = .ok v z ∧ (v == 1) = true) ∧
    (let d := { devAt (wRM 5 8 9 0x1FF) (inMode 1 ∘ withG [(9, 0x1_0001)]) with mem := [(frondBase 0, 0x80)] }
     let i : Dec := { op := .ld32s, n := 2, gd := 8, gb := 9, imm := 0x1FF }
     d.standsAt 0 i ∧ ∃ v z, (loadAll 0 (rmAddr (d.core 0) i) 4 false).run (d.begun 0) = .ok v z ∧ (v == [0x80, 0, 0, 0]) = true) :=
  ⟨⟨stands (by decide +kernel), got_some (by decide +kernel)⟩, stands (by decide +kernel), got_some (by decide +kernel)⟩

theorem witness_StoreCompletes :
    (let d := devAt (wN 1 1 0x7F8) (withG [(4, 7)])
     d.standsAt 0 { op := .st, n := 2, s1 := .near 0x7F8 } ∧
       ∃ z, (store 0 (eaOf (d.core 0) (.near 0x7F8) 8) (toBytes 8 ((d.core 0).g 4).toNat)).run ((d.begun 0).ticked 0 1) = .ok () z) ∧
    (let d := devAt (wRM 11 8 9 0) (inMode 1 ∘ withG [(9, 0x1_0000)])
     let i : Dec := { op := .st64, n := 2, gd := 8, gb := 9 }
     d.standsAt 0 i ∧ ∃ z, (store 0 (rmAddr (d.core 0) i) (toBytes 8 ((d.core 0).g 8).toNat)).run ((d.begun 0).ticked 0 1) = .ok () z) :=
  ⟨⟨stands (by decide +kernel), got_unit (by decide +kernel)⟩, stands (by decide +kernel), got_unit (by decide +kernel)⟩

theorem witness_StoredPart :
    (∃ z, (writePart 0 ⟨0, 1, false, workBase 0 + 0x3_FFFF, .working 0, 0, some (frondBase 0), false, 0⟩ [1]).run (devAt []) = .ok () z) ∧
    (∃ z, (writePart 0 ⟨0x1_0000, 16, false, frondBase 0, .frond 0, 1, none, true, 0⟩ (zeros 16)).run (devAt []) = .ok () z) ∧
    (∃ z, (writePart 0 ⟨0x1_0000, 16, false, frondBase 0, .frond 0, 1, some (frondBase 0 + 0x1F_FFF0), false, 0⟩ (zeros 16)).run
      (devAt [] (fun x => { x with wbuf := [⟨frondBase 0, [1]⟩, ⟨frondBase 0, [2]⟩, ⟨frondBase 0, [3]⟩, ⟨frondBase 0, [4]⟩] })) = .ok () z) :=
  ⟨got_unit (by decide +kernel), got_unit (by decide +kernel), got_unit (by decide +kernel)⟩

theorem witness_ControlRegisters :
    (let d := devAt (wN 3 0 0 |>.set 0 (3 * 512 + 3))
     d.standsAt 0 { op := .mfcr, n := 2, cr := 3 } ∧ (d.core 0).csw.priv = true ∧
       ∃ z, (store 0 (eaOf (d.core 0) (.near 0) 8) (toBytes 8 (readCr (d.core 0) 0 3))).run ((d.begun 0).ticked 0 1) = .ok () z) ∧
    (devAt [3 * 128, 6 * 512 + 15] (inMode 2)).standsAt 0 { op := .mfcr, n := 2, cr := 15 } ∧
    (let d := devAt [3 * 512 + 16 + 7, 6 * 2048 + 31] (cswBy (fun w => { w with priv := false }))
     d.standsAt 0 { op := .mtcr, n := 2, cr := 7, s1 := immOf 31 } ∧
       ∃ v z, (srcBin 0 (immOf 31) 8).run (d.begun 0) = .ok v z ∧ crOk 7 v.toNat = true) ∧
    (let d := devAt [3 * 128 + 4, 6 * 512 + 2] (inMode 2 ∘ withG [(4, 7)])
     d.standsAt 0 { op := .mtcr, n := 2, cr := 2 } ∧ crOk 2 ((d.core 0).g 4).toNat = true) :=
  ⟨⟨stands (by decide +kernel), by decide +kernel, got_unit (by decide +kernel)⟩, stands (by decide +kernel),
    ⟨stands (by decide +kernel), got_some (by decide +kernel)⟩, stands (by decide +kernel), by decide +kernel⟩

theorem witness_ControlRegisters_traps :
    (∀ cr ∈ [3, 4], (let d := devAt [3 * 512 + cr, 0] (cswBy (fun w => { w with priv := false }))
      isAt d 0 { op := .mfcr, n := 2, cr := cr } = true ∧ (d.core 0).csw.priv = false)) ∧
    (∀ cr ∈ [3, 4, 6], isAt (devAt [3 * 512 + 16 + cr, 0] (cswBy (fun w => { w with priv := false }))) 0 { op := .mtcr, n := 2, cr := cr } = true) ∧
    (∀ cr ∈ [5, 8], isAt (devAt [3 * 512 + 16 + cr, 0]) 0 { op := .mtcr, n := 2, cr := cr } = true) ∧
    (let d := devAt [3 * 512 + 16 + 7, 6 * 2048 + 32]
     d.standsAt 0 { op := .mtcr, n := 2, cr := 7, s1 := immOf 32 } ∧ ∃ v z, (srcBin 0 (immOf 32) 8).run (d.begun 0) = .ok v z ∧ (!crOk 7 v.toNat) = true) :=
  ⟨by decide +kernel, by decide +kernel, by decide +kernel, stands (by decide +kernel), got_some (by decide +kernel)⟩

theorem witness_BankAccess :
    (let d := devAt (wN 3 11 0) (fun x => { x with bwin := ⟨true, 49, 8⟩ })
     d.standsAt 0 { op := .mfb, n := 2 } ∧ (d.core 0).bwin.reg.toNat < 50 ∧
       ∃ z, (store 0 (eaOf (d.core 0) (.near 0) 8) (toBytes 8 (if (d.core 0).resident 8 then (((d.core 0).bank 8).readIdx 8 49).toNat else 0))).run
         ((d.begun 0).ticked 0 2) = .ok () z) ∧
    (let d := devAt (wA 3 12 5) (fun x => { x with bwin := ⟨false, 47, 8⟩ })
     d.standsAt 0 { op := .mtb, n := 2, s1 := immOf 5 } ∧ (d.core 0).resident 8 = true ∧
       ∃ v z, (srcBin 0 (immOf 5) 8).run (d.begun 0) = .ok v z ∧ bankValueOk 47 v.toNat = true) ∧
    bankValueOk 40 (2 ^ 40 - 1) = true ∧ bankValueOk 43 0x87 = true ∧ bankValueOk 35 7 = true :=
  ⟨⟨stands (by decide +kernel), by decide +kernel, got_unit (by decide +kernel)⟩,
    ⟨stands (by decide +kernel), by decide +kernel, got_some (by decide +kernel)⟩, by decide⟩

theorem witness_ProgramWords :
    (let d := { devAt (wN 3 10 0) with mem := [(workBase 0 + 7, 1)] }
     d.standsAt 0 { op := .ldpw, n := 2 } ∧
       got ((checkParts 0 .rw (vparts (eaOf (d.core 0) (.near 0) 8) 8)).run (d.begun 0)) (fun ps y =>
         got ((readAll 0 ps).run (y.ticked 0 (ps.map (fun p => chunks p.va p.n * (1 + if p.far then 8 else 0))).sum)) (fun bs y' =>
           beAt bs 6 2 == 1 &&
           decide (y'.checkPart ⟨0, .core, (d.core 0).csw.key.toNat, true⟩ true (.prog 0) ((Tier.prog 0).base + 2 * beAt bs 6 2) .read = (y', none)) &&
           got ((writeAll 0 ps (toBytes 8 ((d.pword 0 (beAt bs 6 2)).toNat * 65536 + beAt bs 6 2))).run
             ((y'.markKey ((Tier.prog 0).base + 2 * beAt bs 6 2) .read).ticked 0 3)) (fun _ _ => true))) = true) ∧
    (let d := devAt (wA 3 9 0x3FF)
     d.standsAt 0 { op := .stpw, n := 2, s1 := .imm 0x3FF false 0xFF } ∧
       got ((srcBin 0 (.imm 0x3FF false 0xFF) 8).run (d.begun 0)) (fun v z => decide (v.toNat < 2 ^ 30) &&
         decide (z.checkPart ⟨0, .core, (d.core 0).csw.key.toNat, true⟩ true (.prog 0) ((Tier.prog 0).base + 2 * (v.toNat % 65536)) .exec = (z, none))) = true) :=
  ⟨⟨stands (by decide +kernel), by decide +kernel⟩, stands (by decide +kernel), by decide +kernel⟩

theorem witness_BranchResult :
    (devAt [9 * 512 + 7 * 64 + 5 * 2 + 1, 0x3FFF] (inMode 1)).standsAt 0 { op := .bcmp, n := 2, cond := 7, ga := 5, r := true, tgt := 65535 } ∧
    (devAt [10 * 512 + 2 * 128 + 2 * 16, 4 * 512 + 3, 0x3FFF] (inMode 1)).standsAt 0 { op := .bcmpl, n := 3, cond := 2, ga := 4, tgt := 65535 } ∧
    (devAt [10 * 512, 0, 9]).standsAt 0 { op := .jmp, n := 3, tgt := 9 } ∧
    (let d := devAt (wA 3 5 9)
     d.standsAt 0 { op := .jmpr, n := 2, s1 := immOf 9 } ∧ ∃ v z, (srcBin 0 (immOf 9) 8).run (d.begun 0) = .ok v z ∧ (v == 9) = true) :=
  ⟨stands (by decide +kernel), stands (by decide +kernel), stands (by decide +kernel), stands (by decide +kernel), got_some (by decide +kernel)⟩

theorem witness_CallReturn :
    (let d := devAt [10 * 512 + 128, 3, 0x3FFF] (withG [(7, 8)])
     d.standsAt 0 { op := .call, n := 3, tgt := 65535 } ∧ ∃ z, (store 0 0 (toBytes 8 3)).run ((d.begun 0).ticked 0 3) = .ok () z) ∧
    (let d := devAt (wA 3 6 9) (withG [(7, 0x1_0008)])
     d.standsAt 0 { op := .callr, n := 2, s1 := immOf 9 } ∧ got ((srcBin 0 (immOf 9) 8).run (d.begun 0)) (fun _ y =>
       got ((store 0 0x1_0000 (toBytes 8 2)).run (y.ticked 0 2)) (fun _ _ => true)) = true) ∧
    (let d := { devAt [3] with mem := [(workBase 0 + 6, 0xFF), (workBase 0 + 7, 0xFF)] }
     d.standsAt 0 { op := .ret } ∧ ∃ bs z, (load 0 ((d.core 0).idx 7) 8).run (d.begun 0) = .ok bs z ∧ (ofBytes bs == 65535) = true) :=
  ⟨⟨stands (by decide +kernel), got_unit (by decide +kernel)⟩, ⟨stands (by decide +kernel), by decide +kernel⟩,
    stands (by decide +kernel), got_some (by decide +kernel)⟩

theorem witness_CallReturn_stack :
    (devAt [10 * 128 + 32, 15, 0xFFF] (inMode 2 ∘ bankBy (fun b => { b with rsD := 8 }))).standsAt 0 { op := .call, n := 3, tgt := 65535 } ∧
    (let d := devAt [3 * 128 + 6 * 4, 6 * 512 + 9] (inMode 2)
     d.standsAt 0 { op := .callr, n := 2, s1 := immOf 9, cr := 8 } ∧ ∃ v z, (srcBin 0 (immOf 9) 8).run (d.begun 0) = .ok v z ∧ (v == 9) = true) ∧
    (devAt [3] (inMode 2)).standsAt 0 { op := .ret } ∧
    (let f : Core → Core := inMode 2 ∘ cswBy (fun w => { w with rstrap := true })
     (devAt [10 * 128 + 32, 15, 0xFFF] (f ∘ bankBy (fun b => { b with rsD := 8 }))).standsAt 0 { op := .call, n := 3, tgt := 65535 } ∧
       (devAt [3] f).standsAt 0 { op := .ret } ∧ ((devAt [3] f).core 0).cb.csw.rstrap = true ∧ ((devAt [3] f).core 0).cb.rsD = 0) :=
  ⟨stands (by decide +kernel), ⟨stands (by decide +kernel), got_some (by decide +kernel)⟩, stands (by decide +kernel),
    stands (by decide +kernel), stands (by decide +kernel), by decide +kernel⟩

theorem witness_TrapEntry : ((31 : Nat) ≠ 15 ∧ (31 : Nat) ≠ 16 ∧ (31 : Nat) ≠ 18 ∧ (31 : Nat) < 32 ∧ (7 : Nat) < 8 ∧ (255 : Nat) < 256 ∧ (65535 : Nat) < 65536) ∧
    ((devAt []).core 0).cur ≠ 8 ∧ ((devAt [] (fun x => { x with cur := 8 })).core 0).cur = 8 := by decide +kernel

theorem witness_RettResult :
    (devAt [4]).standsAt 0 { op := .rett } ∧ ((devAt [4]).core 0).mck = false ∧ ((devAt [4]).core 0).cb.tcsw.resume = false ∧
    (devAt [4] (fun x => { x with mck := true, cur := 8 })).standsAt 0 { op := .rett } ∧ ((devAt [4] (fun x => { x with mck := true, cur := 8 })).core 0).mck = true ∧
    (let f := { Flight.start 12 with doneN := 65535, len := 65535 }
     opidOf .dsubm = some f.opid.toNat ∧ f.doneN.toNat ≤ f.len.toNat) :=
  ⟨stands (by decide +kernel), by decide +kernel, by decide +kernel, stands (by decide +kernel), by decide +kernel, by decide +kernel⟩

theorem witness_SyncFenceWait :
    (let d := devAt [1] (fun x => { x with pendCtag := some 0 })
     d.standsAt 0 { op := .sync } ∧ (d.core 0).brImage = [] ∧ ((d.core 0).brAt 1).tag = 0) ∧
    (let d := devAt [2] (fun x => { x with wbuf := [⟨frondBase 0 + 0x1F_FFF0, zeros 16⟩] })
     d.standsAt 0 { op := .fence } ∧ ∀ e ∈ (d.core 0).wbuf, e.addr + e.bytes.length ≤ 0x70_0000_0000) ∧
    (let d := devAt [6] (cswBy (fun w => { w with imask := 14 }))
     d.standsAt 0 { op := .wait } ∧ (d.core 0).csw.imask ≠ 15) ∧
    (devAt [6]).standsAt 0 { op := .wait } ∧ ((devAt [6]).core 0).csw.imask = 15 ∧ (devAt [0]).standsAt 0 {op := .nop} ∧
    (devAt [7]).standsAt 0 { op := .invall } ∧ (devAt (wN 3 7 0x7FF)).standsAt 0 { op := .inva, n := 2, s1 := .near 0x7FF } ∧
    (let d := devAt (wA 3 8 0xFF)
     d.standsAt 0 { op := .invt, n := 2, s1 := immOf 0xFF } ∧ ∃ v z, (srcBin 0 (immOf 0xFF) 8).run (d.begun 0) = .ok v z ∧ decide (v.toNat < 256) = true) :=
  ⟨⟨stands (by decide +kernel), by decide +kernel⟩, ⟨stands (by decide +kernel), by decide +kernel⟩, ⟨stands (by decide +kernel), by decide +kernel⟩,
    stands (by decide +kernel), by decide +kernel, stands (by decide +kernel), stands (by decide +kernel), stands (by decide +kernel),
    stands (by decide +kernel), got_some (by decide +kernel)⟩

/-- An item of queue 0 with no payload in a ring. -/
def item0 : Item := { q := 0, src := .post none, tin := 0, itag := 0, plen := 1, exq := false, head := [], ring := 0, roff := none }

/-- That item, run by core 0. -/
def itemRun : Item := { item0 with phase := .running, core := some 0 }

theorem witness_ItemInstructions :
    (let d := devAt [5]
     d.standsAt 0 { op := .getw } ∧ (d.core 0).cur ≠ 8 ∧ d.openItem 0 = none ∧ (d.core 0).returning = false) ∧
    (devAt [5] (fun x => { x with cur := 8 })).standsAt 0 { op := .getw } ∧
    (let d : Dev := { devAt [5] (fun x => { x with item := some 0 }) with items := [(0, itemRun)] }
     d.standsAt 0 { op := .getw } ∧ (d.openItem 0).isSome = true) ∧
    (let d := { devAt (wA 3 2 0) (fun x => { x with item := some 0, budget := 7 }) with items := [(0, itemRun)] }
     d.standsAt 0 { op := .doneI, n := 2, s1 := immOf 0 } ∧ d.openItem 0 = some (0, itemRun) ∧ (d.core 0).onGrace = false ∧
       ∃ v z, (srcBin 0 (immOf 0) 8).run (d.begun 0) = .ok v z ∧ (doneOk itemRun v && decide ((z.core 0).spent + 5 ≤ (d.core 0).budget.toNat)) = true) ∧
    (let d := devAt (wA 3 2 0) (fun x => { x with item := some 0, budget := 7 })
     d.standsAt 0 { op := .doneI, n := 2, s1 := immOf 0 } ∧ (d.core 0).item = some 0 ∧ d.openItem 0 = none ∧
       ∃ v z, (srcBin 0 (immOf 0) 8).run (d.begun 0) = .ok v z ∧ (v == 0) = true) ∧
    (let d := { devAt (wA 3 4 0xFF) with db := [(255, [(0, 1), (0, 2), (0, 3), (0, 4)])] }
     d.standsAt 0 { op := .doorb, n := 2, s1 := immOf 0xFF } ∧ ∃ v z, (srcBin 0 (immOf 0xFF) 8).run (d.begun 0) = .ok v z ∧ (fld v 0 8 == 255) = true) :=
  ⟨⟨stands (by decide +kernel), by decide +kernel⟩, stands (by decide +kernel), ⟨stands (by decide +kernel), by decide +kernel⟩,
    ⟨stands (by decide +kernel), by decide +kernel, by decide +kernel, got_some (by decide +kernel)⟩,
    ⟨stands (by decide +kernel), by decide +kernel, by decide +kernel, got_some (by decide +kernel)⟩,
    stands (by decide +kernel), got_some (by decide +kernel)⟩

theorem witness_ItemInstructions_post :
    let d := { devAt (wN 3 3 0) (bankBy (fun b => { b with res := true })) with mem := [(workBase 0 + 6, 0x10)] }
    let x := d.core 0
    d.standsAt 0 { op := .post, n := 2 } ∧ x.cur ≠ 8 ∧ x.cb.res = true ∧
      got ((srcBin 0 (.near 0) 8).run (d.begun 0)) (fun v z =>
        fld v 0 11 == 0 && fld v 12 14 == 1 && decide (16 * fld v 26 12 + fld v 12 14 ≤ stageSize (d.frameOf x)) &&
        (match (drainAll 0 ((z.ticked 0 7).modCore 0 (fun k => k.applyStep (stepOf x (.near 0) 8)))).fabRead (stageReq (thallusOf 0))
            (frondBase (frondOf 0) + stageOff (d.frameOf x) + 16 * fld v 26 12) (fld v 12 14) with
          | (y, .ok bs) => ringRoom (y.ringHeld (thallusOf 0)) bs.length == some 0 && decide
              ((({ y with nextItem := y.nextItem + 1, qArr := SMap.put y.qArr (fld v 51 13) (SMap.get 0 y.qArr (fld v 51 13) + 1) } : Dev).fabWrite
                (ringReq (thallusOf 0)) ((Tier.thallus (thallusOf 0)).base + 0) bs).2 = none)
          | _ => false)) = true :=
  ⟨stands (by decide +kernel), by decide +kernel, by decide +kernel, by decide +kernel⟩

theorem witness_FloatResult :
    (let d := devAt (wRR 12 0x13 1 2 3) (inMode 1)
     d.standsAt 0 { op := .fdivD, n := 2, gd := 1, ga := 2, gb := 3 } ∧
       (fop2 fmtD fdiv (d.core 0).cb.fcsw.frm.toNat ((d.core 0).cb.fcsw.en.getLsbD 1) ((d.core 0).g 2) ((d.core 0).g 3)).2 &&&
         (d.core 0).cb.fcsw.en.toNat = 0) ∧
    (let d := devAt (wRR 12 0x13 1 2 3) (inMode 1 ∘ bankBy (fun b => { b with fcsw := ⟨0, 31, 0⟩ }))
     d.standsAt 0 { op := .fdivD, n := 2, gd := 1, ga := 2, gb := 3 } ∧
       (fop2 fmtD fdiv (d.core 0).cb.fcsw.frm.toNat ((d.core 0).cb.fcsw.en.getLsbD 1) ((d.core 0).g 2) ((d.core 0).g 3)).2 &&&
         (d.core 0).cb.fcsw.en.toNat ≠ 0) ∧
    isNan (fdec fmtD 0x7FF8_0000_0000_0000) = true ∧ isNan (fdec fmtD 0) = false :=
  ⟨⟨stands (by decide +kernel), by decide +kernel⟩, ⟨stands (by decide +kernel), by decide +kernel⟩, by decide +kernel⟩

/-- A decimal result fits, saturates or wraps. -/
def fits (r : Except Stop (SDec × Nat)) : Bool := match r with
  | .ok _ => true
  | .error _ => false

theorem witness_DecimalRounding : 0 < 1 ∧ 2 * (5 % 2) ≠ 3 ∧ 2 * (5 % 2) = 2 ∧ (1 ≤ 1 ∧ (⟨true, 9⟩ : SDec).mag < 10 ^ (2 * 1 - 1) ∧ (⟨true, 9⟩ : SDec).mag < 10 ^ 1) := by
  decide

theorem witness_DaccResult :
    (let d := devAt (wD 0 (6 * 2048 + 0x412) 2 3 0)
     d.standsAt 0 { op := .dld, n := 3, s1 := .imm 0xFFFF_FFFF_FFFF_FC12 true 0x12, len := 2, scale := 3 } ∧
       ∃ bs z, (srcDec 0 (.imm 0xFFFF_FFFF_FFFF_FC12 true 0x12) 2).run (d.begun 0) = .ok bs z ∧ (unpack bs == some ⟨true, 12⟩) = true) ∧
    (let d := devAt (wD 3 0 1 1 5) (withG [(3, 0x5C)])
     d.standsAt 0 { op := .dsub, n := 3, len := 1, scale := 1, rnd := 5, tgt := 65520 } ∧ unpack (d.core 0).dacc = some ⟨false, 5⟩) ∧
    (let d := { devAt (wD 2 0 1 0 8) (withG [(0, 0x9999_9999_9999_9999), (1, 0x9999_9999_9999_9999), (2, 0x9999_9999_9999_9999), (3, 0x9999_9999_9999_999C)])
                with mem := [(workBase 0, 0x1C)] }
     let x := d.core 0
     d.standsAt 0 { op := .dadd, n := 3, len := 1, rnd := 8, tgt := 65504 } ∧ x.csw.sat = false ∧ x.csw.dovt = true ∧
       ∃ bs z, (srcDec 0 (.near 0) 1).run (d.begun 0) = .ok bs z ∧ (unpack bs == some ⟨false, 1⟩ && decide (unpack x.dacc = some ⟨false, 10 ^ 63 - 1⟩)) = true) ∧
    (let d := devAt (wD 7 0 1 31 1) (withG [(3, 0xC)])
     d.standsAt 0 { op := .dscl, n := 3, len := 1, scale := 31, rnd := 1, cond := 1, tgt := 65520 } ∧ unpack (d.core 0).dacc = some ⟨false, 0⟩ ∧
       fits (fitDec (d.core 0).csw.sat (d.core 0).csw.dovt (rescale 0 ⟨false, 0⟩ 0 31).1 63 63 (decide ((rescale 0 ⟨false, 0⟩ 0 31).1.mag ≥ 10 ^ 63)))
         = true) :=
  ⟨⟨stands (by decide +kernel), got_some (by decide +kernel)⟩, ⟨stands (by decide +kernel), by decide +kernel⟩,
    ⟨stands (by decide +kernel), by decide +kernel, by decide +kernel, got_some (by decide +kernel)⟩, stands (by decide +kernel), by decide +kernel⟩

theorem witness_DecimalMoves :
    (let d := devAt (wD 1 0x7FF 1 0 0) (withG [(3, 0x9D)])
     d.standsAt 0 { op := .dst, n := 3, s1 := .near 0x7FF, len := 1, tgt := 16 } ∧ unpack (d.core 0).dacc = some ⟨true, 9⟩ ∧
       fits (fitDec false true (rescale 2 ⟨true, 9⟩ 0 0).1 1 1 (decide ((rescale 2 ⟨true, 9⟩ 0 0).1.mag ≥ 10 ^ 1))) = true ∧
       ∃ z, (store 0 0x7FF (pack 1 ⟨true, 9⟩)).run ((d.begun 0).ticked 0 4) = .ok () z) ∧
    (let d := devAt (wD 9 0 10 0 0) (withG [(4, BitVec.intMin 64)])
     d.standsAt 0 { op := .dcvd, n := 3, len := 10, cond := 2, tgt := 16 } ∧
       fits (fitDec false true (SDec.ofInt ((d.core 0).g 4).toInt) 19 19 (decide (((d.core 0).g 4).toInt.natAbs ≥ 10 ^ 19))) = true ∧
       ∃ z, (store 0 0 (pack 10 (SDec.ofInt ((d.core 0).g 4).toInt))).run ((d.begun 0).ticked 0 19) = .ok () z) ∧
    (let d := { devAt (wD 8 0 10 0 0) with mem := (pack 10 (SDec.ofInt (-(2 ^ 63)))).zipIdx.map (fun (e : Byte × Nat) => (workBase 0 + e.2, e.1)) }
     d.standsAt 0 { op := .dcvb, n := 3, len := 10, cond := 2 } ∧
       ∃ bs z, (srcDec 0 (.near 0) 10).run (d.begun 0) = .ok bs z ∧ (unpack bs == some (SDec.ofInt (-(2 ^ 63)))) = true) ∧
    (let d := { devAt [5 * 512 + 7 * 64 + 63, 0, 0] (withG [(3, 0xC)]) with mem := [(workBase 0, 0x0C)] }
     d.standsAt 0 { op := .dcmpb, n := 3, len := 1, cond := 7, tgt := 65535 } ∧ unpack (d.core 0).dacc = some ⟨false, 0⟩ ∧
       ∃ bs z, (srcDec 0 (.near 0) 1).run (d.begun 0) = .ok bs z ∧ (unpack bs == some ⟨false, 0⟩) = true) :=
  ⟨⟨stands (by decide +kernel), by decide +kernel, by decide +kernel, got_unit (by decide +kernel)⟩,
    ⟨stands (by decide +kernel), by decide +kernel, got_unit (by decide +kernel)⟩, ⟨stands (by decide +kernel), got_some (by decide +kernel)⟩,
    stands (by decide +kernel), by decide +kernel, got_some (by decide +kernel)⟩

theorem witness_TallyConvert :
    (let d := { devAt [4 * 512 + 160, 7 * 2048 + 4, 0, 0] (withG [(3, 0x1C)]) with mem := [(frondBase 0, 0x8C)] }
     d.standsAt 0 { op := .tally, n := 4, s1 := .ext 65536, len := 1, cond := 2, tgt := 65504 } ∧ unpack (d.core 0).dacc = some ⟨false, 1⟩ ∧
       vparts 65536 1 = [(65536, 1, false)] ∧
       got ((xlatPart 0 .rw 65536 1 false).run (d.begun 0)) (fun p y => decide (p.tier = .frond 0) && got ((protPart 0 .rw p).run y) (fun _ z =>
         (z.eccRead p.tier (wordsOf p.pa 1)).2.isNone && unpack ((z.eccRead p.tier (wordsOf p.pa 1)).1.bytes p.pa 1) == some ⟨false, 8⟩)) = true ∧
       fits (fitDec false true (SDec.ofInt 9) 1 1 (decide ((9 : Int).natAbs ≥ 10 ^ 1))) = true) ∧
    (∀ e ∈ ([(.packz, 2, 65504, (unzone, pack, 63), 0x31), (.unpkz, 3, 65520, (unpack, zone, 32), 0x1C)] :
        List (Op × Nat × Nat × ((List Byte → Option SDec) × (Nat → SDec → List Byte) × Nat) × Byte)),
      let d := { devAt (wS 6 e.2.1 0x100 0x200 (31 * 256)) with mem := [(workBase 0 + 0x200, e.2.2.2.2)] }
      isAt d 0 { op := e.1, n := 4, s1 := .near 0x100, s2 := .near 0x200, len := 32, len2 := 1, tgt := e.2.2.1 } = true ∧
        got ((xlatAll 0 .read (vparts 0x200 1)).run (d.begun 0)) (fun sp y1 => got ((xlatAll 0 .write (vparts 0x100 32)).run y1) (fun dp y2 =>
          decide (farChunks sp + farChunks dp ≤ 4) && got ((protRead 0 sp).run y2) (fun bs y3 => match e.2.2.2.1.1 bs with
            | some v => match fitDec false true v e.2.2.2.1.2.2 e.2.2.2.1.2.2 (decide (v.mag ≥ 10 ^ e.2.2.2.1.2.2)) with
              | .ok (q, _) => got ((protWrite 0 dp (e.2.2.2.1.2.1 32 q)).run (y3.ticked 0 5)) (fun _ _ => true)
              | .error _ => false
            | none => false))) = true) :=
  ⟨⟨stands (by decide +kernel), by decide +kernel, by decide +kernel, by decide +kernel, by decide +kernel⟩, by decide +kernel⟩

/-- MVS of 32 bytes from address 0 to 0x100, and core 0 at a trap point of it with n bytes done. -/
def mvsAt (n : Option Nat) (f : Core → Core := id) : Dev :=
  devAt (wS 7 0 0x100 0 31) (fun x => f { x with flight := n.map (fun k =>
    { Flight.start 1 with doneN := BitVec.ofNat 16 k, len := 32, addr1 := 0x100 }) })

/-- The words of `mvsAt`. -/
def mvsDec : Dec := { op := .mvs, n := 4, s1 := .near 0x100, len := 32, len2 := 32 }

theorem witness_TrapPoints :
    ((mvsAt none).standsAt 0 mvsDec ∧ got ((setupMvs 0 mvsDec).run ((mvsAt none).begun 0)) (fun _ z => decide (asyncDue (accountCore 0 z) 0 = none)) = true) ∧
    (∀ n ∈ [0, 16], isAt (mvsAt (some n)) 0 mvsDec = true ∧ ∀ f ∈ ((mvsAt (some n)).core 0).flight, f.fromBF = false ∧
      got ((stepMvs 0 mvsDec f).run ((mvsAt (some n)).goesOn 0)) (fun r z => match r with
        | .more _ => decide (asyncDue (z.counted 0) 0 = none)
        | .fin _ => false) = true) ∧
    (isAt (mvsAt (some 32)) 0 mvsDec = true ∧ ∀ f ∈ ((mvsAt (some 32)).core 0).flight,
      got ((stepMvs 0 mvsDec f).run ((mvsAt (some 32)).goesOn 0)) (fun r _ => match r with
        | .more _ => false
        | .fin r => r.pword == none) = true) ∧
    (let d := mvsAt (some 16) (cswBy (fun w => { w with imask := 0 }) ∘ fun x => { x with ctimer := 1 })
     isAt d 0 mvsDec = true ∧ ∀ f ∈ (d.core 0).flight, got ((stepMvs 0 mvsDec f).run (d.goesOn 0)) (fun r z => match r with
       | .more _ => decide (asyncDue (z.counted 0) 0 = some 17 ∧ (z.core 0).inBF = false)
       | .fin _ => false) = true) :=
  ⟨⟨stands (by decide +kernel), by decide +kernel⟩, by decide +kernel, by decide +kernel, by decide +kernel⟩

theorem witness_StringEnds : ∀ e ∈ [(7, Op.mvs, 0, 0, 0, 1), (7, .trs, 1, 16, 0, 3), (8, .cls, 0, 0, 0, 2), (7, .scn, 2, 32, 0, 4),
      (7, .edit, 3, 48, 0, 5), (7, .edmk, 4, 0, 1, 6)],
    let f := { Flight.start e.2.2.2.2.2 with doneN := 8192, len := 8192 }
    let d := devAt (wS e.1 e.2.2.1 0 0 8191) (fun x => { x with flight := some f })
    isAt d 0 { op := e.2.1, n := 4, len := 8192, len2 := 8192, cond := e.2.2.2.2.1, tgt := if e.2.2.2.1 ≥ 32 then 65472 + e.2.2.2.1 else e.2.2.2.1 } = true ∧
      (d.core 0).flight = some f ∧ f.doneN = f.len := by decide +kernel

/-- A continuation of a long decimal instruction that holds two values. -/
def holding (opid run sc len : Nat) (a b : SDec) : Flight :=
  { Flight.start opid with dphase := dphaseOf run 0 0 sc len, latch := putLatch (putLatch [] 0 (latchOf (pack 32 a))) 4 (latchOf (pack 32 b)) }

/-- Core 0 at a trap point of a Form D or DMM instruction with that continuation. -/
def heldAt (ws : List Nat) (f : Flight) : Dev := devAt ws (fun x => { x with flight := some f })

theorem witness_LongDecimalEnds :
    (let f := holding 8 1 0 16 ⟨false, 10 ^ 63 - 1⟩ ⟨true, 1⟩
     isAt (heldAt (wD 4 0 16 0 0) f) 0 { op := .dmul, n := 3, len := 16, cond := 1 } = true ∧ unpack (latchBytes f.latch 0) = some ⟨false, 10 ^ 63 - 1⟩ ∧
       unpack (latchBytes f.latch 4) = some ⟨true, 1⟩ ∧ 2 * dph f 4 - 1 - 16 * dph f 0 ≤ 16 ∧
       fits (fitDec false true (rescale (dph f 1) (SDec.ofInt (-(10 ^ 63 - 1))) (dph f 2 + dph f 3) (dph f 2)).1 63 63
         (decide ((rescale (dph f 1) (SDec.ofInt (-(10 ^ 63 - 1))) (dph f 2 + dph f 3) (dph f 2)).1.mag ≥ 10 ^ 63))) = true) ∧
    (∀ e ∈ [(Op.ddiv, 5, 9, 16), (.drem, 6, 10, 65504 + 0)],
      let f := holding e.2.2.1 6 0 8 ⟨true, 10 ^ 49 - 1⟩ ⟨false, 1⟩
      isAt (heldAt (wD e.2.1 0 8 0 0) f) 0 { op := e.1, n := 3, len := 8, cond := 1, tgt := if e.2.1 = 5 then 16 else 65504 } = true ∧
        unpack (latchBytes f.latch 0) = some ⟨true, 10 ^ 49 - 1⟩ ∧ unpack (latchBytes f.latch 4) = some ⟨false, 1⟩ ∧
        min 63 (64 - (2 * dph f 4 - 1) + dph f 3) - 8 * dph f 0 < 8 ∧
        (10 ^ 49 - 1) * 10 ^ dph f 3 / 1 < 10 ^ min 63 (64 - (2 * dph f 4 - 1) + dph f 3) ∧
        fits (fitDec false true ⟨true, (roundMag (dph f 1) true ((10 ^ 49 - 1) * 10 ^ dph f 3) 1).1⟩ 63 49
          (decide ((10 ^ 49 - 1) * 10 ^ dph f 3 / 1 ≥ 10 ^ 49) || decide ((roundMag (dph f 1) true ((10 ^ 49 - 1) * 10 ^ dph f 3) 1).1 ≥ 10 ^ 63))) = true) ∧
    (let f := holding 11 3 0 1 ⟨false, 0⟩ ⟨false, 0⟩
     let d := heldAt (wS 6 0 0x100 0x200 0) { f with addr1 := 0x100, latch := [(7, 9)] }
     isAt d 0 { op := .daddm, n := 4, s1 := .near 0x100, s2 := .near 0x200, len := 1, len2 := 1 } = true ∧ dph f 0 = 3 ∧
       fits (fitDec false true ⟨false, 9⟩ 1 1 (decide (9 ≥ 10 ^ 1))) = true ∧ got ((store 0 0x100 (pack 1 ⟨false, 9⟩)).run (d.goesOn 0)) (fun _ _ => true) = true) ∧
    (let f := holding 12 2 0 32 ⟨true, 5⟩ ⟨false, 7⟩
     let d := heldAt (wS 6 1 0x100 0x200 (31 * 256 + 31 * 4)) f
     isAt d 0 { op := .dsubm, n := 4, s1 := .near 0x100, s2 := .near 0x200, len := 32, len2 := 32, tgt := 16 } = true ∧ dph f 0 = 2 ∧
       unpack ((latchBytes f.latch 4).drop 0) = some ⟨false, 7⟩ ∧ unpack ((latchBytes f.latch 0).drop 0) = some ⟨true, 5⟩ ∧ f.fromBF = false ∧
       asyncDue (accountCore 0 ((d.goesOn 0).ticked 0 32)) 0 = none) := by decide +kernel

/-! ### The register pages, swaps -/

/-- A device in RUN with registers set. -/
def devR (l : SMap W32 := []) : Dev := { Dev.reset with mode := .run, regs := l }

/-- The conditions under which RegisterWriteResult speaks of a write of a register. -/
def plainWrite (d : Dev) (m : RegMaster) (page off : Nat) (v : W32) : Bool :=
  d.writable m page off && (match pageOf page with
    | none => false
    | some (r, i) => match regDefAt r.type off with
      | none => false
      | some (rd, idx) => (d.special State.reset.fuse m r.type i page rd idx v).isNone && rd.off != 8 && rd.off != 0x14 &&
          !decide ((r.type, rd.off) ∈ [(PageT.lg, 0x100), (.uaska, 0x100), (.mac, 0x100), (.cairn, 0x130), (.pcie, 0x10C)]))

theorem witness_RegisterWriteResult : plainWrite (devR) .host 2 0x104 0x5A5A = true ∧ plainWrite devR .host 0x3A 0x1D4 all32 = true ∧
    plainWrite devR .host 0x17F 0x100 0 = false ∧ plainWrite devR (.peer 7) 0x3F 0x104 all32 = true := by decide +kernel

theorem witness_RegisterWriteDenied :
    Dev.reset.reaches .host true = false ∧ devR.reaches .debug true = false ∧
    (let d := devR [(rk .gslot 3 (0x100 + 4 * 511), 0)]
     d.reaches .host true = true ∧ grantOf (d.reg (rk .gslot (2047 / 512) (0x100 + 4 * (2047 % 512)))) 0 (d.regReq .host) .write = some (.cls 0)) ∧
    (devR.lets .host 0x7FF .write ∧ pageOf 0x7FF = none) ∧
    (let d := devR [(pdSts, 0x00FF_0107)]
     d.lets .host 0x3FF .write ∧ (pageOf 0x3FF).any (fun e => pageThallus e.1.type e.2 == some 3) = true ∧ d.thOn 3 = false) ∧
    (devR.lets .host 0x3FF .write ∧ (pageOf 0x3FF).any (fun e => (pageThallus e.1.type e.2).all devR.thOn && (regDefAt e.1.type 0xFFC).isNone) = true) ∧
    (devR.lets .host 0 .write ∧ (pageOf 0).any (fun e => (regDefAt e.1.type 0).any (fun x => readOnly e.1.type e.2 x.1 x.2)) = true) ∧
    (let d := devR [(0x28, 2)]
     d.lets .host 2 .write ∧ d.locked .grat 2 0 { off := 0x100, rws := 1 } = false ∧
     (let e := devR [(2 * 4096 + 0x28, 2)]
      e.lets .host 2 .write ∧ (pageOf 2).any (fun p => (regDefAt p.1.type 0x100).any (fun x => !readOnly p.1.type p.2 x.1 x.2 && e.locked p.1.type 2 x.2 x.1)) = true)) ∧
    devR.rbit 0x18 31 = false ∧ (devR [(0x18, 0x8000_0000)]).rbit 0x18 31 = true := by
  refine ⟨by decide, by decide, by decide, ⟨⟨by decide, .inr (by decide)⟩, by decide⟩, ⟨⟨by decide, .inr (by decide)⟩, by decide, by decide⟩,
    ⟨⟨by decide, .inr (by decide)⟩, by decide⟩, ⟨⟨by decide, .inr (by decide)⟩, by decide⟩, ⟨⟨by decide, .inr (by decide)⟩, by decide,
    ⟨by decide, .inr (by decide)⟩, by decide⟩, by decide, by decide⟩

theorem witness_LockAndTimeout :
    devR.writable .host 0x35 0x28 = true ∧ devR.writable .host 0 0x28 = true ∧
    (devR.lets .host 0x3FF .read ∧ (pageOf 0x3FF).any (fun e => (pageThallus e.1.type e.2).all devR.thOn) = true ∧ devR.mode ≠ .datum) ∧
    (devR.writable .host 2 0x104 = true ∧ (pageOf 2).isSome = true ∧ (devR.busWrite State.reset.fuse .host 2 0x104 0xF 0x5A5A).1.mode ≠ .datum) :=
  ⟨by decide, by decide, ⟨⟨by decide, .inr (by decide)⟩, by decide, by decide⟩, by decide +kernel⟩

theorem witness_CaptureHolds :
    (548 < (if false then 2048 else 549)) ∧ devR.rbit (rk .gate 548 0x210 + 0x10) 31 = false ∧
    (devR [(rk .gate 548 0x220, 0x8000_0000)]).rbit (rk .gate 548 0x210 + 0x10) 31 = true ∧
    ((0x400 ≤ 0x624 ∧ 0x624 < 0x625) ∧ devR.writable .host 0x624 0x220 = true) ∧ (0x18 ≤ 0x1B ∧ 0x1B < 0x1C ∧ devR.writable .host 0x1B 0x910 = true) ∧
    bit (0x8000_0000 : W32) 31 = true := by decide

theorem witness_PageInterrupts :
    (let d := devR [(2 * 4096 + 0x14, 0x8000_0000)]
     (2 ^ 31 < 2 ^ 32) ∧ (2 ^ 31).testBit 31 = true ∧ d.rbit (2 * 4096 + 0x10) 31 = false ∧ d.rbit (2 * 4096 + 0x14) 31 = true ∧ devR.rbit (2 * 4096 + 0x14) 31 = false) ∧
    (let d := devR [(2 * 4096 + 0x10, 1)]
     d.writable .host 2 0x14 = true ∧ bit (1 : W32) 0 = true ∧ d.rbit (2 * 4096 + 0x14) 0 = false ∧ d.rbit (2 * 4096 + 0x10) 0 = true) ∧
    devR.writable .host 2 0x14 = true ∧ devR.rbit (2 * 4096 + 0x10) 0 = false := by decide

theorem witness_SwapControl :
    devR.writable .host 0 0x108 = true ∧ devR.armed = false ∧ devR.swapAt < devR.mer + 64 ∧ (devR [(0x100, 64)]).mer + 64 ≤ (devR [(0x100, 64)]).swapAt ∧
    (devR [(swapSts, 0x8000_0000)]).armed = true ∧ (devR [(swapSts, 0x8000_0000)]).writable .host 0 0x108 = true ∧
    devR.writable .host 0x3F 8 = true ∧ (devR [(0x100, 64)]).writable .host 0 0x108 = true := by decide

theorem witness_SwapRefusals :
    (let d := devR [(swapSts, 0x8000_0000)]
     d.armed = true ∧ d.writable .host 0 0x100 = true ∧ d.writable .host 0 0x104 = true ∧ d.writable .host 0 0x108 = true ∧ d.writable .host 0x624 8 = true) ∧
    (bit (3 : W32) 0 = true ∧ bit (3 : W32) 1 = true) ∧ (bit (5 : W32) 0 = true ∧ bit (5 : W32) 2 = true) ∧
    (bit (6 : W32) 1 = true ∧ bit (6 : W32) 2 = true) := by decide

/-- A contract of queue 8191 that passes its checks. -/
def contract : SMap W32 :=
  [(ctKey 8191 0, 0x8001_0000), (ctKey 8191 4, 1_000_000), (ctKey 8191 8, 100), (ctKey 8191 0x10, 1), (ctKey 8191 0x18, 0x0040_0040)]

theorem witness_SwapCycle :
    (devR.swapDue = [] ∧ devR.armed = false) ∧
    (∀ m ∈ [Mode.safe, .run], (let d : Dev := { devR with mode := m, swapDue := [5], mer := 5 }
      d.swapDue.head? = some 5 ∧ (∀ x ∈ (none : Option Nat), 5 ≤ x) ∧ d.armed = false ∧ d.mer = 5 ∧ d.mode = m)) ∧
    (let d : Dev := { devR [(swapSts, 0x8000_0000)] with armDue := some 7 }
     d.armed = true ∧ d.armDue.getD d.swapAt = 7 ∧ d.swapDue = [] ∧ d.mer < 7) ∧
    devR.ctEn 8191 = false ∧ ((devR [(ctKey 8191 0, 0x8001_0000)]).ctEn 8191 = true ∧ (devR [(ctKey 8191 0, 0x8001_0000)]).contractOk 8191 = false) ∧ ((devR contract).ctEn 8191 = true ∧ (devR contract).contractOk 8191 = true) ∧
    (devR [(chKey 63 0x1C, 1)]).chState 63 ≠ 0 ∧ devR.digestDue = false := by
  refine ⟨by decide, ?_, by decide, by decide, by decide, by decide, by decide, by decide⟩
  intro m hm
  rcases List.mem_cons.1 hm with rfl | h
  · exact ⟨rfl, (by intro x hx; cases hx), by decide, rfl, rfl⟩
  · rcases List.mem_cons.1 h with rfl | h
    · exact ⟨rfl, (by intro x hx; cases hx), by decide, rfl, rfl⟩
    · cases h

/-! ### Engines, power, stores -/

/-- A descriptor of 1 byte from the start of thallus 0's store to the next byte. -/
def run0 : DmaRun := { addr := 0x40_0000_0000, src := 0x40_0000_0000, dst := 0x40_0000_0001, len := 1, key := 0, priv := true, irq := false, note := none
                       next := none, moved := 0, status := none }

/-- Channel 1,007 enabled in host mode, or in ring mode (`mode` 1) with indices of frond 0's ring. -/
def chan (mode : Nat) : SMap W32 := [(dcKey 1007 0, BitVec.ofNat 32 (0x8000_0000 + mode * 2 ^ 30)), (dcKey 1007 0xC, 0x8000_0000)]

theorem witness_DmaControl :
    (let w := PageT.first .dmaCh + 1007 / 64
     let o := 0x100 + 32 * (1007 % 64)
     (devR (chan 0)).writable .host w o = true ∧ (devR (chan 0)).rf (dcKey 1007 0) 0 2 = 0 ∧ SMap.find? (devR (chan 0)).dma 1007 = none ∧
       (devR (chan 0)).dcRing 1007 = false ∧ (devR (chan 0)).dcEn 1007 = true ∧ devR.writable .host w o = true ∧ devR.dcEn 1007 = false ∧
       devR.rf (dcKey 1007 0) 0 2 = 0 ∧ devR.dcRing 1007 = false ∧ (SMap.find? ({ devR with dma := [(1007, run0)] } : Dev).dma 1007).isSome = true) ∧
    (match devR.dmaRead (devR.dcCeil 1007) 0x40_0000_0000 32 with
      | (_, .ok bs) => bs.length == 32
      | _ => false) = true ∧
    (match devR.dmaRead (devR.dcCeil 1007) 0x8_0000_0000 32 with
      | (_, .error c) => c == 2
      | _ => false) = true ∧
    run0.moved < run0.len ∧
    (match devR.dmaRead (dcReq 1007 0 true) (run0.src + run0.block.1) run0.block.2 with
      | (d1, .ok bs) => (d1.dmaWrite (dcReq 1007 0 true) (run0.dst + run0.block.1) bs).2.isNone
      | _ => false) = true := by decide +kernel

theorem witness_DmaSteps :
    (∀ c ∈ [0, 8], (SMap.find? ({ devR with dma := [(1007, { run0 with status := some c })] } : Dev).dma 1007).any (fun r => r.status == some c) = true) ∧
    (∀ p ∈ [((0 : Byte), (0 : Byte), 0), (1, 0, 1), (0, 255, 257)],
      let d : Dev := { devR (chan 1) with mem := (if p.1 = 0 then [] else [(frondBase 0 + 7, p.1)]) ++ (if p.2.1 = 0 then [] else [(frondBase 0 + 14, 0xFE), (frondBase 0 + 15, p.2.1)]) }
      d.thOn 3 = true ∧ d.dcEn 1007 = true ∧ d.dcRing 1007 = true ∧ d.rf (dcKey 1007 0x10) 30 2 ≠ 3 ∧ SMap.find? d.dma 1007 = none ∧
        (match d.ringIdx 1007 0 with
          | (d1, .ok n) => match d1.ringIdx 1007 8 with
            | (d2, .ok k) => (n + 65536 - k) % 65536 == p.2.2 && d2.dcSlots 1007 == 16
            | _ => false
          | _ => false) = true) ∧
    (SMap.find? ({ devR with dma := [(1007, run0)] } : Dev).dma 1007).any (fun r => r.status == none) = true ∧ devR.heldDom 3 = none ∧
    (let d := devR [(pdHold 3, 0x8000_0002)]
     d.heldDom 3 = some 2 ∧ d.dma.filter (fun e => e.1 / 256 == 3 && d.runTouches 2 e.1 e.2) = []) ∧
    (let d : Dev := { devR [(pdHold 3, 0x8000_0000)] with dma := [(1007, run0)] }
     d.heldDom 3 = some 0 ∧ d.dma.filter (fun e => e.1 / 256 == 3 && d.runTouches 0 e.1 e.2) = [(1007, run0)]) := by decide +kernel

theorem witness_PowerDomains :
    (let w := PageT.first .power
     devR.writable .host w 0x100 = true ∧ ({ devR with mode := .safe } : Dev).writable .host w 0x100 = true ∧ devR.pdNow = none ∧ devR.mode = .run ∧
       (3 : Nat) ∈ domains ∧ (0x27 : Nat) ∈ domains ∧ (2 ^ domBit 0x27 : Nat) &&& 0x00FF_010F = 2 ^ domBit 0x27 ∧ devR.rbit pdSts (domBit 0x27) = true ∧
       devR.writable .host w 0x108 = true ∧ devR.rbit frFence 31 = false ∧
       (devR [(frFence, 0x8000_0000), (rk .power 0 0x10C, 0x8000_0000)]).rbit frFence 31 = true ∧
       (devR [(frFence, 0x8000_0000), (rk .power 0 0x10C, 0x8000_0000)]).rbit (rk .power 0 0x10C) 31 = true) ∧
    (let d : Dev := { devR with pdNow := some 3 }
     d.pdNow = some 3 ∧ d.allReleased = true ∧ ∀ dom ∈ domains, dom ≠ 3 → (d.rbit pdCtl (domBit dom) && d.rbit pdSts (domBit dom)) = false) ∧
    (let d := devR [(pdSts, 0)]
     d.rbit pdCtl 3 = false ∧ d.rbit pdSts 3 = false ∧ d.rbit pdCtl (domBit 0x27) = false ∧ d.rbit pdSts (domBit 0x27) = false) ∧
    (let d := devR [(frFence, 0x8000_0000)]
     d.rbit frFence 31 = true ∧ d.queuesOn 31 = [] ∧ d.itemsWhere (fun x => x.outstanding && x.frond == 31) = []) := by decide +kernel

theorem witness_DeepStore :
    (tierOf 0 = some .deep ∧ (Tier.deep.eccPage).isSome = true ∧ (devR [(dsSts, 0x8000_0000)]).dsReady = true) ∧
    (tierOf 0x60_03FF_FFF8 = some (.working 255) ∧ ((Tier.working 255).eccPage).isSome = true ∧ (Tier.working 255).thallusNo = some 3 ∧ devR.thOn 3 = true ∧
      devR.uncorr.contains 0x60_03FF_FFF8 = false ∧ devR.corr.contains 0x60_03FF_FFF8 = false ∧
      ({ devR with corr := [0x60_03FF_FFF8] } : Dev).corr.contains 0x60_03FF_FFF8 = true) ∧
    ({ devR with scrub := [8] } : Dev).scrub.contains (15 / 8 * 8) = true ∧ devR.writable .host (PageT.first .dstore) 0x110 = true ∧
    ({ devR with mode := .standby } : Dev).writable .host (PageT.first .dstore) 0x110 = true ∧
    ((devR [(dsSts, 0x4000_0000)]).rbit dsSts 30 = true ∧ (devR [(dsSts, 0x4000_0000)]).mode = .run) := by decide +kernel

/-- Chain 63 open with a ring of 64 KiB and some state, CH_WR at `wr`. -/
def chain63 (st wr : W32) : SMap W32 := [(chKey 63 0, 0x8000_0000), (chKey 63 8, 1), (chKey 63 0xC, wr), (chKey 63 0x1C, st)]

theorem witness_CairnCommands :
    (let d := devR (chain63 2 64)
     d.writable .host (PageT.first .cairnCh + 63 / 32) (0x110 + 32 * (63 % 32)) = true ∧ d.chStream 63 = false ∧ d.chState 63 = 2 ∧ d.chSize 63 = 65536 ∧
       (64 : W32).toNat < d.chSize 63 ∧ (64 + d.chSize 63 - d.chCons 63) % d.chSize 63 ≤ (d.chWr 63 + d.chSize 63 - d.chCons 63) % d.chSize 63 ∧
       ¬(65 + d.chSize 63 - d.chCons 63) % d.chSize 63 ≤ (d.chWr 63 + d.chSize 63 - d.chCons 63) % d.chSize 63) ∧
    (devR [(chKey 63 0, 0xC000_0000)]).chStream 63 = true ∧ devR.writable .host (PageT.first .cairn) 0x100 = true ∧ devR.cairn.ckpt = none ∧ devR.ckDue = [] ∧
    (let d : Dev := { devR (chain63 1 0 ++ [(caKey 0x114, 1)]) with cairn := { devR.cairn with chains := [(63, ⟨zeros 32, 0, true, 0, true, false, 0⟩)] } }
     d.mode ≠ .drain ∧ d.cairn.ckpt = none ∧ d.ckDue ≠ [] ∧ d.ckSize ≠ 0 ∧ d.cairn.ckLast = none ∧
       ringNeed d.ckSize (d.reg (caKey 0x118)).toNat (64 + 64 * d.ckDue.length + 17088) < ringFree d.ckSize (d.reg (caKey 0x118)).toNat (d.reg (caKey 0x11C)).toNat) ∧
    (let d : Dev := { devR [(caKey 0x114, 1), (caKey 0x11C, 64)] with cairn := { devR.cairn with chains := [(63, ⟨zeros 32, 0, true, 0, true, false, 0⟩)] } }
     ¬ringNeed d.ckSize (d.reg (caKey 0x118)).toNat (64 + 64 * d.ckDue.length + 17088) < ringFree d.ckSize (d.reg (caKey 0x118)).toNat (d.reg (caKey 0x11C)).toNat) ∧
    ({ devR with cairn := { devR.cairn with ckpt := some [] } } : Dev).cairn.ckpt = some [] ∧
    (∀ c ∈ [none, some (63, 0)], let d : Dev := { devR with cairn := { devR.cairn with stream := [⟨c, [1], true⟩] } }
      d.cairn.stream = ⟨c, [1], true⟩ :: [] ∧ d.cairn.streamStop = false) ∧ (devR [(caKey 0x128, 30)]).hsSize ≠ 0 ∧
    (devR (chain63 1 0)).chState 63 ≠ 0 := by decide +kernel

theorem witness_ProtectionPages :
    (let w := PageT.first .skey
     devR.writable .host w 0x10C = true ∧ devR.writable .host w 0x110 = true ∧ devR.fill = none ∧ fld (0xFF : W32) 2 2 = 3 ∧ fld (0xF7 : W32) 2 2 ≠ 3 ∧
       tierOf devR.skAddr = some .deep ∧ fld (0xBDFF_FFFF : W32) 24 2 ≠ 3 ∧ bit (0xBD00_0000 : W32) 31 = true ∧
       tierOf (devR.skAddr + 4096 * (fld (0xBD3F_FFFF : W32) 0 22)) = some .deep) ∧
    ({ devR with fill := some ⟨0, 1, 1⟩ } : Dev).fill = some ⟨0, 1, 1⟩ ∧
    (let d := devR [(gateKey 548 0x100, 0), (gateKey 548 (0x104 + 16 * 15), 32), (gateKey 548 0x108, 31)]
     d.writable .host (PageT.first .gate + 548) (0x100 + 16 * 15) = true ∧ d.writable .host (PageT.first .gate + 548) 0x104 = true ∧
       bit (0x8000_0000 : W32) 31 = true ∧ d.rbit (gateKey 548 (0x100 + 16 * 15)) 31 = false ∧
       gateFrames 548 < d.rf (gateKey 548 (0x104 + 16 * 15)) 0 22 + d.rf (gateKey 548 (0x108 + 16 * 15)) 0 22 + 1 ∧ d.rbit (gateKey 548 0x100) 31 = false) ∧
    (let d := devR [(gateKey 548 (0x104 + 16 * 15), 31)]
     d.rf (gateKey 548 (0x104 + 16 * 15)) 0 22 + d.rf (gateKey 548 (0x108 + 16 * 15)) 0 22 + 1 ≤ gateFrames 548 ∧ d.rbit (gateKey 548 0x100) 31 = true ∧
       d.rf (gateKey 548 0x104) 0 22 < 32 ∧ 31 < d.rf (gateKey 548 0x104) 0 22 + d.rf (gateKey 548 0x108) 0 22 + 1 ∧
       d.writable .host (PageT.first .gate + 548) 0x104 = true) ∧
    (devR.writable .host (PageT.first .gatelog) 0x504 = true ∧ devR.writable .host (PageT.first .health) 0x604 = true ∧
      devR.writable .host (PageT.first .coreProt + 255) (0x200 + 32 * 15 + 4 * 4) = true) := by decide +kernel

/-- The clauses on images that pass the checks rest on the part's own constants and on a signature, which Lean cannot evaluate. -/
theorem witness_PatchLoads :
    (let d := devR
     d.writable .host (PageT.first .ucBcast) 0x100 = true ∧ d.rbit (ucKey 0x104) 31 = false ∧ (∀ c, c < 256 → d.coreHeld false c = true) ∧ d.ucLen < 0x60) ∧
    ({ devR with cores := [(255, core0)] } : Dev).coreHeld false 255 = false ∧
    (let d := devR [(dsSts, 0x8000_0000), (ucKey 0x110, 0x60)]
     d.rbit (ucKey 0x104) 31 = false ∧ (match d.readImage false with
       | (_, .ok im) => headerStatus im == some 0x01
       | _ => false) = true) ∧
    ({ devR with load := some (⟨[], [], 1⟩, []) } : Dev).load = some (⟨[], [], 1⟩, []) ∧
    ((devR.core 255).run = .held ∧ (devR.core 255).pool = false ∧ devR.thOn (thallusOf 255) = true ∧ devR.mode = .run ∧ devR.patch = none) := by
  decide +kernel

theorem witness_ModeRequests :
    (devR.writable .host (PageT.first .mode) 0x104 = true ∧ devR.mode = .run ∧ devR.inTransit = false) ∧
    (let d : Dev := { devR [(modeSts, 0x0080_0000)] with mode := .drain }
     d.writable .host (PageT.first .mode) 0x104 = true ∧ d.mode = .drain ∧ d.drained = true ∧ d.inTransit = false ∧ d.drain = .none ∧ d.unconsumed = false) ∧
    (∀ r ∈ [0, 0x4000_0000, 0x0001_0000], let d : Dev := { devR [(dsSts, BitVec.ofNat 32 r)] with mode := .standby }
      d.writable .host (PageT.first .mode) 0x104 = true ∧ d.mode = .standby ∧ d.inTransit = false) ∧
    ({ devR [(dsSts, 0x4000_0000)] with mode := .standby } : Dev).rbit dsSts 30 = true ∧ (devR [(dsSts, 0x0001_0000)]).trainBad = true ∧
    (devR [(dsSts, 0x0001_0000)]).rbit dsSts 30 = false ∧ (devR.rbit dsSts 30 = false ∧ devR.trainBad = false) ∧ devR.drained = false ∧
    (devR [(modeSts, 0x0010_0000)]).inTransit = true ∧ (devR [(chKey 63 0xC, 64)]).unconsumed = true := by decide +kernel

theorem witness_DrainAndThermal :
    (let d := devR [(rk .mode 0 0x108, 0x8000_0064)]
     d.rbit (rk .mode 0 0x108) 31 = true ∧ d.mode = .run ∧ d.inTransit = false) ∧ devR.rbit (rk .mode 0 0x108) 31 = false ∧
    (let d : Dev := { devR with mode := .drain }
     d.mode = .drain ∧ d.drain = .none ∧ d.outstanding = 0 ∧ (∀ c, c < 64 → d.chState c = 0 ∧ d.chStream c = false) ∧ d.ckSize = 0 ∧
       d.rbit (caKey 0x100) 1 = false) ∧
    (let d : Dev := { devR with mode := .drain, drain := .streaming 7, mer := 7 }
     d.drain = .streaming 7 ∧ d.mode = .drain ∧ 7 ≤ d.mer) ∧
    (hottest ([0x80, 0x7F] ++ zeros 14) 0 = some (127, 1) ∧ hottest ((List.replicate 16 (0x80 : Byte)).take 16) 0 = some (-128, 0)) ∧ devR.mode ≠ .safe := by
  decide +kernel

theorem witness_RecoverySteps :
    (let d := devAt [0]
     d.clocked 0 = true ∧ (d.core 0).pool = true ∧ (d.core 0).run ≠ .inGetw ∧ (d.core 0).item = none) ∧ Dev.reset.clocked 255 = false ∧
    ((devAt [] (fun x => { x with run := .inGetw })).core 0).run = .inGetw ∧ (devR.makesItems = true ∧ devR.thOn (31 / 8) = true) ∧
    (tierOf 0x70_01FF_FFFF = some (.prog 255) ∧ tierOf 0x3_FFFF_FFFF = some .deep ∧ devR.mode ≠ .datum) ∧
    (devR.writable .host (PageT.first .health) 0x108 = true ∧ (0x5752_0001 : W32).toNat / 65536 = 0x5752 ∧ bit (0x5752_0001 : W32) 0 = true ∧
      devR.warm = none ∧ (0x5753_0001 : W32).toNat / 65536 ≠ 0x5752 ∧ bit (0x5752_0000 : W32) 0 = false) ∧
    (let d : Dev := { devR with mode := .survey, survey := some (.standby, 15) }
     d.writable .debug (PageT.first .survey) 0x100 = true ∧ 15 / 8 % 2 = 1) ∧
    (let d : Dev := { devR with mode := .survey, survey := some (.standby, 7) }
     d.writable .host (PageT.first .survey) 0x100 = true ∧ d.survey.all (fun e => e.2 / 8 % 2 == 0) = true) ∧
    (let d : Dev := { devR [(thermSts, 0x007F_0000)] with warm := some 0x10, tripped := true }
     d.warm = some 0x10 ∧ d.mode ≠ .datum ∧ d.tripped = true ∧ d.cool = false) ∧ devR.tripped = false := by decide +kernel

theorem witness_CoreEvents :
    (devR.takesTraps 0 = false ∧ devR.executes 0 = false) ∧
    (let d := devAt [] (cswBy (fun w => { w with imask := 0 }) ∘ fun x => { x with pendTimer := true })
     d.takesTraps 0 = true ∧ asyncDue d 0 = some 17 ∧ (d.core 0).flight = none) ∧
    (let d := devAt [] (fun x => { x with ctimer := 0xFFFF_FFFF })
     d.clocked 0 = true ∧ (d.core 0).ctimer ≠ 0 ∧ (d.core 0).item = none) ∧
    (let d := devAt [] (fun x => { x with item := some 0, budget := 1 })
     d.executes 0 = true ∧ (d.core 0).item ≠ none ∧ (d.core 0).inBF = false ∧ (d.core 0).onGrace = false ∧ (d.core 0).budget ≠ 0) ∧
    (let d := { devAt [] (fun x => { x with item := some 0, onGrace := true }) with items := [(0, itemRun)] }
     d.clocked 0 = true ∧ (d.core 0).onGrace = true ∧ d.openItem 0 = some (0, itemRun)) ∧
    (let d := devAt [] (fun x => { x with item := some 0, onGrace := true })
     d.clocked 0 = true ∧ (d.core 0).onGrace = true ∧ (d.core 0).item = some 0 ∧ d.openItem 0 = none) ∧
    ((0x21FF : BitVec 14).toNat < 0x2200 ∧ microParity (0x10_0000_0000 : BitVec 36).toNat ≠ fld (0xF_FFFF_FFFF : BitVec 36) 32 4 ∧
      0x2200 ≤ (0x2200 : BitVec 14).toNat) ∧
    (let d := { devAt [] (fun x => { x with br := [], prefetch := some 0 }) with
        mem := [(frondBase 0 + 0x200, 0x80), (frondBase 0 + 0x206, 0x36), (frondBase 0 + 0x20B, 0x60)] }
     (d.core 0).prefetch = some 0 ∧ d.clocked 0 = true ∧ (d.core 0).brHit 0 = none ∧
       got ((walk 0 0 false).run (d.modCore 0 (fun k => { k with prefetch := none }))) (fun _ _ => true) = true) ∧
    ((devAt []).core 0).wbuf = [] ∧ ((devAt [] (fun x => { x with wbuf := [⟨frondBase 0, [1]⟩] })).core 0).wbuf = [⟨frondBase 0, [1]⟩] ∧
    ((devAt []).core 0).mck = false ∧ ((devAt [] (fun x => { x with mck := true })).core 0).mck = true := by decide +kernel

theorem witness_CoreEvents_illegal : ∃ w : BitVec 36, microParity w.toNat = fld w 32 4 ∧ illegalMicro w = true := ⟨illegalWord, by decide +kernel⟩

theorem witness_HandoverAndEgress :
    Dev.reset.clocked 255 = false ∧
    (let d : Dev := { devAt [] (fun x => { bankBy (fun b => { b with res := true }) x with run := .inGetw }) with items := [(0, { item0 with phase := .ready })] }
     d.clocked 0 = true ∧ (d.core 0).pool = true ∧ (d.core 0).run = .inGetw ∧ asyncDue d 0 = none ∧
       (match d.nextFor 0 with
         | (d1, some (_, x)) => match d1.fabWrite gratReq (workBase 0 + 0x3_FFC0) (itemWords x) with
           | (d2, none) => ((spend 0 6 d2).core 0).bankOf x.q == some 0 && !(d2.core 0).patched .getw
           | _ => false
         | _ => false) = true) ∧
    ({ devR with items := [(0, item0)] } : Dev).item? 0 = some item0 ∧
    (nextEgress [⟨none, 0, [], [], false, false⟩, ⟨none, 1, [], [], true, true⟩] = some ⟨none, 1, [], [], true, true⟩ ∧
      nextEgress [⟨none, 0, [], [], false, false⟩] = some ⟨none, 0, [], [], false, false⟩) ∧
    ((devR [(macKey 15 0x100, 0x8000_0000), (macKey 15 0x114, 0x8000_0000)]).portEn 15 = true ∧
      (devR [(macKey 15 0x100, 0x8000_0000), (macKey 15 0x114, 0x8000_0000)]).portUp 15 = true ∧ devR.portEn 15 = false) := by decide +kernel

theorem witness_PinsAndResets :
    (let d := Dev.reset
     d.board.aon = true ∧ d.mode = .datum ∧ d.board.climb = true ∧ d.board.pwrok = false) ∧ (devR.board.aon = true ∧ devR.mode ≠ .datum) ∧ (0x7F : BitVec 7) ≠ 0 ∧
    (let d : Dev := { Dev.reset with regs := [(railSts, 0x7F)], board := { Board.atPowerOn with pwrok := true } }
     d.mode = .datum ∧ d.board.climb = true ∧ d.board.pwrok = true ∧ d.railsOk = true) ∧
    (let d : Dev := { Dev.reset with board := { Board.atPowerOn with waiting := true, climb := false } }
     d.mode = .datum ∧ d.board.waiting = true) ∧
    (let d : Dev := { Dev.reset with board := { Board.atPowerOn with porst := true } }
     d.mode = .datum ∧ d.board.climb = true ∧ d.board.porst = true ∧ d.board.test = false) := by decide +kernel

theorem witness_TimeAndAlarms :
    (let w := PageT.first .datum
     devR.writable .host w 0x110 = true ∧ ({ devR with mode := .standby } : Dev).writable .host w 0x110 = true ∧ devR.writable .host w 0x114 = true ∧
       devR.writable .host w 0x118 = true) ∧
    devR.board.aon = true ∧
    (let d : Dev := devR [(datKey 0x128, 0x8000_0064)]
     d.mode ≠ .datum ∧ d.rbit (datKey 0x128) 31 = true ∧ d.civil % 1_000_000_000 = 0 ∧ d.board.ppsAt ≠ some d.mer) ∧
    (let d := devR [(datKey (0x148 + 16 * 7), 0x8000_0000)]
     d.rbit (datKey (0x148 + 16 * 7)) 31 = true ∧ d.reg64 (datKey (0x140 + 16 * 7)) ≤ d.mer ∧ devR.rbit (datKey (0x148 + 16 * 7)) 31 = false) ∧
    ((devR [(datKey (0x1C0 + 4 * 3), 0x8000_0000)]).rbit (datKey (0x1C0 + 4 * 3)) 31 = true ∧ devR.rbit (datKey (0x1C0 + 4 * 3)) 31 = false) ∧
    (let d : Dev := { Dev.reset with board := { Board.atPowerOn with porst := true } }
     d.mode = .datum ∧ d.board.porst = true ∧ d.board.waiting = false ∧ d.board.test = false) ∧
    (let d : Dev := { Dev.reset with board := { Board.atPowerOn with waiting := true } }
     d.mode = .datum ∧ d.board.waiting = true) ∧
    ({ Dev.reset with board := { Board.atPowerOn with aon := false } } : Dev).board.aon = false ∧ (on devR).pending = [] := by decide +kernel

/-- Crozier in S0, and the boot firmware running with bytes of its slot. -/
def devCz : Dev := { Dev.reset with mode := .crozier, boot := ⟨false, true, false, 0, 0⟩ }
def devS4 (m : List Host.Cell) : Dev :=
  { Dev.reset with mode := .crozier, boot := ⟨false, false, true, 0, 64⟩, cores := [(0, core0)], mem := m.map (fun e => (czSlot + e.1, e.2)) }

/-- The clauses on slots that pass rest on the part's own constants and on a signature, which Lean cannot evaluate. -/
theorem witness_BootStages :
    (devCz.mode = .crozier ∧ devCz.boot.ready = true ∧ devCz.boot.epochDue = false) ∧
    ({ devCz with boot := ⟨true, true, false, 0, 0⟩ } : Dev).boot.epochDue = true ∧ (devCz.bootS0 State.reset.fuse).isSome = true ∧
    (devCz.bootS0 State.reset.fuse).all (fun e => (e.2.checkSlot e.1 0 []).2 == some (1, 9) || (e.2.checkSlot e.1 0 []).2.isSome) = true ∧
    (devS4 []).boot.s4 = true ∧ (devS4 []).boot.ready = false ∧ (1 : Nat) < 2 ∧ (255 : Nat) < 256 ∧ (7 : Nat) < 8 := by decide +kernel

theorem witness_BootCommands :
    (∀ c ∈ [2, 3, 4, 5, 6, 7, 8, 9, 10, 255], (devS4 [(0, BitVec.ofNat 8 c)]).czReads = true ∧ ((devS4 [(0, BitVec.ofNat 8 c)]).byte czSlot).toNat = c) ∧
    (devS4 [(0, 3)]).czArg 8 3 < 0x80_0000 ∧ ((devS4 [(0, 3)]).busRead State.reset.fuse .crozier 0 0).2.isSome = true ∧
    (devS4 [(0, 4)]).rbit (ucKey 0x104) 31 = false ∧ (devS4 [(0, 4), (0xF, 0xFF), (0x10, 0xFF)]).czArg 0xD 4 < 2 ^ 16 ∧
    (let d := devS4 [(0, 1), (0xF, 1), (0x10, 0x40)]
     (d.byte czSlot).toNat = 1 ∧ d.czArg 0xC 4 ≤ [(7 : Byte)].length ∧ d.czArg 0x10 5 = 0x40_0000_0000 ∧ tierOf 0x40_0000_0000 = some (.thallus 0) ∧
       d.rangeFault 0x40_0000_0000 1 = none ∧ (d.fabWrite loaderReq 0x40_0000_0000 [7]).2 = none) ∧
    (let d := devS4 [(0, 1), (0xF, 1)]
     d.czArg 0x10 5 = 0 ∧ d.rangeFault 0 1 ≠ none) := by decide +kernel

/-- A group of lanes in a mode, with registers beside. -/
def lanes (g mode : Nat) (l : SMap W32 := []) : Dev := devR ((lgKey g 0x100, BitVec.ofNat 32 (mode * 65536)) :: l)

theorem witness_LanesAndPorts :
    (devR.writable .host (PageT.first .lg + 3) 0x100 = true ∧ devR.lgMode 3 = 0 ∧ fld (0x0005_0000 : W32) 16 3 ≠ devR.lgMode 3 ∧ devR.laneBusy 3 = false ∧
      6 ≤ fld (0x0006_0000 : W32) 16 3 ∧ fld (0x0000_FF00 : W32) 16 3 = devR.lgMode 3) ∧
    (let d := lanes 3 1 [(macKey 12 0x100, 0x8000_0000)]
     d.writable .host (PageT.first .lg + 3) 0x100 = true ∧ d.laneBusy 3 = true ∧ fld (0 : W32) 16 3 ≠ d.lgMode 3 ∧
       d.writable .host (PageT.first .mac + 12) 0x100 = true ∧ d.idlePage 12 = false ∧ d.idlePage 13 = true ∧
       d.writable .host (PageT.first .mac + 13) 0x100 = true ∧ bit (0x8000_0000 : W32) 31 = true) ∧
    (devR.writable .host (PageT.first .rz) (0x140 + 4 * 15) = true ∧ fld (0x0010_0015 : W32) 0 8 ≤ devR.rateLimit 15 ∧ 1 ≤ fld (0x0010_0015 : W32) 16 8 ∧
      fld (0x0010_0015 : W32) 16 8 ≤ 16) ∧
    devR.writable .host (PageT.first .ptp) 0x10C = true ∧
    (let d := lanes 3 1 [(macKey 12 0x100, 0x8000_0000)]
     d.lanesRun = true ∧ d.linkHeld.contains (4 * 3 + 0) = false ∧ d.groupDir 3 = none ∧ d.portRate 12 ≠ 0 ∧ d.portEn 12 = true ∧ d.portUp 12 = false) ∧
    (let d := lanes 3 5 [(ukKey 0x100, 0x8000_7000)]
     d.lanesRun = true ∧ d.groupDir 3 = some false ∧ (d.link false).trained = false) ∧
    (let d := lanes 3 1 [(macKey 12 0x100, 0x8000_0000), (macKey 12 0x114, 0xC000_0000), (macKey 12 0x110, 0x0001_0706)]
     d.groupDir 3 = none ∧ d.portEn 12 = true ∧ d.portUp 12 = true ∧ d.rf (macKey 12 0x110) 16 8 ≠ 0 ∧
       d.ringFill 3 * 8 ≤ d.rf (macKey 12 0x110) 8 3 * 0x40_0000 ∧ d.ringFill 3 * 8 < d.rf (macKey 12 0x110) 0 3 * 0x40_0000 ∧
       d.rbit (macKey 12 0x114) 30 = true) ∧
    (let d : Dev := { lanes 3 1 [(macKey 12 0x110, 0x0001_0000)] with items := [(0, { item0 with ring := 3, roff := some 0 })] }
     d.rf (macKey 12 0x110) 8 3 * 0x40_0000 < d.ringFill 3 * 8) := by decide +kernel

/-- A device at position 0 of ring 7 whose west link (or both) is trained, with what the link has. -/
def ring (l : Link) (e : Link := Link.down) : Dev :=
  { devR [(ukKey 0x100, 0x8000_000A), (ukKey 0x104, 7), (ukKey 0x108, 0xFF)] with uk := { Dev.reset.uk with west := l, east := e } }

theorem witness_RingControl :
    (devR.writable .host (PageT.first .uaska) 0x100 = true ∧ bit (0x0000_7700 : W32) 14 = true ∧ bit (0x0000_7700 : W32) 10 = true ∧
      fld (0x0000_7700 : W32) 12 2 = fld (0x0000_7700 : W32) 8 2 ∧ bit (0x8007_0001 : W32) 14 = false ∧ fld (0x8007_0001 : W32) 0 8 ≠ 0) ∧
    (let d := ring { Link.down with trained := true }
     (d.link true).trained = true ∧ beAt ([0, 0, 0, 8, 1] : List Byte) 0 4 ≠ (d.reg (ukKey 0x104)).toNat ∧
       beAt ([0, 0, 0, 7, 7] : List Byte) 0 4 = (d.reg (ukKey 0x104)).toNat ∧ beAt ([0, 0, 0, 7, 7] : List Byte) 4 1 % 8 ≠ d.pos ∧
       beAt ([0, 0, 0, 7, 0] : List Byte) 4 1 % 8 = d.pos ∧ (d.link true).hello = false ∧ d.rbit (ukKey 0x100) 31 = true) ∧
    (let d := ring { Link.down with trained := true, hello := true }
     (d.link true).hello = true ∧ d.fromDir 7 = some true) ∧
    (let d : Dev := { ring Link.down with uk := { Dev.reset.uk with beats := [(7, 0)] }, mer := 300_000 }
     SMap.find? d.uk.beats 7 = some 0 ∧ 0 + 30_000 * d.rf (ukKey 0x100) 0 8 ≤ d.mer) ∧
    (let d : Dev := { ring Link.down with uk := { Dev.reset.uk with beats := [(7, 0)] }, mer := 299_999 }
     d.mer < 0 + 30_000 * d.rf (ukKey 0x100) 0 8) := by decide +kernel

theorem witness_RingRetry :
    (∀ n ∈ [0, 6, 7], let d := ring { Link.down with trained := true, replay := [(1, ⟨0, 0, 15, []⟩)], tries := n, gap := n == 7 }
      (d.link true).trained = true ∧ (d.link true).replay ≠ [] ∧ (d.link true).tries = n ∧ (d.link true).wait = [] ∧ (d.link true).gap = (n == 7)) ∧
    (∀ f ∈ (ring { Link.down with trained := true }).uk.west.replay, f.1 ≠ 5) ∧ Link.down.cr0 ≤ 32 ∧ Link.down.cr1 ≤ 32 ∧ Link.down.cr2 ≤ 32 := by
  decide +kernel

theorem witness_RingMessages :
    (let d := ring { Link.down with trained := true, hello := true }
     let y := d.tookFlits true 2 1
     d.fromDir 7 = some true ∧ beAt ([1, 1, 0, 0x21, 4, 0, 0, 0, 0] : List Byte) 1 1 % 2 = 1 ∧
       (y.busRead State.reset.fuse (.peer 7) (beAt ([1, 0, 0, 0x21, 4] : List Byte) 2 3 / 4096) (beAt ([1, 0, 0, 0x21, 4] : List Byte) 2 3 % 4096)).2.isSome = true) ∧
    (let d : Dev := { ring Link.down with uk := { Dev.reset.uk with remote := [⟨255, true, 7⟩] } }
     d.uk.remote.find? (fun x => x.tag == beAt ([255, 0] : List Byte) 0 1 && x.dev == 7) = some ⟨255, true, 7⟩ ∧
       d.uk.remote.find? (fun x => x.tag == 255) = some ⟨255, true, 7⟩) ∧
    ((ring Link.down).rbit (ukKey 0x108) 7 = true ∧ devR.rbit (ukKey 0x108) 7 = false ∧ sha256 [] ≠ zeros 32) ∧
    devR.itemsWhere (fun x => x.phase == .commit && x.chain == 0 && x.jseq == 0) = [] ∧ devR.live 7 = false ∧
    (let d : Dev := { ring { Link.down with trained := true, hello := true } { Link.down with trained := true, hello := true } with
        uk := { (ring { Link.down with trained := true, hello := true } { Link.down with trained := true, hello := true }).uk with
          beats := [(7, 0), (1, 0)], topo := 0xFF } }
     d.live 7 = true ∧ d.mode ≠ .datum) := by decide +kernel

theorem witness_HostPort :
    (devR.mode ≠ .datum ∧ devR.pci.up = false ∧ grantOf (devR.reg (rk .gslot 0 (0x100 + 4 * 0x37))) 0 (devR.regReq .host) .write = none) ∧
    (∀ e ∈ [true, false], ({ devR with pci := ⟨true, true, false, e, 3, 8, 128, false, [], 0, 0, [], [2047], []⟩ } : Dev).pci.up = true ∧ 2047 ∈ [2047] ∧
      ({ devR with pci := ⟨true, true, false, e, 3, 8, 128, false, [], 0, 0, [], [2047], []⟩ } : Dev).pci.d3 = e) ∧
    (let d := devR [(dsSts, 0x8000_0000), (pcKey 0x104, 15)]
     (2 ^ 30 - 1) + [(7 : Byte)].length ≤ 2 ^ 30 ∧ d.rangeFault (15 * 2 ^ 30 + (2 ^ 30 - 1)) 1 = none ∧ devR.rangeFault 0 1 ≠ none ∧
       (d.fabWrite (d.regReq .host) (15 * 2 ^ 30 + (2 ^ 30 - 1)) [7]).2 = none ∧
       (match d.fabRead (d.regReq .host) (15 * 2 ^ 30) 1 with
         | (_, .ok bs) => bs.length == 1
         | _ => false) = true) ∧
    ((devR [(dsSts, 0x8000_0000), (rk .gate 0 0x100, 0)]).fabWrite (devR.regReq .host) 0 [7]).2 ≠ none ∧
    devR.writable .host (PageT.first .mbx) (0x200 + 4 * 7) = true ∧
    (let d := devR [(rk .mbx 0 (0x100 + 4 * 63), 0x8000_0000)]
     d.makesItems = true ∧ d.rbit (rk .mbx 0 (0x100 + 4 * 63)) 31 = true ∧ d.rbit (rk .mbx 0 (0x100 + 4 * 63)) 30 = false ∧ (d.mbx 63).free = true ∧
       bit (0x8000_0100 : W32) 31 = true ∧ fld (0x8000_0100 : W32) 0 9 = 256 ∧ bit (0x8000_0001 : W32) 31 = true ∧ fld (0x8000_0001 : W32) 0 9 = 1 ∧
       fld (0x8000_0000 : W32) 0 9 = 0 ∧ 256 < fld (0x8000_0101 : W32) 0 9) ∧
    (let d : Dev := { devR with mbox := [(63, ⟨[], 0xFFFF, false, false, some (0, [])⟩)] }
     (d.mbx 63).free = false ∧ (d.mbx 63).result ≠ none ∧ fld (0x8000_FFFF : W32) 0 16 = (d.mbx 63).seq.toNat ∧
       fld (0x8000_0000 : W32) 0 16 ≠ (d.mbx 63).seq.toNat) ∧
    bit (0x4000_0000 : W32) 30 = true ∧ Mbx.atReset.result = none := by decide +kernel

/-- The clauses of an accepted submission rest on the part's own constants and on a signature, which Lean cannot evaluate. -/
theorem witness_AttestAndSurvey :
    (devR.writable .host (PageT.first .cartouche) 0x1A0 = true ∧ devR.att.busy = none) ∧
    (∀ b ∈ [true, false], ({ devR with att := ⟨some [], b, []⟩ } : Dev).att.busy ≠ none ∧ ({ devR with att := ⟨some [], b, []⟩ } : Dev).att.waits = b) ∧
    devR.cairn.ckpt = none ∧ devR.writable .host (PageT.first .survey) 0x100 = true ∧ devR.writable .host (PageT.first .survey) 0x140 = true ∧
    devR.sv.fails < 8 ∧ 8 ≤ ({ devR with sv := { devR.sv with fails := 8 } } : Dev).sv.fails ∧ svStatus State.reset.fuse devR [] = some 1 ∧
    (let d : Dev := { devR with mode := .survey, survey := some (.standby, 15) }
     d.survey = some (.standby, 15) ∧ d.writable .host (PageT.first .survey) 0x100 = true ∧ d.writable .debug (PageT.first .survey) 0x100 = true) ∧
    (RegMaster.crozier ≠ .host ∧ RegMaster.crozier ≠ .debug) ∧
    ({ devR with sv := { devR.sv with nonce := some (1, 0) } } : Dev).sv.nonce = some (1, 0) := by decide +kernel

theorem witness_BoardPorts :
    (devR.mode ≠ .datum ∧ devR.makesItems = true ∧ ({ devR with mode := .standby } : Dev).makesItems = false ∧ devR.sv.words.length ≠ 1987 ∧
      ({ devR with sv := { devR.sv with words := List.replicate 1987 0 } } : Dev).sv.words.length = 1987 ∧ devR.survey = none) ∧
    (let d : Dev := { devR with mode := .survey, survey := some (.standby, 15), cores := [(255, { core0 with run := .stopped })] }
     d.survey = some (.standby, 15) ∧ 15 % 2 = 1 ∧ 15 / 2 % 2 = 1 ∧ 15 / 4 % 2 = 1 ∧ pageAt (0x40_0000_0000 : BitVec 40).toNat = none ∧
       d.rangeFault (0x40_0000_0000 : BitVec 40).toNat 4 = none ∧
       (match d.fabRead (d.regReq .debug) 0x40_0000_0000 4 with
         | (_, .ok bs) => bs.length == 4
         | _ => false) = true ∧
       (d.fabWrite (d.regReq .debug) 0x40_0000_0000 [1, 2, 3, 4]).2 = none ∧ (d.core 255).run = .stopped ∧ d.coreHeld false 0 = true ∧
       (8 : BitVec 4).toNat ≤ 8 ∧ (49 : BitVec 6).toNat < 50) := by decide +kernel

/-- Queue 0 open with a contract that its items pass, core 0 in the pool. -/
def devQ (x : Item) : Dev :=
  { devAt [] with
      regs := [(frKey 0 0, BitVec.ofNat 32 (90 * 65536)), (ctKey 0 0, 0x8001_0000), (ctKey 0 4, 1_000_000), (ctKey 0 8, 100), (ctKey 0 0x10, 1), (ctKey 0 0x18, 0x0040_0040)]
      qOpen := [0], items := [(0, x)] }

theorem witness_ItemPath :
    (let d := devR [(macKey 15 0x100, 0x8000_0000), (macKey 15 0x114, 0x8000_0000)]
     d.portEn 15 = true ∧ d.portUp 15 = true ∧ d.macDrop 15 (parseEth (List.replicate 14 0xFF)) true = none ∧
       d.macDrop 15 (parseEth (1 :: zeros 13)) true = some 6 ∧ devR.portEn 15 = false ∧ d.makesItems = true) ∧
    (let d := devQ { item0 with roff := some 0 }
     d.makesItems = true ∧ (d.itemsWhere (fun y => y.phase == .arrived)).head? = some (0, { item0 with roff := some 0 }) ∧
       (d.settleU (d.qFrond 0)).firstRefusal { item0 with roff := some 0 } = none) ∧
    (devQ item0).firstRefusal item0 = some 11 ∧ ({ devQ item0 with mode := .drain } : Dev).firstRefusal item0 = some 7 ∧ devR.firstRefusal item0 = some 6 ∧
    ({ devQ { item0 with roff := some 0 } with mer := 2_000_000 } : Dev).firstRefusal { item0 with roff := some 0 } = some 2 ∧
    (let x := { item0 with phase := .admitted, roff := some 0 }
     let d := devQ x
     d.item? 0 = some x ∧ d.turnOf 0 0 = true ∧ (match d.fabRead (stageReq 0) ((Tier.thallus 0).base + 0) 1 with
       | (d1, .ok bs) => (d1.fabWrite (stageReq 0) (frondBase 0 + stageOff 0) bs).2.isNone
       | _ => false) = true) ∧
    (let d : Dev := { devQ item0 with items := [(0, { item0 with phase := .admitted }), (1, { item0 with phase := .admitted })] }
     d.turnOf 1 0 = false) ∧
    ((devQ { item0 with phase := .done }).item? 0 = some { item0 with phase := .done } ∧ bit (0 : W64) 62 = false ∧ bit (0 : W64) 63 = false) ∧
    (∀ t ∈ [0, 1], (devQ { item0 with phase := .commit, tcommit := t }).item? 0 = some { item0 with phase := .commit, tcommit := t } ∧ (t ≤ (devQ item0).mer ↔ t = 0)) ∧
    (let d : Dev := { devQ item0 with items := [(0, { item0 with phase := .texts, order := 1 }), (1, { item0 with phase := .texts })] }
     d.sealNext 0 { item0 with phase := .texts, order := 1 } = false ∧ d.sealNext 1 { item0 with phase := .texts } = true) ∧
    devR.writable .host (PageT.first .gratDb) (0x104 + 8 * 255) = true ∧ devR.outQ 8191 = 0 ∧ 8191 ∉ devR.qOpen ∧
    (let d : Dev := { devR [(ctKey 8191 0x10, 0x8000_0000)] with qOpen := [8191] }
     d.makesItems = true ∧ 8191 ∈ d.qOpen ∧ bit (d.reg (ctKey 8191 0x10)) 31 = true ∧ 31 ≠ d.qFrond 8191 ∧ d.outQ 8191 = 0 ∧ SMap.find? d.migr 8191 = none) := by
  decide +kernel

theorem witness_FusesOnlyBlow :
    ∃ t, step { on devCz with pending := [.crozierStart [] []] } = .next t ∧ State.reset.fuse.inRange := ⟨_, rfl, by decide, by decide⟩

/-! ### Further clauses -/

theorem witness_CallReturn_callr :
    let d := devAt [3 * 128 + 6 * 4, 6 * 512 + 9] (inMode 2 ∘ cswBy (fun w => { w with rstrap := true }) ∘ bankBy (fun b => { b with rsD := 8 }))
    d.standsAt 0 { op := .callr, n := 2, s1 := immOf 9, cr := 8 } ∧ (d.core 0).cb.csw.rstrap = true ∧ (d.core 0).cb.rsD = 8 ∧
      ∃ v z, (srcBin 0 (immOf 9) 8).run (d.begun 0) = .ok v z ∧ (v == 9) = true :=
  ⟨stands (by decide +kernel), by decide +kernel, by decide +kernel, got_some (by decide +kernel)⟩

theorem witness_RettResult_upc : resumeEntry { Core.atReset with patchRam := [(0, trapptWord 0 12)] } (Flight.start 12) 0x2000 = true := by decide +kernel

theorem witness_DmaControl_inHand :
    (let d : Dev := { devR (chan 0) with dma := [(1007, run0)] }
     d.writable .host (PageT.first .dmaCh + 1007 / 64) (0x100 + 32 * (1007 % 64)) = true ∧ d.rf (dcKey 1007 0) 0 2 = 0 ∧
       SMap.find? d.dma 1007 = some run0 ∧ d.dcRing 1007 = false ∧ d.rf (dcKey 1007 0x10) 30 2 ≠ 3) ∧
    (let d := devR (chan 1)
     d.writable .host (PageT.first .dmaCh + 1007 / 64) (0x100 + 32 * (1007 % 64)) = true ∧ d.rf (dcKey 1007 0) 0 2 = 0 ∧
       SMap.find? d.dma 1007 = none ∧ d.dcRing 1007 = true ∧ d.rf (dcKey 1007 0x10) 30 2 ≠ 3) ∧
    (match ({ devR with dma := [(1007, run0)] } : Dev).dmaRead (dcReq 1007 0 true) (run0.src + run0.block.1) run0.block.2 with
      | (d1, .ok bs) => (Dev.dmaPieces (dcReq 1007 0 true) (run0.pieces (run0.dst + run0.block.1) bs) d1).2.2.isNone
      | _ => false) = true := by decide +kernel

theorem witness_PowerDomains_domains :
    (∀ dom ∈ [domDs, domLayer 7], let d := devR [(pdSts, 0)]
      d.rbit pdCtl (domBit dom) = false ∧ d.rbit pdSts (domBit dom) = false ∧ d.baseMode ≠ .standby ∧ ({ d with mode := .standby } : Dev).baseMode = .standby) ∧
    (let d : Dev := { devR with pdNow := some 3 }
     d.writable .host (PageT.first .power) 0x100 = true ∧ d.pdNow = some 3 ∧ (3 : Nat) ∈ domains ∧ (0 : Nat) &&& 0x00FF_010F = 0) ∧
    ((devR [(frFence, 0x8000_0000)]).core 255).pool = false ∧ (devR [(frFence, 0x8000_0000)]).makesItems = true := by decide +kernel

theorem witness_SwapCycle_depth : (devR (contract.set 0 (ctKey 8191 0, 0x8000_0000))).ctEn 8191 = false ∧
    (devR (contract.set 0 (ctKey 8191 0, 0x8000_0000))).rbit (ctKey 8191 0) 31 = true ∧ (devR (contract.set 0 (ctKey 8191 0, 0x8000_0000))).contractOk 8191 = true ∧
    devR.rbit (ctKey 8191 0) 31 = false ∧ (devR [(ctKey 8191 0, 0x8000_0000)]).contractOk 8191 = false := by decide +kernel

/-- A core with words of patch RAM and match registers, its sequencer about to read micro-address 0x2000. -/
def ucore (ws : List (BitVec 36)) (ms : SMap W32 := []) : Core := { core0 with patchRam := ws.zipIdx.map (fun e => (e.2, e.1)), matchReg := ms }

/-- The literal microword that puts 7 into the low bits of T0. -/
def litWord : BitVec 36 := 0x1_9000_0007

/-- The sequence microwords whose other fields are 0: BRANCH, CALL, RETURN, RETIRE, TRAPPT, RAISE. -/
def seqWords : List (BitVec 36) := [0x0_6000_0000, 0x8_6400_0000, 0x8_6800_0000, 0x0_6C00_0000, 0x8_7000_0000, 0x4_7402_0000]

theorem witness_PatchLoads_start :
    (∀ r ∈ [[(ucKey 0x10C, (0x60 : W32)), (ucKey 0x110, 0x60)], [(ucKey 0x110, 0x60)]], let d := devR r
      ¬ d.ucLen < 0x60 ∧ ((tierOf d.ucImg = some (.working 0) ∧ tierOf (d.ucImg + d.ucLen - 1) = some (.working 0)) ∨
        (d.rangeFault d.ucImg d.ucLen).isSome = true)) ∧
    (∀ p ∈ [none, some (⟨[], [], 1⟩ : Patch)], let d : Dev := { devR with patch := p }
      (d.core 255).run = .held ∧ (d.core 255).pool = false ∧ (d.core 255).resetDue = false ∧ d.thOn (thallusOf 255) = true ∧ d.mode ≠ .datum ∧ d.patch = p) ∧
    (devR.mode ∈ [Mode.run, .degraded, .drain] ∧ devR.rbit frFence (frondOf 255) = false ∧ (devR [(frFence, 0x8000_0000)]).rbit frFence (frondOf 255) = true) := by
  decide +kernel

theorem witness_PatchLoads_sequencer :
    (let m : W32 := 0xFFFF_FE00
     bit m 31 = true ∧ fld m 18 13 = 0x1FFF ∧ ∀ n, n < 32 → ¬(bit (SMap.get (0 : W32) [] n) 31 = true)) ∧
    (ucore []).matchFail = none ∧ microParity (0x1_0000_0000 : BitVec 36).toNat ≠ fld (0x1_0000_0000 : BitVec 36) 32 4 ∧
    (microParity illegalWord.toNat = fld illegalWord 32 4 ∧ illegalMicro illegalWord = true) ∧
    (litWord :: seqWords).all (fun w => microParity w.toNat == fld w 32 4 && !illegalMicro w) = true ∧
    seqWords.map (fun w => fld w 26 3) = [0, 1, 2, 3, 4, 5] := by decide +kernel

theorem witness_PatchLoads_runs : let y (ws : List (BitVec 36)) : Dev := { devAt [0] with cores := [(0, ucore ws)] }
    (∀ e ∈ [(litWord, MicroEnd.go 0x2001), (0x0_6C00_0000, .retire), (0x8_6800_0000, .check 7 0 0x2000 (some 0x8_6800_0000))],
      (microStep (y [e.1]) 0 0 0x2000).1 = e.2) ∧
    ((y []).core 0).wdog + ((y []).core 0).spent < 4096 ∧ opidOf .rrAdd = none := by decide +kernel

/-- A match register set on the entry address of ADD, whatever that is. -/
theorem witness_PatchLoads_patched : ∃ d : Dev, d.executes 0 = true ∧ asyncDue d 0 = none ∧
    decodeNext d 0 = .ok { op := .rrAdd, n := 2, gd := 1, ga := 2, gb := 3 } ∧ (d.core 0).micro.next = none ∧ (d.core 0).matchFail = none ∧
    (d.core 0).patched .rrAdd = true := by
  let m : W32 := BitVec.ofNat 32 (2 ^ 31 + (Config.romEntry .rrAdd).toNat * 2 ^ 18)
  refine ⟨devAt (wRR 11 0 1 2 3) (fun x => { inMode 1 x with matchReg := [(0, matchImage m)] }), by decide +kernel, by decide +kernel, ?_, rfl, ?_, ?_⟩
  · have : isAt (devAt (wRR 11 0 1 2 3) (inMode 1)) 0 { op := .rrAdd, n := 2, gd := 1, ga := 2, gb := 3 } = true := by decide +kernel
    exact (stands this).2.2.1
  · show (List.find? _ [(0, matchImage m)]).map _ = none
    simp [matchRight_image]
  · have hb : fld m 31 1 = 1 := by simp only [m, fld, BitVec.toNat_ofNat]; have := (Config.romEntry .rrAdd).isLt; omega
    have hf : fld m 18 13 = (Config.romEntry .rrAdd).toNat := by simp only [m, fld, BitVec.toNat_ofNat]; have := (Config.romEntry .rrAdd).isLt; omega
    have hbit : bit (matchImage m) 31 = true := by
      have := matchImage_fld m 31 1 (by omega)
      rw [hb] at this
      simpa [fld, bit, BitVec.getLsbD, Nat.testBit, Nat.shiftRight_eq_div_pow] using this
    show List.any [(0, matchImage m)] (fun (e : Nat × W32) => bit e.2 31 && romWordOf .rrAdd (BitVec.ofNat 13 (fld e.2 18 13))) = true
    simp [hbit, matchImage_fld, hf, romWordOf]

theorem witness_CoreEvents_match : ∃ m : W32, matchRight m = false := by
  by_contra h
  have r (m : W32) : m = matchImage m := by
    have := (fun x => h ⟨m, x⟩)
    simpa [matchRight] using this
  have one (i : Nat) (hi : 2 ≤ i) : (1 : W32).getLsbD i = (0 : W32).getLsbD i := setFld_high 0 1 i hi
  have k := setFld_same (1 : W32) 0 0 one
  have e : matchImage (1 : W32) = matchImage 0 := by
    rw [matchImage, matchImage, k]
    exact setFld_same _ _ _ one
  have := (r 1).trans (e.trans (r 0).symm)
  simp at this

theorem witness_PatchLoads_matchFail : ∃ m : W32, ({ core0 with matchReg := [(0, m)] } : Core).matchFail = some 0 := by
  obtain ⟨m, h⟩ := witness_CoreEvents_match
  exact ⟨m, by simp [Core.matchFail, h]⟩

theorem witness_RecoverySteps_units :
    (let d : Dev := { devR with outUnits := [(5, thallusOf 255)] }
     (5, thallusOf 255) ∈ d.outUnits) ∧
    (let d : Dev := { devR with outUnits := [(4, frondOf 255)] }
     (5, thallusOf 255) ∉ d.outUnits ∧ (4, frondOf 255) ∈ d.outUnits) ∧ (5, thallusOf 0) ∉ devR.outUnits ∧ (4, frondOf 0) ∉ devR.outUnits ∧
    ((devAt [0] (fun x => { x with returning := true })).core 0).returning = true ∧ ((devAt [0]).core 0).returning = false := by decide +kernel

theorem witness_CoreEvents_waits :
    (∀ r ∈ [RunState.inWait, .inGetw], let d := devAt [] (fun x => { x with run := r, ctimer := 0xFFFF_FFFF })
      d.clocked 0 = true ∧ (d.core 0).ctimer ≠ 0 ∧ (d.core 0).run = r) ∧
    ((devAt []).clocked 0 = true ∧ ((devAt []).core 0).run ≠ .inWait ∧ ((devAt []).core 0).run ≠ .inGetw ∧ ((devAt []).core 0).micro.next = none) ∧
    ((devAt [] (fun x => { x with pendOverrun := true })).core 0).pendOverrun = true ∧ ((devAt []).core 0).pendOverrun = false ∧
    (∀ e ∈ [(7, 8, false), (8, 8, false), (255, 256, true)],
      let x : Core := { core0 with item := some 0, budget := BitVec.ofNat 32 e.2.1, spent := e.1, onGrace := e.2.2 }
      x.item ≠ none ∧ x.inBF = false ∧ x.onGrace = e.2.2 ∧ (x.spent - x.unbilled < x.budget.toNat ↔ e.1 ≠ 8)) ∧
    (let x : Core := { core0 with item := some 0, budget := 3, spent := 3, onGrace := true }
     x.budget.toNat ≤ x.spent - x.unbilled ∧ x.onGrace = true) := by decide +kernel

theorem witness_CoreEvents_overrun :
    (let d : Dev := { devR with qStrike := [(0, 2)] }
     ((d.endOverrun 0).noteStep 1 0 1 1 1 0).strikeMax ≤ SMap.get 0 d.qStrike 0 + 1) ∧
    SMap.get 0 devR.qStrike 0 + 1 < ((devR.endOverrun 0).noteStep 1 0 1 1 1 0).strikeMax := by decide +kernel

theorem witness_HandoverAndEgress_item :
    (∀ r ∈ [(macKey 15 0x100, (0x8000_0000 : W32)), (macKey 15 0x100, 0)],
      let d : Dev := { devR [r, (macKey 15 0x114, 0x8000_0000)] with items := [(0, item0)], egress := [(15, [⟨some 0, 0, [], [], false, false⟩])] }
      nextEgress (SMap.get [] d.egress 15) = some ⟨some 0, 0, [], [], false, false⟩ ∧ (d.portEn 15 = bit r.2 31) ∧ d.portUp 15 = true ∧
        d.item? 0 = some item0 ∧ item0.jen = false) ∧ SMap.get [] devR.egress 0 = [] := by decide +kernel

theorem witness_PinsAndResets_supplies :
    (let d (v : W32) : Dev := { Dev.reset with regs := [(railSts, v)] }
     (d 0x40).board.aon = true ∧ (d 0x40).rbit railSts 6 = true ∧ (d 0x3F).board.aon = true ∧ (d 0x3F).rbit railSts 6 = false) ∧
    ((0x40 : BitVec 7).getLsbD 6 = true ∧ (0x3F : BitVec 7).getLsbD 6 = false) ∧
    (let d : Dev := { Dev.reset with regs := [(railSts, 0x7F)], board := { Board.atPowerOn with pwrok := true, porst := true } }
     d.mayClimb = true ∧ d.board.climb = true ∧ d.board.waiting = false ∧ ({ d with board := { d.board with waiting := true } } : Dev).mayClimb = true) ∧
    Dev.reset.mayClimb = false ∧ ((255 : Nat) < 256 ∧ (15 : Nat) < 16 ∧ (7 : Nat) < 8) := by decide +kernel

theorem witness_TimeAndAlarms_pps :
    devR.datumRuns = true ∧ ({ devR with board := { devR.board with aon := false } } : Dev).datumRuns = false ∧
    ({ devR with board := { devR.board with refclk := false } } : Dev).datumRuns = false ∧
    (let d : Dev := { devR [(datKey 0x128, 0x8000_0064)] with board := { devR.board with ppsAt := some 0 } }
     d.datumRuns = true ∧ d.mode ≠ .datum ∧ d.rbit (datKey 0x128) 31 = true ∧ d.board.ppsAt = some d.mer ∧ ({ d with mer := 1 } : Dev).board.ppsAt ≠ some 1) ∧
    (let d : Dev := { devR with mer := 1_000_000_000 }
     devR.civil / 1_000_000_000 < d.civil / 1_000_000_000) ∧
    (-(2 ^ 95) ≤ devR.civOff * 2 ^ 32 + devR.civFrac + (devR.reg (datKey 0x11C)).toInt * 1000 ∧
      devR.civOff * 2 ^ 32 + devR.civFrac + (devR.reg (datKey 0x11C)).toInt * 1000 < 2 ^ 95) ∧
    (∀ e ∈ devR.cores, e.2.resetDue = false) := by decide +kernel

theorem witness_TimeAndAlarms_wakes :
    (∀ e ∈ [(0, false, true), (1, true, false), (2, false, true), (3, true, false)],
      let d := devR [(railSts, 0x7F), (datKey (0x1C0 + 4 * 3), BitVec.ofNat 32 (2 ^ 31 + e.1 * 2 ^ 29 + 255))]
      d.datumRuns = true ∧ d.ioOn = true ∧ d.rbit (datKey (0x1C0 + 4 * 3)) 31 = true ∧ d.rf (datKey (0x1C0 + 4 * 3)) 29 2 = e.1 ∧
        d.rf (datKey (0x1C0 + 4 * 3)) 0 8 = 255 ∧ (d.ioOn && e.2.1) = e.2.1 ∧ (d.ioOn && e.2.2) = e.2.2) ∧
    (let d : Dev := { Dev.reset with regs := [(railSts, 0x7F)], board := { Board.atPowerOn with porst := true, pwrok := true } }
     d.mode = .datum ∧ d.board.porst = true ∧ d.board.waiting = false ∧ d.board.test = false ∧ d.datumRuns = true ∧ d.railsOk = true) := by decide +kernel

theorem witness_BootStages_limits :
    devCz.boot.ready = true ∧ (devS4 []).boot.ready = false ∧ (devS4 []).boot.s4 = true ∧ (1 : Fin 5) ≠ 0 ∧ (3 : Fin 5) ≠ 4 ∧
    (match devCz.bootS0 State.reset.fuse with
      | some (f1, d1) => (d1.slotTimeout f1 1 0 []).isSome && (d1.slotTimeout f1 2 0 []).isNone && (d1.slotTimeout f1 3 0 []).isNone &&
        (match d1.checkSlot f1 0 [] with
          | (d2, some _) => (d2.slotTimeout f1 1 1 []).isSome && (d2.slotTimeout f1 3 1 []).isNone
          | _ => false)
      | none => false) = true ∧ slotStatus State.reset.fuse [] ≠ none := by decide +kernel

theorem witness_BootCommands_locked :
    (let d : Dev := { devS4 [(0, 4)] with regs := [(PageT.first .ucBcast * 4096 + 0x28, 1)] }
     d.czReads = true ∧ (d.byte czSlot).toNat = 4 ∧ d.rbit (ucKey 0x104) 31 = false ∧ d.rbit (PageT.first .ucBcast * 4096 + 0x28) 0 = true) ∧
    (let d : Dev := { devS4 [(0, 4)] with regs := [(ucKey 0x104, 0x8000_0000)] }
     d.czReads = true ∧ d.rbit (ucKey 0x104) 31 = true) ∧ (devS4 [(0, 4)]).rbit (PageT.first .ucBcast * 4096 + 0x28) 0 = false := by decide +kernel

/-- A ring of eight with both links up. -/
def ring8 : Dev :=
  let l : Link := { Link.down with trained := true, hello := true }
  { ring l l with uk := { (ring l l).uk with topo := 0xFF, known := 0xFF, beats := (List.range 7).map (fun i => (i + 1, 0)) } }

theorem witness_RingControl_passed :
    (∀ t ∈ [3, 4, 5], (ring8.route t).isSome = true) ∧
    (let w := (ring8.route 5).all (fun e => e.1)
     ring8.route 5 = some (w, 3) ∧ (if w then ring8.nextPos ring8.pos else ring8.prevPos ring8.pos) ≠ 5) ∧
    ((ring Link.down).route 3 = none ∧ (ring Link.down).fromDir 3 = none ∧ ring8.fromDir 3 ≠ none ∧ (ring8.link true).trained = true) ∧
    (SMap.find? ring8.uk.topos 3 ≠ some [0] ∧ 3 ≠ ring8.pos ∧ SMap.find? ({ ring8 with uk := { ring8.uk with topos := [(3, [0])] } } : Dev).uk.topos 3 = some [0]) ∧
    SMap.find? ring8.uk.beats 3 = some 0 ∧ SMap.find? (ring Link.down).uk.beats 3 = none := by decide +kernel

theorem witness_RingRetry_next :
    let f (vct : Byte) : Flit := ⟨vct, 0, 1, []⟩
    (let l : Link := { Link.down with trained := true, hello := true, wait := [f 0xA0, f 0x50, f 0x05], sinceBulk := 63 }
     l.pick 2 = some (f 0xA0) ∧ 63 ≤ l.sinceBulk) ∧
    (let l : Link := { Link.down with trained := true, hello := true, wait := [f 0xA0, f 0x50, f 0x05], sinceBulk := 62 }
     l.pick 0 = some (f 0x05) ∧ l.sinceBulk < 63) ∧
    (let l : Link := { Link.down with trained := true, hello := true, wait := [f 0xA0, f 0x50] }
     l.pick 0 = none ∧ l.pick 1 = some (f 0x50)) ∧
    (let l : Link := { Link.down with trained := true, hello := true, wait := [f 0xA0] }
     l.pick 0 = none ∧ l.pick 1 = none ∧ l.pick 2 = some (f 0xA0)) := by decide +kernel

theorem witness_RingMessages_ends :
    (0 : Fin 8).val = ring8.pos ∧ (3 : Fin 8).val ≠ ring8.pos ∧ (ring8.fromDir 5).isSome = true ∧ (ring Link.down).fromDir 5 = none ∧
    (let y := ring8.tookFlits true 2 1
     (y.busWrite State.reset.fuse (.peer 5) 2 0x104 0xF 5).2 = true ∧ (y.busRead State.reset.fuse (.peer 5) 2 0x104).2.isSome = true) := by decide +kernel

theorem witness_HostPort_pages : 2048 + (63 : Fin 64).val < 2304 ∧ bit (0x4000_0000 : W32) 30 = true ∧
    grantOf (devR.reg (rk .gslot 0 (0x100 + 4 * 0x37))) 0 (devR.regReq .host) .write = none := by decide +kernel

theorem witness_HostPort_reads : grantOf (devR.reg (rk .gslot 0 (0x100 + 4 * 0x37))) 0 (devR.regReq .host) .read = none ∧
    (0x7FFC < 2 ^ 15 ∧ 0x7FFC % 4 = 0 ∧ 0x110 ≤ 0x7FFC % 0x200) ∧ (devR.mbx 63).result = none ∧
    ((devR [(rk .gslot 0 (0x100 + 4 * 2), 0)]).busRead State.reset.fuse .host 2 0x104).2 = none := by decide +kernel

theorem witness_BoardPorts_pins :
    (∀ e ∈ [((0 : Byte), Mode.run), (3, .run), (4, .run), (0xFF, .run), (0, .datum)],
      let d : Dev := { devR [(railSts, 0x7F)] with mode := e.2, board := { devR.board with jtag := e.1 } }
      d.ioOn = true ∧ d.mode = e.2 ∧ d.board.jtag = e.1) ∧ devR.ioOn = false ∧
    ((Ball.evtOut 0).isOut = true ∧ (Ball.evtOut 0).openDrain = false) ∧ (balls[0]? = some .porstN ∧ devR.ballLevel .porstN = some false) ∧
    (let d : Dev := { devR with sv := { devR.sv with nonce := some (1, 0) }, board := { devR.board with jtag := 0x10, svNext := 7 } }
     (d.nonceWords[d.board.svNext]?).isSome = true) ∧ (devR.nonceWords[devR.board.svNext]?) = none ∧ balls.length = 35 := by decide +kernel

theorem witness_BoardPorts_pages :
    (let d : Dev := { devR with mode := .survey, survey := some (.standby, 1), board := { devR.board with jtag := 0x20 } }
     d.survey = some (.standby, 1) ∧ pageAt (0xF0_0000_2104 : BitVec 40).toNat = some (2, 0x104) ∧
       (d.busRead State.reset.fuse .debug 2 0x104).2.isSome = true) ∧
    (let d : Dev := { devR [(rk .gslot 0 0x108, 0)] with mode := .survey, survey := some (.standby, 1), board := { devR.board with jtag := 0x20 } }
     (d.busRead State.reset.fuse .debug 2 0x104).2 = none) ∧
    (let d : Dev := { devR with mode := .datum }
     d.mode = .datum) ∧ devR.mode ≠ .datum := by decide +kernel

theorem witness_MemoryCanonical :
    (devS4 [(0, 3)]).memOk ∧ ∃ t, step { on (devS4 [(0, 3)]) with pending := [.regRead] } = .next t := by
  refine ⟨?_, _, rfl⟩
  unfold Dev.memOk
  decide +kernel

/-! ### Witnesses of the clauses that the second review widened -/

theorem witness_BankAccess_traps :
    (let d := devAt (wN 3 11 0) (fun x => { x with bwin := ⟨false, 50, 0⟩ })
     d.standsAt 0 { op := .mfb, n := 2 } ∧ 50 ≤ (d.core 0).bwin.reg.toNat) ∧
    (∀ e ∈ [((48 : BitVec 6), (0 : BitVec 4)), (0, 1), (32, 0), (33, 0)], let d := devAt (wA 3 12 5) (fun x => { x with bwin := ⟨false, e.1, e.2⟩ })
      isAt d 0 { op := .mtb, n := 2, s1 := immOf 5 } = true ∧ (48 ≤ (d.core 0).bwin.reg.toNat ∨ (d.core 0).resident (d.core 0).bwin.bank.toNat = false ∨
        ((d.core 0).bwin.bank.toNat = (d.core 0).cur ∧ ((d.core 0).bwin.reg = 32 ∨ (d.core 0).bwin.reg = 33)))) ∧
    (∀ r ∈ [(5 : BitVec 6), 6], let d := devAt [3 * 512 + 12 * 16, 3 * 2048] (fun x => { x with bwin := ⟨false, r, 0⟩ })
      isAt d 0 { op := .mtb, n := 2, s1 := .x1post } = true ∧ (d.core 0).bwin.bank.toNat = (d.core 0).cur ∧
        Spec.x1post.stepsReg (d.core 0).bwin.reg.toNat = decide (r = 5) ∧ (r = 6 → bankValueOk 6 0 = true ∧ got ((srcBin 0 .x1post 8).run (d.begun 0)) (fun v _ => v == 0) = true)) :=
  ⟨⟨stands (by decide +kernel), by decide +kernel⟩, by decide +kernel, by decide +kernel⟩

theorem witness_SwapCycle_fields :
    (∀ c, c < 64 → ∀ o ∈ [0, 4, 8], devR.copyShadow.reg (chKey c o) = devR.reg (chKey c o)) ∧
    (let d : Dev := { devR with shadow := [(grKey 0x104, 0x325F)] }
     (d.copyShadow.rf (grKey 0x104) 8 8 < d.copyShadow.rf (grKey 0x104) 0 8) ∧ ¬ (devR.copyShadow.rf (grKey 0x104) 8 8 < devR.copyShadow.rf (grKey 0x104) 0 8)) ∧
    (let d := devR (chain63 0 0)
     d.rbit (chKey 63 0) 31 = true ∧ d.chState 63 = 0 ∧ d.reg (chKey 63 0) ≠ devR.reg (chKey 63 0) ∧ (d.chain 63).drained = false ∧
       devR.rbit (chKey 63 0) 31 = false) ∧
    ((0x20_0001 : Nat) ≠ swapSts ∧ 0x20_0001 / 4096 ≠ 2) := by decide +kernel

theorem witness_DmaSteps_lost :
    (let d : Dev := { devR with dma := [(1007, run0)] }
     SMap.find? d.dma 1007 = some run0 ∧ d.rangeTouches 0 run0.dst run0.len = true ∧ d.rangeTouches 3 run0.dst run0.len = false) := by decide +kernel

theorem witness_PowerDomains_beside :
    (∀ o ∈ [(2 : Nat), 0x27], let d : Dev := { devR with pdNow := some 3 }
     d.pdNow = some 3 ∧ 3 ∈ domains ∧ o ∈ domains ∧ o ≠ 3 ∧ (2 ^ domBit 3 + 2 ^ domBit o : Nat) &&& 0x00FF_010F = 2 ^ domBit 3 + 2 ^ domBit o ∧
       d.rbit pdSts (domBit o) = true ∧ d.writable .host (PageT.first .power) 0x100 = true) := by decide +kernel

theorem witness_DeepStore_training :
    (∀ m ∈ [Mode.standby, .survey, .safe], let d : Dev := { devR [(dsSts, 0x4000_0000)] with mode := m }
      d.rbit dsSts 30 = true ∧ d.mode ∈ [Mode.standby, .survey, .safe] ∧ d.rbit modeSts 20 = false) ∧
    (∀ i ∈ [true, false], let d : Dev := { devR [(dsSts, 0x4000_0000), (modeSts, 0x0010_0000), (rk .dstore 0 0x110, if i then 0x4000_0000 else 0)] with mode := .standby }
      d.mode = .standby ∧ d.rbit modeSts 20 = true ∧ d.intlv = i) ∧ devR.rbit dsSts 30 = false := by decide +kernel

theorem witness_ModeRequests_drain :
    (let d : Dev := { devR with mode := .drain, drain := .streaming 7 }
     d.writable .host (PageT.first .mode) 0x104 = true ∧ d.mode = .drain ∧ d.drain ≠ .none) ∧
    (∀ u ∈ [[], [(5, 3)]], ({ devR with mode := .drain, outUnits := u } : Dev).faultOut = (u != [])) := by decide +kernel

theorem witness_BootCommands_images : (({ devS4 [(0, 4)] with cores := [(0, { core0 with brImage := [0] })] } : Dev).core 0).brImage ≠ [] := by
  decide +kernel

theorem witness_RingControl_links :
    (∀ v ∈ [(0x8000_710A : Nat), 0x8000_740A, 0x8000_770A - 0x100, 0x0000_000A], let w : W32 := BitVec.ofNat 32 v
      fld w 0 8 ≠ 0 ∧ (bit w 14 = false ∨ bit w 10 = false ∨ fld w 12 2 ≠ fld w 8 2)) ∧
    (let l : Link := { Link.down with trained := true, hello := true }
     let d : Dev := { ring l l with regs := [(ukKey 0x100, 0x8000_750A)] }
     d.writable .host (PageT.first .uaska) 0x100 = true ∧ d.dirGroup false = some 3 ∧ d.dirGroup true = some 1 ∧ (d.link false).trained = true ∧
       d.dirGroup false ≠ (d.setReg (ukKey 0x100) 0x8000_650A).dirGroup false ∧ d.dirGroup true = (d.setReg (ukKey 0x100) 0x8000_650A).dirGroup true ∧
       d.lgMode 3 ≠ 5 ∧ (Link.down).trained = false) ∧
    (let d := { ring8 with uk := { ring8.uk with topos := [(3, [0])] } }
     SMap.find? d.uk.topos 3 ≠ none ∧ SMap.find? d.uk.topos 5 = none ∧ SMap.find? d.uk.topos (d.nextPos 5) = none ∧ d.prevPos 4 = 3) := by decide +kernel

theorem witness_RingRetry_acked :
    let f : Flit := ⟨0, 0, 15, []⟩
    let l : Link := { Link.down with trained := true, hello := true, replay := [(4094, f), (4095, f), (0, f)] }
    (l.replay[1]? = some (4095, f) ∧ ∀ i g, i < 1 → l.replay[i]? = some g → g.1 ≠ 4095) ∧ (∀ g ∈ l.replay, g.1 ≠ 5) ∧
    (∀ c, c < 4 → (BitVec.ofNat 8 (c * 64 + 63)).toNat / 64 = c) ∧
    ((0x0008 : BitVec 16).getLsbD 3 = true ∧ (0xFFF0 : BitVec 16).getLsbD 3 = false) ∧
    (∀ n ∈ [7, 8], let d := ring { l with tries := n }
      (d.link true).trained = true ∧ (d.link true).replay ≠ [] ∧ (d.link true).tries = n ∧ (d.link true).up = true) ∧ (ring Link.down).link true = Link.down ∧
    (({ l with wait := [⟨0x50, 0, 1, []⟩] } : Link).nextFlit = some ⟨0x50, 0, 1, []⟩ ∧ vcOf 0x50 < 3 ∧ l.nextFlit = none ∧
      ({ l with wait := [⟨0x50, 0, 1, []⟩] } : Link).pick 1 = some ⟨0x50, 0, 1, []⟩) := by
  refine ⟨⟨rfl, ?_⟩, by decide +kernel, by decide +kernel, by decide +kernel, by decide +kernel, by decide +kernel, by decide +kernel⟩
  intro i g hi h
  obtain rfl : i = 0 := by omega
  obtain rfl := Option.some.inj h
  decide

/-- The header of an entry of chain 0 from device 7 with no text, and its record after H(n − 1) of zeros. -/
def entryOf7 : List Byte := entryHeader 0x4A45 0 7 0 0 1 0 0 (sha256 [])
def msgOf7 : List Byte := zeros 32 ++ entryRecord entryOf7 [] (sha256 (zeros 32 ++ entryOf7)) 1

/-- A device with a replica ring of 64 KiB for device 7 and what it holds of its chain 0. -/
def devRep (l : SMap W32) (held : List (Nat × List Byte)) : Dev :=
  { devR ([(ukKey 0x108, 0xFF), (repKey 7 4, 1), (dsSts, 0x8000_0000)] ++ l) with cairn := { devR.cairn with reps := [(64 * 7, held)] } }

theorem witness_RingMessages_kept :
    (slice msgOf7 32 64 = entryOf7 ∧ sha256 (slice msgOf7 96 (beAt entryOf7 6 2)) = slice entryOf7 32 32 ∧
      slice msgOf7 (96 + (beAt entryOf7 6 2 + 63) / 64 * 64) 32 = sha256 (slice msgOf7 0 32 ++ entryOf7)) ∧
    (slice (msgOf7.set 100 1) (96 + (beAt entryOf7 6 2 + 63) / 64 * 64) 32 ≠ sha256 (slice msgOf7 0 32 ++ entryOf7)) ∧
    (devRep [] []).rbit (ukKey 0x108) 7 = true ∧ msgOf7.length = 160 ∧ beAt entryOf7 2 1 = 0 ∧ beAt entryOf7 8 8 = 1 := by decide +kernel

theorem witness_RingMessages_rings :
    (∀ h ∈ [[], [(0, zeros 32)], [(0, [])]], SMap.get [] (devRep [] h).cairn.reps (64 * 7 + 0) = h) ∧
    (let d := devRep [] [(0, zeros 32)]
     let recs := [slice msgOf7 32 128]
     replicaNeed 65536 (d.reg (repKey 7 8)).toNat recs < ringFree 65536 (d.reg (repKey 7 8)).toNat (d.reg (repKey 7 12)).toNat ∧
       (d.writeReplica 7 recs).2 = true ∧ ((d.writeReplica 7 recs).1.reg (repKey 7 8)).toNat = 128 ∧
       (match (d.writeReplica 7 recs).1.fabRead cairnReq 0 128 with
         | (_, .ok bs) => bs.length == 128
         | _ => false) = true) ∧
    (let d := devRep [(rk .gate 0 0x100, 0)] []
     let recs := [zeros 64, slice msgOf7 32 128]
     replicaNeed 65536 0 recs < ringFree 65536 0 0 ∧ (d.writeReplica 7 recs).2 = false) ∧
    ((devRep [(repKey 7 8, 64)] []).reg (repKey 7 12) = 0 ∧ ¬ replicaNeed 65536 64 [zeros 64, zeros 128] < ringFree 65536 64 128) := by decide +kernel

/-- Item 0 of a device as a commit of chain 0 that asks for one partner. -/
def commit0 : Item := { item0 with phase := .commit, rep := 1, mem := 0xFF, jseq := 1, src := .post none }

theorem witness_RingMessages_commits :
    (let d : Dev := { devR (chain63 1 0 ++ [(dsSts, 0x8000_0000)]) with items := [(0, { item0 with phase := .texts, chain := 63, rep := 1 })] }
     63 < 64 ∧ d.chState 63 ≠ 0 ∧ d.item? 0 = some { item0 with phase := .texts, chain := 63, rep := 1 } ∧
       (d.ringWrite (d.chBase 63) (d.chSize 63) (d.chWr 63) (zeros 128)).2 = some 128) ∧
    (∀ oks ∈ [[], [3]], let d : Dev := { ring8 with items := [(0, { commit0 with oks := oks })] }
      d.item? 0 = some { commit0 with oks := oks } ∧ partnersNeeded 1 = 1 ∧ (oks.filter (d.liveIn 0xFF)).length = oks.length) ∧
    1 ∈ ring8.partnersIn 0xFF 1 ∧
    (let d : Dev := { ring8 with items := [(0, commit0)] }
     (d.itemsWhere (fun x => x.phase == .commit && x.chain == 0 && x.jseq == 1)).head? = some (0, commit0) ∧ d.liveIn 0xFF 3 = true ∧
       d.liveIn 0xFF 0 = false) := by decide +kernel

theorem witness_HostPort_config :
    (∀ u ∈ [true, false], let d : Dev := { devR with pci := { devR.pci with up := u } }
      d.mode ≠ .datum ∧ d.pci.up = u) ∧ (0xFFC < 4096 ∧ 0xFFC % 4 = 0 ∧ (zeros 4).length = 4) ∧
    (∀ e ∈ [(3, 3), (0xFC, 0)], fld (BitVec.ofNat 32 (ofBytes ([BitVec.ofNat 8 e.1, 0, 0, 0] : List Byte).reverse)) 0 2 = e.2) ∧
    fld (BitVec.ofNat 32 (ofBytes ([0x40, 1, 0, 0] : List Byte).reverse)) 5 3 = 2 ∧
    ({ devR with pci := ⟨true, true, true, false, 3, 8, 128, false, [], 0, 0, [], [2047], []⟩ } : Dev).pci.msixMask = true ∧ (0x104 % 4 = 0 ∧ 0x1FC % 4 = 0) := by
  decide +kernel

/-- A response with the fields that the checks of Survey want, apart from its key and signature. -/
def svFields (rights : Byte) (secs : List Byte) : List Byte := [0x41, 0x4B, 0x53, 0x56, 0, 1, 0, rights] ++ zeros 40 ++ secs ++ zeros 44

theorem witness_AttestAndSurvey_checks :
    (∀ n ∈ [0, 1988], let d : Dev := { devR with mode := .standby, sv := { devR.sv with words := List.replicate n 0 } }
      d.mode = .standby ∧ d.inTransit = false ∧ State.reset.fuse.surveyDis = false ∧ d.sv.words.length = n) ∧
    ({ State.reset.fuse with surveyDis := true } : Fuses).surveyDis = true ∧ devR.mode ≠ .standby ∧ devR.mode ≠ .safe ∧
    (∀ e ∈ [((15 : Byte), [(0 : Byte), 1, 0x51, 0x80]), (0, [0, 0, 0, 1])], let r := svFields e.1 e.2
      beAt r 0 4 = 0x414B5356 ∧ beAt r 4 2 = 1 ∧ beAt r 6 2 < 16 ∧ 1 ≤ beAt r 0x30 4 ∧ beAt r 0x30 4 ≤ 86400 ∧ beAt r 0x34 12 = 0) ∧
    (∀ e ∈ [((16 : Byte), [(0 : Byte), 0, 0, 1]), (0, [0, 0, 0, 0]), (0, [0, 1, 0x51, 0x81])], let r := svFields e.1 e.2
      ¬(beAt r 0 4 = 0x414B5356 ∧ beAt r 4 2 = 1 ∧ beAt r 6 2 < 16 ∧ 1 ≤ beAt r 0x30 4 ∧ beAt r 0x30 4 ≤ 86400 ∧ beAt r 0x34 12 = 0)) := by decide +kernel

theorem witness_BoardPorts_rights :
    (∀ r ∈ [0, 7], let d : Dev := { devR with mode := .survey, survey := some (.standby, r) }
      d.survey = some (.standby, r) ∧ (r % 2 = 0 ∨ r / 2 % 2 = 1 ∧ r / 4 % 2 = 1) ∧ d.rangeFault (0x40_0000_0000 : BitVec 40).toNat 4 = none) ∧
    (let d : Dev := { devR [(rk .gate 1 0x100, 0)] with mode := .survey, survey := some (.standby, 15), board := { devR.board with jtag := 0x20 } }
     match d.fabRead (d.regReq .debug) 0x40_0000_0000 4 with
       | (_, .error _) => True
       | _ => False) ∧
    (let d : Dev := { devR with mode := .survey, survey := some (.run, 15), cores := [(0, core0)] }
     d.survey = some (.run, 15) ∧ d.coreHeld false 0 = false ∧ (d.core 0).run ≠ .stopped) ∧ (8 < (9 : BitVec 4).toNat ∧ 50 ≤ (50 : BitVec 6).toNat) := by
  refine ⟨by decide +kernel, ?_, by decide +kernel, by decide +kernel⟩
  exact trivial

/-- Rule 127 of Rhizoid: raw frames of port 15 of EtherType 0x88B5, F at offset 0 of the payload, shifted by 12. -/
def devRule : Dev :=
  devR [(rk .rzRules 0 (0x100 + 16 * 127), 0x8000_8000), (rk .rzRules 0 (0x104 + 16 * 127), 0x88B5_0000),
    (rk .rzRules 0 (0x10C + 16 * 127), BitVec.ofNat 32 (12 * 65536 + 15)), (rk .rz 0 0x100, 5 * 65536), (rk .rz 0 (0x140 + 4 * 15), 0x0001_0001)]

/-- A raw frame with a payload. -/
def rawFrame (pl : List Byte) : List Byte := List.replicate 12 0xFF ++ [0x88, 0xB5] ++ pl

theorem witness_ItemPath_frames :
    (∀ pl ∈ [[0xF0, 0], [0xF0]], let f := rawFrame pl
      (ipView (parseEth f)).sumOk = true ∧ (ipView (parseEth f)).ext = false ∧ devRule.ruleHolds 15 (parseEth f) (ipView (parseEth f)) 127 = true ∧
        (∀ i, i < 127 → devRule.ruleHolds 15 (parseEth f) (ipView (parseEth f)) i = false) ∧ beAt f 12 2 ≠ 0x8100) ∧
    (∀ i, i < 128 → devR.ruleHolds 15 (parseEth (rawFrame [])) (ipView (parseEth (rawFrame []))) i = false) ∧
    (let f := List.replicate 12 0xFF ++ [0x08, 0] ++ [0x45] ++ zeros 19
     (ipView (parseEth f)).sumOk = false) ∧
    SMap.get 0 devRule.rzUsed 15 < devRule.rf (rk .rz 0 (0x140 + 4 * 15)) 16 8 ∧
    ({ devRule with rzUsed := [(15, 1)] } : Dev).rf (rk .rz 0 (0x140 + 4 * 15)) 16 8 ≤ SMap.get 0 [(15, 1)] 15 := by decide +kernel

theorem witness_ItemPath_tests :
    let x : Item := { item0 with roff := some 0 }
    let d := devQ x
    let p : Item := { x with src := .port 0 0 [] }
    let e (l : SMap W32) : Dev := { d with regs := l ++ d.regs }
    (4 ≤ d.uOf 0 ∧ 1 ≤ d.mOf 0 ∧ d.fencedOut 0 = false ∧ d.ctEn 0 = true ∧ 0 ∈ d.qOpen ∧ d.rbit (qsKey 0 0) 31 = false ∧ d.ctJen 0 = false ∧
      d.ctRep 0 = 0 ∧ x.plen ≤ d.ctPaymax 0 ∧ d.outQ 0 < d.ctQdepth 0 ∧ SMap.find? d.migr 0 = none) ∧
    d.firstRefusal { x with plen := 65 } = some 10 ∧
    ({ d with items := d.items ++ [(1, { x with phase := .admitted })] } : Dev).firstRefusal x = some 5 ∧
    (e [(ctKey 0 0, 0x8001_0040)]).ctRep 0 = 1 ∧ (e [(ctKey 0 0, 0x8001_0040)]).firstRefusal x = some 9 ∧
    ({ d with cores := [] } : Dev).firstRefusal x = some 8 ∧ (e [(grKey 0x140, 0)]).firstRefusal p = some 3 ∧
    d.firstRefusal p = some 4 ∧ (e [(frKey 0 0, BitVec.ofNat 32 (4 * 65536))]).firstRefusal x = some 1 := by decide +kernel

theorem witness_ItemPath_texts :
    (∀ v ∈ [(0 : Nat), 2 ^ 62, 2 ^ 63 + 2 ^ 26], let x : Item := { item0 with phase := .done, done := BitVec.ofNat 64 v, core := some 0 }
      let d := devQ x
      d.item? 0 = some x ∧ x.phase = .done ∧ bit x.done 62 = decide (v = 2 ^ 62) ∧ bit x.done 63 = decide (2 ^ 63 ≤ v) ∧
        (match (drainAll 0 d).fabRead (egressReq 0) (frondBase 0 + stageOff 0) 16 with
          | (_, .ok bs) => bs.length == 16
          | _ => false) = true) ∧
    (let d := { devQ item0 with regs := (rk .gate 5 0x100, 0) :: (devQ item0).regs }
     (match d.fabRead (egressReq 0) (frondBase 0 + stageOff 0) 16 with
       | (_, .error _) => true
       | _ => false) = true) := by decide +kernel

theorem witness_PatchLoads_ends :
    (let y : Dev := { devAt [0] with cores := [(0, ucore [0x4_7402_0000])] }
     (y.core 0).wdog + (y.core 0).spent < 4096 ∧ (match microStep y 0 0 0x2000 with
       | (.raised code sub p w, z) => code == 2 && sub == 0 && p == 0x2000 && w == 0x4_7402_0000 && (z.core 0).micro.failed == none
       | _ => false) = true) ∧
    (let i : Dec := { op := .rrAdd, n := 2, gd := 1, ga := 2, gb := 3 }
     let z := devAt [0] (inMode 1)
     opidOf i.op = none ∧ (∀ e ∈ (z.core 0).microSteps i, e = none) ∧ setsDsticky i.op = false ∧ setsFlags i.op = false ∧ (z.core 0).micro.delay = none) ∧
    (∀ x ∈ [core0], x.matchReg = []) := by decide +kernel

/-- A match register that holds a ROM address, enabled, of patch RAM word 0. -/
def matchOn (a : BitVec 13) : W32 := matchImage (BitVec.ofNat 32 (2 ^ 31 + a.toNat * 2 ^ 18))

theorem matchOn_at (a : BitVec 13) : bit (matchOn a) 31 = true ∧ fld (matchOn a) 18 13 = a.toNat ∧ fld (matchOn a) 9 9 = 0 := by
  have ha := a.isLt
  have f (lo w : Nat) (h : 2 ≤ lo) := matchImage_fld (BitVec.ofNat 32 (2 ^ 31 + a.toNat * 2 ^ 18)) lo w h
  have e : fld (matchOn a) 31 1 = 1 := by rw [matchOn, f 31 1 (by omega)]; simp only [fld, BitVec.toNat_ofNat]; omega
  refine ⟨?_, ?_, ?_⟩
  · simpa [fld, bit, BitVec.getLsbD, Nat.testBit, Nat.shiftRight_eq_div_pow] using e
  · rw [matchOn, f 18 13 (by omega)]; simp only [fld, BitVec.toNat_ofNat]; omega
  · rw [matchOn, f 9 9 (by omega)]; simp only [fld, BitVec.toNat_ofNat]; omega

/-- An entry that a match register redirects. -/
theorem witness_TrapEntry_patched : ∃ d : Dev, (d.core 0).cur ≠ 8 ∧ (d.core 0).trapPatched 2 = true := by
  obtain ⟨hb, hf, _⟩ := matchOn_at (Config.romTrap (BitVec.ofNat 5 2))
  generalize matchOn (Config.romTrap (BitVec.ofNat 5 2)) = m at hb hf
  refine ⟨devAt [] (fun x => { x with matchReg := [(0, m)] }), (by decide : (0 : Nat) ≠ 8), ?_⟩
  show List.any [(0, m)] (fun (e : Nat × W32) => bit e.2 31 &&
    (BitVec.ofNat 13 (fld e.2 18 13) == Config.romTrap (BitVec.ofNat 5 2) || Config.romTrapUses (BitVec.ofNat 5 2) (BitVec.ofNat 13 (fld e.2 18 13)))) = true
  simp [hb, hf]

/-- A RETIRE and a TRAPPT of a sequence, with and without an interrupt that is due. -/
theorem witness_TrapEntry_words :
    (let y : Dev := { devAt [0] with cores := [(0, ucore [0x0_6C00_0000])] }
     (y.core 0).wdog + (y.core 0).spent < 4096 ∧ (microStep y 0 (roundMode (y.core 0) 0) 0x2000).1 = .retire) ∧
    (∀ e ∈ [(false, none), (true, some 18)], let y : Dev := { devAt [0] with cores := [(0, cswBy (fun w => { w with imask := 0 }) { ucore [0x8_7000_0000] with pendFast := e.1 })] }
     let r := microStep y 0 (roundMode (y.core 0) 0) 0x2000
     let z := accountCore 0 (r.2.modCore 0 (fun x => { x with micro := { x.micro with ltp := 0x2000 } }))
     let w := saveMicro 0 (fld ((z.core 0).microRead 0x2000) 11 5) z
     (y.core 0).wdog + (y.core 0).spent < 4096 ∧ r.1 = .point 0x2000 0 ∧ asyncDue z 0 = e.2 ∧ (w.core 0).trapPatched 18 = false) := by
  decide +kernel

/-- Chain 63 open, with Cairn's gate as `v` grants it. -/
def devSeal (v : W32) : Dev := devR (chain63 1 0 ++ [(dsSts, 0x8000_0000), (rk .gate 0 0x100, v)])

theorem witness_CairnCommands_readsBack :
    let d := devSeal 0x807F_003F
    let r := d.ringWrite (d.chBase 63) (d.chSize 63) (d.chWr 63) (zeros 128)
    63 < 64 ∧ d.chState 63 ≠ 0 ∧ r.2 = some 128 ∧ (match r.1.fabRead cairnReq (d.chBase 63 + 128 - 128) 128 with
      | (_, .ok bs) => bs.length == 128
      | (_, .error _) => false) = true := by decide +kernel

theorem witness_CairnCommands_noBack :
    let d := devSeal 0x807F_003B
    let r := d.ringWrite (d.chBase 63) (d.chSize 63) (d.chWr 63) (zeros 128)
    d.chState 63 ≠ 0 ∧ r.2 = some 128 ∧ (match r.1.fabRead cairnReq (d.chBase 63 + 128 - 128) 128 with
      | (_, .ok _) => false
      | (_, .error _) => true) = true := by decide +kernel

theorem witness_CairnCommands_lost :
    (let x : Item := { itemRun with jen := true, chain := 63 }
     let d : Dev := { devR with items := [(0, x)], nextItem := 1 }
     d.item? 0 = some x ∧ 0 < d.nextItem ∧ x.jen = true ∧ x.chain = 63 ∧ x.phase ∈ [Phase.admitted, .ready, .handed, .running]) ∧
    devR.chState 0 = 0 ∧ ({ item0 with jlost := true } : Item).jlost = true ∧ item0.jlost = false ∧
    (let d := devSeal 0
     (d.ringWrite (d.chBase 63) (d.chSize 63) (d.chWr 63) (zeros 128)).2 = none) := by decide +kernel

theorem witness_RingMessages_noRing :
    (devR.rf (repKey 7 4) 0 16 = 0 ∧ (devRep [] []).rf (repKey 7 4) 0 16 = 1) ∧
    (let d := devSeal 0x807F_003F
     let r := d.ringWrite (d.chBase 63) (d.chSize 63) (d.chWr 63) (zeros 128)
     (r.1.ringBack (d.chBase 63) (d.chSize 63) 128 128).2 = true) := by decide +kernel

theorem witness_ProtectionPages_fills :
    fld (0xBD3F_FFFF : W32) 24 2 ≠ 3 ∧ fld (0x8300_0000 : W32) 24 2 = 3 ∧
    (let d := devR [(skKey 0x104, 0x0400_0000), (skKey 0x108, 0)]
     d.fill = none ∧ d.writable .host (PageT.first .skey) 0x110 = true ∧ bit (0x803F_FFFF : W32) 31 = true) ∧
    (tierOf 0x3_FFFF_F000).map Tier.region ≠ (tierOf (0x3_FFFF_F000 + 4096 * fld (0x8000_0001 : W32) 0 22)).map Tier.region ∧
    tierOf 0x10_0000_0000 = none ∧ ({ devR with fill := some ⟨0, 1, 1⟩ } : Dev).fill ≠ none := by decide +kernel

theorem witness_ModeRequests_training :
    (let d : Dev := { devR [(dsSts, 0x4001_0000)] with mode := .standby }
     d.writable .host (PageT.first .mode) 0x104 = true ∧ d.inTransit = false ∧ d.rf dsSts 16 8 ≠ 0 ∧ d.intlv = false ∧ d.rbit dsSts 30 = true) ∧
    (let d : Dev := { devR [(dsSts, 0x4001_0000), (rk .dstore 0 0x110, 0x4000_0000)] with mode := .standby }
     d.inTransit = false ∧ d.intlv = true ∧ d.rbit dsSts 30 = true) := by decide +kernel

theorem witness_TimeAndAlarms_unsensed :
    (Dev.reset.mode = .datum ∧ Dev.reset.ioOn = false ∧ Dev.reset.board.porst = false ∧ Dev.reset.board.waiting = false) ∧
    (let d : Dev := { Dev.reset with regs := [(railSts, 0x40)] }
     d.mode = .datum ∧ d.ioOn = true ∧ d.board.porst = false) := by decide +kernel

theorem witness_HostPort_receivers :
    (devR.rbit railSts 5 = false ∧ devR.board.aon = true ∧ ({ devR with board := { devR.board with aon := false } } : Dev).board.aon = false) ∧
    (let d := devR [(railSts, 0x20), (lgKey 3 0x100, 0x0005_0000)]
     d.board.aon = true ∧ d.mode ≠ .datum ∧ d.rbit railSts 5 = true ∧ d.lgMode (15 / 4) ≠ 0 ∧ d.lgMode (11 / 4) = 0) := by decide +kernel

theorem witness_BoardPorts_safe : let d : Dev := { devR with mode := .survey, survey := some (.safe, 15), cores := [(0, core0)] }
    d.survey = some (.safe, 15) ∧ 15 / 4 % 2 = 1 ∧ d.coreHeld false 0 = false ∧ (d.core 0).run = .running := by decide +kernel

theorem witness_RingControl_back :
    (let d := { ring8 with uk := { ring8.uk with topos := [(3, [0])] } }
     SMap.find? d.uk.topos 4 = none ∧ SMap.find? d.uk.topos 5 = none ∧ SMap.find? d.uk.topos (d.nextPos 5) = none ∧ 5 ≠ d.prevPos 4 ∧
       SMap.find? d.uk.topos 3 ≠ none) := by decide +kernel

theorem witness_CoreEvents_paid : ∀ b ∈ [true, false], let x : Core := { core0 with paid := b, spent := 3, item := some 0, budget := 3 }
    x.item ≠ none ∧ x.inBF = false ∧ x.onGrace = false ∧ (if x.paid then 0 else x.spent) - x.unbilled = (if b then 0 else 3) ∧ x.trapPatched 16 = false := by
  decide +kernel

theorem witness_ItemPath_fence :
    (devR [(rk .power 0 0x108, 0x8000_0000)]).rbit (rk .power 0 0x108) 31 = true ∧
    (let d : Dev := { devR [(ctKey 8191 0x10, 0x8000_0001), (qsKey 8191 0, 0)] with qOpen := [8191] }
     d.makesItems = true ∧ d.rbit (rk .power 0 0x108) 31 = false ∧ 8191 ∈ d.qOpen ∧ bit (d.reg (ctKey 8191 0x10)) 31 = true ∧ 31 ≠ d.qFrond 8191 ∧
       d.outQ 8191 = 0 ∧ SMap.find? d.migr 8191 = none) := by decide +kernel

/-! ### The kernel runs the machine -/

theorem test_idle_tick : (match step State.reset with
    | .next t => t.dev.mer
    | _ => 0) = 1000 := by decide +kernel

theorem test_add : (match exec (.add 0) (on (devAt (wA 1 2 0x7FF) (withG [(4, 1)]))) with
    | .next t => ((t.dev.core 0).g 4, (t.dev.core 0).cb.pc)
    | _ => (1, 1)) = (0, 2) := by decide +kernel

theorem test_other_command_waits : (match exec (.sub 0) (on (devAt (wA 1 2 1))) with
    | .next t => decide (t = on (devAt (wA 1 2 1)))
    | _ => false) = true := by decide +kernel

theorem test_illegal_trap : (match exec (.nop 0) (on (devAt [0x1FF])) with
    | .next t => ((t.dev.core 0).cb.pc, (t.dev.core 0).cb.tcause)
    | _ => (0, 0)) = (8, 0x0800_0000) := by decide +kernel

/-- SHA-256 of "abc" (FIPS 180-4). -/
theorem test_sha : (sha256 [0x61, 0x62, 0x63]).take 8 = [0xBA, 0x78, 0x16, 0xBF, 0x8F, 0x01, 0xCF, 0xEA] := by decide +kernel

end Sys2Proof.Tests
end

section
/-!
PROOFS. The captures of the gate and slot pages (10 R286): what a denied part's record leaves in the capture of its page, and what a write of
the capture's status clears.
-/
namespace Sys2Proof.Machine

/-! ### Fields set or cleared -/

theorem setFld_one (x : W32) (i : Nat) : setFld x i 1 1 = x ||| BitVec.ofNat 32 (2 ^ i) := by
  ext j hj
  simp only [setFld, BitVec.getElem_or, BitVec.getElem_and, BitVec.getElem_not, pow_one, Nat.reduceSub, Nat.reduceMod, one_mul]
  cases x[j] <;> simp

theorem setFld_zero (x : W32) (lo w : Nat) : setFld x lo w 0 = x &&& ~~~BitVec.ofNat 32 ((2 ^ w - 1) * 2 ^ lo) := by
  simp [setFld]

/-! ### Registers set one after another -/

theorem Dev.reg_setRegs_of_outside (d : Dev) (k j : Nat) (ws : List W32) (h : j < k ∨ k + 4 * ws.length ≤ j) :
    (d.setRegs k ws).reg j = d.reg j := by
  induction ws generalizing d k with
  | nil => rfl
  | cons v t ih =>
    rw [List.length_cons] at h
    rw [Dev.setRegs, ih _ _ (by omega), Dev.reg_setReg, if_neg (by omega)]

theorem Dev.reg_setRegs_at (d : Dev) (k i : Nat) (ws : List W32) (h : i < ws.length) : (d.setRegs k ws).reg (k + 4 * i) = ws.getD i 0 := by
  induction ws generalizing d k i with
  | nil => simp at h
  | cons v t ih =>
    cases i with
    | zero => rw [Dev.setRegs, Dev.reg_setRegs_of_outside _ _ _ _ (by omega)]; simp
    | succ i =>
      rw [Dev.setRegs, show k + 4 * (i + 1) = k + 4 + 4 * i by omega, ih _ _ _ (by simpa using h), List.getD_cons_succ]

/-! ### Messages, page interrupts and the violation log -/

@[simp] theorem Dev.reg_sendMsix (d : Dev) (v k : Nat) : (d.sendMsix v).reg k = d.reg k := by
  unfold Dev.sendMsix
  split
  · rfl
  · split <;> rfl

theorem Dev.reg_raiseIrq_of_ne (d : Dev) (page bits k : Nat) (h : k ≠ page * 4096 + 0x10) : (d.raiseIrq page bits).reg k = d.reg k := by
  unfold Dev.raiseIrq
  dsimp only
  split <;> simp [h]

/-- A record entered in GATELOG changes registers of the GATELOG page only (R287). -/
theorem Dev.reg_gateLog_of_page_ne (d : Dev) (ws : List W32) (k : Nat) (hws : ws.length = 4) (h : k / 4096 ≠ 0xA) :
    (d.gateLog ws).reg k = d.reg k := by
  have hpage : PageT.first .gatelog = 0xA := rfl
  have hslot (n : Nat) : n % 64 < 64 := Nat.mod_lt _ (by decide)
  simp only [Dev.gateLog, rk, hpage]
  split
  · rw [Dev.incRf, Dev.reg_setRf, if_neg (by omega)]
  · specialize hslot (d.rf ((0xA + 0) * 4096 + 0x500) 0 16)
    rw [Dev.reg_raiseIrq_of_ne _ _ _ _ (by omega), Dev.reg_setRf, if_neg (by omega), Dev.reg_setRegs_of_outside _ _ _ _ (by omega)]

/-! ### A record at a capture -/

/-- While no record is held, a record is held and marked VALID. -/
theorem Dev.capture_first (d : Dev) (cap : Nat) (ws : List W32) (hws : ws.length = 4) (h : d.rbit (cap + 0x10) 31 = false) :
    (d.capture cap (cap + 0x10) ws).reg (cap + 0x10) = d.reg (cap + 0x10) ||| 0x80000000 ∧
      ∀ i, i < 4 → (d.capture cap (cap + 0x10) ws).reg (cap + 4 * i) = ws.getD i 0 := by
  simp only [Dev.capture, h, Bool.false_eq_true, if_false, Dev.reg_setRf, if_true]
  refine ⟨?_, fun i hi => ?_⟩
  · rw [Dev.reg_setRegs_of_outside _ _ _ _ (by omega), setFld_one]; rfl
  · rw [if_neg (by omega), Dev.reg_setRegs_at _ _ _ _ (by omega)]

/-- While a record is held, another only sets OVF. -/
theorem Dev.capture_later (d : Dev) (cap : Nat) (ws : List W32) (h : d.rbit (cap + 0x10) 31 = true) :
    (d.capture cap (cap + 0x10) ws).reg (cap + 0x10) = d.reg (cap + 0x10) ||| 0x40000000 ∧
      ∀ i, i < 4 → (d.capture cap (cap + 0x10) ws).reg (cap + 4 * i) = d.reg (cap + 4 * i) := by
  simp only [Dev.capture, h, if_true, Dev.reg_setRf]
  exact ⟨setFld_one .., fun i hi => if_neg (by omega)⟩

/-- The first capture register of a gate's page, or of the slot page that holds a page's slot. -/
def captureKey (slot : Bool) (gate : Nat) : Nat := if slot then rk .gslot (gate / 512) 0x900 else rk .gate gate 0x210

theorem Dev.violation_eq (d : Dev) (r : Req) (a : Acc) (den : Denial) (slot : Bool) (gate addr : Nat) :
    d.violation r a den slot gate addr =
      (d.capture (captureKey slot gate) (captureKey slot gate + 0x10) (violationWords d r a den slot gate addr)).gateLog
        (violationWords d r a den slot gate addr) := by
  cases slot <;> rfl

/-- The captures lie on gate and slot pages, never on the GATELOG page. -/
theorem captureKey_page_ne (slot : Bool) (gate o : Nat) (hg : gate < (if slot then 2048 else 549)) (ho : o ≤ 0x10) :
    (captureKey slot gate + o) / 4096 ≠ 0xA := by
  have hgslot : PageT.first .gslot = 0x18 := rfl
  have hgate : PageT.first .gate = 0x400 := rfl
  cases slot <;> simp only [captureKey, rk, hgslot, hgate, if_true, Bool.false_eq_true, if_false] <;> omega

/-- A denied part's record changes the registers of its capture as `Dev.capture` does: GATELOG is another page. -/
theorem Dev.reg_violation_capture (d : Dev) (r : Req) (a : Acc) (den : Denial) (slot : Bool) (gate addr o : Nat)
    (hg : gate < (if slot then 2048 else 549)) (ho : o ≤ 0x10) :
    (d.violation r a den slot gate addr).reg (captureKey slot gate + o) =
      (d.capture (captureKey slot gate) (captureKey slot gate + 0x10) (violationWords d r a den slot gate addr)).reg (captureKey slot gate + o) := by
  rw [Dev.violation_eq, Dev.reg_gateLog_of_page_ne _ _ _ rfl (captureKey_page_ne slot gate o hg ho)]

/-! ### The capture's status written -/

/-- Two rows of the page index share no page. -/
abbrev PageRow.Apart (r t : PageRow) : Prop := r.first + r.count ≤ t.first ∨ t.first + t.count ≤ r.first

/-- No page lies in two rows of the page index (11 Table 11.5). -/
theorem pageIndex_apart : pageIndex.Pairwise PageRow.Apart := by decide

/-- The row that holds a page number is the one `pageOf` finds. -/
theorem pageOf_of_mem {r : PageRow} {n : Nat} (hr : r ∈ pageIndex) (h1 : r.first ≤ n) (h2 : n < r.first + r.count) :
    pageOf n = some (r, n - r.first) := by
  unfold pageOf
  cases hf : pageIndex.find? (fun r => r.first ≤ n && n < r.first + r.count) with
  | none => simpa [h1, h2] using List.find?_eq_none.1 hf r hr
  | some t =>
    have ht : t.first ≤ n ∧ n < t.first + t.count := by simpa using List.find?_some hf
    have htr : t = r := by
      by_contra hne
      have hsymm : Std.Symm PageRow.Apart := ⟨fun _ _ => Or.symm⟩
      have hapart : PageRow.Apart t r := pageIndex_apart.forall (List.mem_of_find?_eq_some hf) hr hne
      omega
    rw [htr, Option.map_some]

theorem pageOf_gate {n : Nat} (h1 : 0x400 ≤ n) (h2 : n < 0x625) : pageOf n = some (⟨0x400, 549, .gate, 0x034, false⟩, n - 0x400) :=
  pageOf_of_mem (by simp [pageIndex]) h1 h2

theorem pageOf_gslot {n : Nat} (h1 : 0x18 ≤ n) (h2 : n < 0x1C) : pageOf n = some (⟨0x018, 4, .gslot, 0x032, false⟩, n - 0x18) :=
  pageOf_of_mem (by simp [pageIndex]) h1 h2

/-- A write of a page's capture status that reaches it is made by the register's own rule. -/
theorem exec_captureClear_of_special {s : State} {m : RegMaster} {page : Fin 2048} {v : W32} {off i idx : Nat} {r : PageRow} {rd : RegDef}
    {w : Dev} (hw : s.dev.writable m page.val off = true) (hp : pageOf page.val = some (r, i))
    (hoff : (if r.type = .gslot then 0x910 else 0x220) = off) (hr : regDefAt r.type off = some (rd, idx))
    (hs : s.dev.special s.fuse m r.type i page.val rd idx v = some w) : exec (.captureClear m page v) s = toDev s w := by
  have hexec : exec (.captureClear m page v) s = execCaptureClear m page v s := rfl
  simp only [hexec, execCaptureClear, onBus, onDev, toDev, hp, Option.any_some, decide_eq_true_eq, hoff,
    Dev.busWrite_at _ _ _ _ _ _ _ _ _ _ hw hp hr, hs]

/-- A write of GATE_CAPSTS or GSLOT_CAPSTS that reaches it is made as `Dev.clearCap`. -/
theorem exec_captureClear (s : State) (m : RegMaster) (page : Fin 2048) (v : W32) (off : Nat)
    (hc : (0x400 ≤ page.val ∧ page.val < 0x625 ∧ off = 0x220) ∨ (0x18 ≤ page.val ∧ page.val < 0x1C ∧ off = 0x910))
    (hw : s.dev.writable m page.val off = true) :
    exec (.captureClear m page v) s = toDev s (s.dev.clearCap (page.val * 4096 + off) v) := by
  rcases hc with ⟨h1, h2, rfl⟩ | ⟨h1, h2, rfl⟩
  · exact exec_captureClear_of_special hw (pageOf_gate h1 h2) rfl rfl rfl
  · exact exec_captureClear_of_special hw (pageOf_gslot h1 h2) rfl rfl rfl

/-- A write of 1 to VALID clears VALID and OVF, whatever it writes to OVF. -/
theorem Dev.clearCap_valid (d : Dev) (k : Nat) (v : W32) (h : bit v 31 = true) :
    (d.clearCap k v).reg k = d.reg k &&& 0x3FFFFFFF := by
  simp only [Dev.clearCap, h, if_true]
  split
  · simp only [Dev.reg_setRf, if_true, setFld_zero, BitVec.and_assoc]; rfl
  · simp only [Dev.reg_setRf, if_true, setFld_zero]; rfl

theorem Dev.clearCap_onlyRegs (d : Dev) (k : Nat) (v : W32) : d.onlyRegs (d.clearCap k v) [k] := by
  refine ⟨?_, fun j hj => ?_⟩ <;> unfold Dev.clearCap
  · split <;> split <;> rfl
  · rw [List.mem_singleton] at hj
    split <;> split <;> simp only [Dev.reg_setRf, if_neg hj]

end Sys2Proof.Machine

open Sys2Proof Sys2Proof.Machine

/-- Settles O28: the record lands in the capture of its page, GATELOG being another page, and a write of the status is `Dev.clearCap`. -/
theorem captureHolds : Obligations.CaptureHolds := by
  unfold Obligations.CaptureHolds
  refine ⟨fun d r a den slot gate addr hg => ?_, fun s m page v off hc hw hv => ?_, fun s m page v off hc hw => ?_⟩
  · have hreg := fun o => Dev.reg_violation_capture d r a den slot gate addr o hg
    refine ⟨fun h => ?_, fun h => ?_⟩
    · obtain ⟨hsts, hcap⟩ := Dev.capture_first d (captureKey slot gate) (violationWords d r a den slot gate addr) rfl h
      exact ⟨(hreg _ le_rfl).trans hsts, fun i hi => (hreg _ (by omega)).trans (hcap i hi)⟩
    · obtain ⟨hsts, hcap⟩ := Dev.capture_later d (captureKey slot gate) (violationWords d r a den slot gate addr) h
      exact ⟨(hreg _ le_rfl).trans hsts, fun i hi => (hreg _ (by omega)).trans (hcap i hi)⟩
  · exact ⟨_, exec_captureClear s m page v off hc hw, Dev.clearCap_valid _ _ _ hv, Dev.clearCap_onlyRegs ..⟩
  · exact exec_captureClear s m page v off hc hw
end

section
/-!
PROOFS. Page interrupts (11 R297), and what a write of a swap register does while a swap is armed (11 R303).
-/
namespace Sys2Proof.Machine

/-! ### Bits that rise under a mask -/

/-- Some bit of `new` is 1 where `old` has 0 and `mask` has 1. -/
abbrev RisesUnder (new old mask : Nat → Bool) : Prop := ∃ j, j < 32 ∧ new j = true ∧ old j = false ∧ mask j = true

theorem not_risesUnder_iff (new old mask : Nat → Bool) :
    ¬ RisesUnder new old mask ↔ ∀ j, j < 32 → new j = true → old j = true ∨ mask j = false := by
  simp only [RisesUnder, not_exists, not_and, Bool.not_eq_true, or_iff_not_imp_left]

/-- A value chosen by a rise, as the two cases of R297. -/
theorem eq_ite_risesUnder_cases {α : Type} {x a b : α} {new old mask : Nat → Bool} (h : x = if RisesUnder new old mask then a else b) :
    (RisesUnder new old mask → x = a) ∧ ((∀ j, j < 32 → new j = true → old j = true ∨ mask j = false) → x = b) := by
  rw [← not_risesUnder_iff]
  exact ⟨fun r => h.trans (if_pos r), fun r => h.trans (if_neg r)⟩

/-- A word is not 0 when one of its bits is 1. -/
theorem word_ne_zero_iff (x : W32) : x ≠ 0 ↔ ∃ j, j < 32 ∧ x.getLsbD j = true := by
  refine ⟨fun h => ?_, ?_⟩
  · obtain ⟨j, hj⟩ := Nat.exists_testBit_of_ne_zero (BitVec.toNat_ne.1 h)
    exact ⟨j, BitVec.lt_of_getLsbD hj, hj⟩
  · rintro ⟨j, -, hj⟩ rfl
    simp at hj

/-- The test that follows a write of the enables: bits that the new word has and the old one had not, under the status. -/
theorem newBits_masked_ne_zero_iff (new old mask : W32) :
    new &&& ~~~old &&& mask ≠ 0 ↔ RisesUnder new.getLsbD old.getLsbD mask.getLsbD := by
  rw [word_ne_zero_iff]
  refine exists_congr fun j => and_congr_right fun hj => ?_
  simp [hj, and_assoc]

/-- The test on a rise of the status: bits that setting `bits` changes, under the enables. -/
theorem setBits_masked_ne_zero_iff (sts mask : W32) (bits : Nat) :
    ((sts.toNat ||| bits) ^^^ sts.toNat) &&& mask.toNat ≠ 0 ↔ RisesUnder bits.testBit sts.getLsbD mask.getLsbD := by
  have hword : ((sts.toNat ||| bits) ^^^ sts.toNat) &&& mask.toNat = (BitVec.ofNat 32 bits &&& ~~~sts &&& mask).toNat := by
    refine Nat.eq_of_testBit_eq fun j => ?_
    simp only [Nat.testBit_and, Nat.testBit_xor, Nat.testBit_or, BitVec.testBit_toNat, BitVec.getLsbD_and, BitVec.getLsbD_not,
      BitVec.getLsbD_ofNat]
    cases hm : mask.getLsbD j
    · simp
    · have hj := BitVec.lt_of_getLsbD hm
      cases sts.getLsbD j <;> simp [hj]
  have hne := BitVec.toNat_ne.symm.trans (newBits_masked_ne_zero_iff (BitVec.ofNat 32 bits) sts mask)
  rw [hword]
  refine hne.trans (exists_congr fun j => and_congr_right fun hj => ?_)
  rw [BitVec.getLsbD_ofNat, decide_eq_true hj, Bool.true_and]

/-! ### A page's status set, and a page's configuration error -/

/-- Status bits set: the vector is sent when one of them rises under its enable (R297). -/
theorem Dev.raiseIrq_eq (d : Dev) (page bits : Nat) :
    let k := page * 4096 + 0x10
    let y := d.setReg k (d.reg k ||| BitVec.ofNat 32 bits)
    d.raiseIrq page bits =
      if RisesUnder bits.testBit (d.rbit k) (d.rbit (page * 4096 + 0x14)) then y.sendMsix (d.rf (page * 4096 + 8) 0 11) else y := by
  simp only [Dev.raiseIrq, setBits_masked_ne_zero_iff, BitVec.ofNat_or, BitVec.ofNat_toNat, BitVec.setWidth_eq]
  rfl

@[simp] theorem Dev.sendMsix_shadow (d : Dev) (v : Nat) : (d.sendMsix v).shadow = d.shadow := by
  unfold Dev.sendMsix
  split
  · rfl
  · split <;> rfl

@[simp] theorem Dev.raiseIrq_shadow (d : Dev) (page bits : Nat) : (d.raiseIrq page bits).shadow = d.shadow := by
  unfold Dev.raiseIrq
  dsimp only
  split <;> simp

@[simp] theorem Dev.cfgErr_shadow (d : Dev) (page : Nat) : (d.cfgErr page).shadow = d.shadow := by simp [Dev.cfgErr]

/-- A configuration error changes PAGE_STS and IRQ_STS of its page alone. -/
theorem Dev.reg_cfgErr_of_ne (d : Dev) (page k : Nat) (hsts : k ≠ page * 4096 + 0xC) (hirq : k ≠ page * 4096 + 0x10) :
    (d.cfgErr page).reg k = d.reg k := by
  rw [Dev.cfgErr, Dev.reg_raiseIrq_of_ne _ _ _ _ hirq, Dev.reg_setRf, if_neg hsts]

theorem Dev.rbit_cfgErr (d : Dev) (page : Nat) : (d.cfgErr page).rbit (page * 4096 + 0xC) 31 = true := by
  rw [Dev.rbit, Dev.cfgErr, Dev.reg_raiseIrq_of_ne _ _ _ _ (by omega), Dev.reg_setRf, if_pos rfl, setFld_one]
  simp

/-! ### Register writes that reach their register -/

/-- A register write on the bus makes the device as `Dev.busWrite` does. -/
theorem exec_registerWrite (s : State) (m : RegMaster) (page : Fin 2304) (off : Nat) (v : W32) (hp : page.val < 2048) :
    exec (.registerWrite m page off 0xF v) s = toDev s (s.dev.busWrite s.fuse m page.val off 0xF v).1 := if_pos hp

/-- PAGE_CTL, IRQ_EN and the other common registers below ERR_CAP0 have no write rule of their own. -/
theorem Dev.special_none_of_low (fz : Fuses) (d : Dev) (m : RegMaster) (t : PageT) (i page : Nat) (rd : RegDef) (idx : Nat) (v : W32)
    (h : rd.off < 0x18) : d.special fz m t i page rd idx v = none := by
  unfold Dev.special
  split
  any_goals omega
  rfl

/-- No common register below ERR_CAP0 has a field with a reserved value. -/
theorem Dev.badBits_low (d : Dev) (t : PageT) (i off idx : Nat) (v old : W32) (h : off < 0x18) : d.badBits t i off idx v old = 0 := by
  unfold Dev.badBits
  split <;> omega

/-- `BitVec.and_allOnes` at the numeral that `simp` makes of a mask of every bit. -/
@[simp] theorem word_and_all (x : W32) : x &&& 0xFFFFFFFF#32 = x := BitVec.and_allOnes

/-- A register whose fields are RW alone takes the value at once. -/
theorem Dev.writeFields_rw (d : Dev) (page k off rw wo : Nat) (v : W32) :
    d.writeFields page k 0 { off, rw, wo } v = d.setReg k ((d.reg k &&& ~~~BitVec.ofNat 32 rw) ||| (v &&& BitVec.ofNat 32 rw)) := by
  simp [Dev.writeFields]

/-- A write of a common register that holds RW fields stores them, and what follows a write of that register follows. -/
theorem Dev.busWrite_low {fz : Fuses} {d : Dev} {m : RegMaster} {page off rw wo : Nat} {v : W32} (hw : d.writable m page off = true) (h : off < 0x18)
    (hr : ∀ t, regDefAt t off = some ({ off, rw, wo }, 0)) :
    ∃ t i, (d.busWrite fz m page off 0xF v).1 =
      (d.setReg (page * 4096 + off) ((d.reg (page * 4096 + off) &&& ~~~BitVec.ofNat 32 rw) ||| (v &&& BitVec.ofNat 32 rw))).after d t i page off v := by
  obtain ⟨r, i, rd, idx, hp, -, -⟩ := Dev.busWrite_writable fz d m page off v hw
  refine ⟨r.type, i, ?_⟩
  rw [Dev.busWrite_at _ _ _ _ _ _ _ _ _ _ hw hp (hr _), Dev.special_none_of_low _ _ _ _ _ _ _ _ _ h]
  simp only [Dev.badBits_low _ _ _ _ _ _ _ h, Dev.writeFields_rw]

/-! ### The enables written -/

theorem Dev.after_irqEn (d old : Dev) (t : PageT) (i page : Nat) (v : W32) :
    d.after old t i page 0x14 v =
      let rises := (d.reg (page * 4096 + 0x14)) &&& ~~~(old.reg (page * 4096 + 0x14))
      if rises &&& d.reg (page * 4096 + 0x10) != 0 then d.sendMsix (d.rf (page * 4096 + 8) 0 11) else d := by
  cases t <;> rfl

/-- A write of IRQ_EN: the vector is sent when an enable rises over its status bit (R297). -/
theorem Dev.busWrite_irqEn (fz : Fuses) (d : Dev) (m : RegMaster) (page : Nat) (v : W32) (hw : d.writable m page 0x14 = true) :
    let k := page * 4096 + 0x14
    let y := d.setReg k v
    (d.busWrite fz m page 0x14 0xF v).1 =
      if RisesUnder (bit v) (d.rbit k) (d.rbit (page * 4096 + 0x10)) then y.sendMsix (d.rf (page * 4096 + 8) 0 11) else y := by
  obtain ⟨t, i, hb⟩ := Dev.busWrite_low (fz := fz) (v := v) hw (by decide) (fun _ => rfl)
  have hstored (x : W32) : (x &&& ~~~BitVec.ofNat 32 all32) ||| (v &&& BitVec.ofNat 32 all32) = v := by simp [all32]
  have hsts : (d.setReg (page * 4096 + 0x14) v).reg (page * 4096 + 0x10) = d.reg (page * 4096 + 0x10) := by simp
  have hctl : (d.setReg (page * 4096 + 0x14) v).rf (page * 4096 + 8) 0 11 = d.rf (page * 4096 + 8) 0 11 := by simp [Dev.rf]
  rw [hb, hstored, Dev.after_irqEn, hsts, hctl]
  simp only [Dev.reg_setReg, if_true, bne_iff_ne, newBits_masked_ne_zero_iff]
  rfl

/-! ### The swap registers written -/

/-- A write of SWAP_CTL is made by its own rule. -/
theorem Dev.busWrite_swapCtl (fz : Fuses) (d : Dev) (m : RegMaster) (v : W32) (hw : d.writable m 0 0x108 = true) :
    (d.busWrite fz m 0 0x108 0xF v).1 = d.writeSwapCtl v := by
  rw [Dev.busWrite_at fz d m 0 0x108 v _ _ _ _ hw rfl rfl]
  rfl

/-- ARM written as 0, with neither NOW nor DISCARD, disarms. -/
theorem Dev.writeSwapCtl_disarm (d : Dev) (h : d.armed = true) : d.writeSwapCtl 0 = d.disarm := by
  simp [Dev.writeSwapCtl, bit, h]

theorem Dev.armed_congr {d y : Dev} (h : y.reg swapSts = d.reg swapSts) : y.armed = d.armed := by
  rw [Dev.armed, Dev.rbit, h]
  rfl

/-- SWAP_AT is refused while a swap is armed. -/
theorem Dev.busWrite_swapAt_armed (fz : Fuses) (d : Dev) (m : RegMaster) (off : Nat) (v : W32) (ho : off = 0x100 ∨ off = 0x104)
    (hw : d.writable m 0 off = true) (h : d.armed = true) : (d.busWrite fz m 0 off 0xF v).1 = d.cfgErr 0 := by
  rcases ho with rfl | rfl <;>
  · rw [Dev.busWrite_at fz d m 0 _ v _ _ _ _ hw rfl rfl]
    simp only [Dev.special, h, if_true]

/-- A configuration error of any page leaves an armed swap armed. -/
@[simp] theorem Dev.cfgErr_armed (d : Dev) (page : Nat) : (d.cfgErr page).armed = d.armed := by
  have hk : swapSts = 0x10C := rfl
  exact Dev.armed_congr (Dev.reg_cfgErr_of_ne _ _ _ (by omega) (by omega))

/-- NOW or DISCARD while a swap is armed: refused, and the ARM bit written as 0 disarms. -/
theorem Dev.writeSwapCtl_refused_disarm (d : Dev) (v : W32) (h : d.armed = true) (harm : bit v 0 = false) (hone : bit v 2 = !bit v 1) :
    d.writeSwapCtl v = (d.cfgErr 0).disarm := by
  have hpage : PageT.first .devctl = 0 := rfl
  cases hnow : bit v 1 <;> simp [Dev.writeSwapCtl, harm, hone, hnow, h, hpage]

/-- ARM with NOW or DISCARD, and NOW with DISCARD: refused, and ARM does not act either. -/
theorem Dev.writeSwapCtl_refused_whole (d : Dev) (v : W32)
    (h : (bit v 0 = true ∧ (bit v 1 = true ∨ bit v 2 = true)) ∨ (bit v 1 = true ∧ bit v 2 = true)) : d.writeSwapCtl v = d.cfgErr 0 := by
  simp only [Dev.writeSwapCtl]
  rw [if_pos (by simpa using h)]
  rfl

theorem Dev.disarm_armed (d : Dev) : d.disarm.armed = false := by
  have hctl : swapSts ≠ swapCtl := by decide
  show ((d.setRf swapSts 31 1 0).setRf swapCtl 0 1 0).rbit swapSts 31 = false
  rw [Dev.rbit, Dev.reg_setRf, if_neg hctl, Dev.reg_setRf, if_pos rfl, setFld_zero]
  simp

theorem Dev.after_pageCtl (d old : Dev) (t : PageT) (i page : Nat) (v : W32) :
    d.after old t i page 8 v = if bit v 30 then d.resync page else d := by
  cases t <;> rfl

/-- PAGE_CTL written with RESYNC while a swap is armed: its fields are stored, and the request is refused. -/
theorem Dev.busWrite_resync_armed (fz : Fuses) (d : Dev) (m : RegMaster) (page : Nat) (v : W32) (hw : d.writable m page 8 = true)
    (hv : bit v 30 = true) (h : d.armed = true) : ∃ x, (d.busWrite fz m page 8 0xF v).1 = (d.setReg (page * 4096 + 8) x).cfgErr page := by
  obtain ⟨t, i, hb⟩ := Dev.busWrite_low (fz := fz) (v := v) hw (by decide) (fun _ => rfl)
  have hk : swapSts = 0x10C := rfl
  have harmed (x : W32) : (d.setReg (page * 4096 + 8) x).armed = true :=
    (Dev.armed_congr (by rw [Dev.reg_setReg, if_neg (by omega)])).trans h
  rw [Dev.after_pageCtl, if_pos hv, Dev.resync, if_pos (harmed _)] at hb
  exact ⟨_, hb⟩

end Sys2Proof.Machine

open Sys2Proof Sys2Proof.Machine

/-- Settles O29: a rise of the status is `Dev.raiseIrq`, a write of the enables is `Dev.busWrite_irqEn`, and each sends by `RisesUnder`. -/
theorem pageInterrupts : Obligations.PageInterrupts := by
  unfold Obligations.PageInterrupts
  refine ⟨fun d page bits _ => eq_ite_risesUnder_cases (Dev.raiseIrq_eq d page bits), fun s m page v hp hw => eq_ite_risesUnder_cases ?_⟩
  rw [exec_registerWrite _ _ _ _ _ hp, Dev.busWrite_irqEn _ _ _ _ _ hw, apply_ite (toDev s)]

/-- Settles O31: the writes are `Dev.writeSwapCtl`, the refused SWAP_AT and RESYNC, and `Dev.disarm` keeps what is staged. -/
theorem swapRefusals : Obligations.SwapRefusals := by
  unfold Obligations.SwapRefusals
  refine ⟨fun s m v h => ⟨fun o ho hw => ?_, fun hw => ?_, fun page hw => ?_⟩, fun s m v hw hv => ?_⟩
  · rw [exec_registerWrite _ _ _ _ _ (by decide)]
    exact congrArg (toDev s) (Dev.busWrite_swapAt_armed s.fuse s.dev m o v (by simpa using ho) hw h)
  · have hctl (w : W32) := congrArg (toDev s) (Dev.busWrite_swapCtl s.fuse s.dev m w hw)
    refine ⟨(hctl 2).trans ?_, (hctl 4).trans ?_, (hctl 0).trans ?_, rfl, Dev.cfgErr_shadow _ _, Dev.disarm_armed _⟩
    · rw [Dev.writeSwapCtl_refused_disarm _ _ h (by decide) (by decide)]; rfl
    · rw [Dev.writeSwapCtl_refused_disarm _ _ h (by decide) (by decide)]; rfl
    · rw [Dev.writeSwapCtl_disarm _ h]; rfl
  · have hv : bit (s.dev.reg (page.val * 4096 + 8) ||| 0x4000_0000) 30 = true := by simp [bit]
    obtain ⟨x, hx⟩ := Dev.busWrite_resync_armed s.fuse s.dev m page.val _ hw hv h
    refine ⟨_, congrArg (toDev s) hx, Dev.cfgErr_shadow _ _, Dev.rbit_cfgErr _ _, fun k hk => ?_⟩
    rw [Dev.reg_cfgErr_of_ne _ _ _ (by omega) (by omega), Dev.reg_setReg, if_neg (by omega)]
  · rw [exec_registerWrite _ _ _ _ _ (by decide)]
    exact congrArg (toDev s) ((Dev.busWrite_swapCtl s.fuse s.dev m v hw).trans (Dev.writeSwapCtl_refused_whole _ _ hv))
end
